-- ==== Sys2Proof/Word.lean ====
section
/-! DEFINITION. The word types of the PX-T8A and their plainest arithmetic. -/

namespace Sys2Proof

/-- One value per lane: lane L holds bits [128L + 127 : 128L] (R66, R105). -/
abbrev Row := BitVec 4096
/-- A g register: lane L holds bits [32L + 31 : 32L] (R100, R202). -/
abbrev GRow := BitVec 1024
/-- One bit per lane. -/
abbrev Mask := BitVec 32
/-- The value of one lane (R66). -/
abbrev Slice := BitVec 128
/-- A bundle address [51:5] (R113). -/
abbrev BAddr := BitVec 47
/-- A memory byte (R4). -/
abbrev Byte := BitVec 8

end Sys2Proof
end

