-- ==== Sys2Proof/Syntax.lean ====
section
/-! DEFINITION. The instruction type: one constructor for every row of spec/opcode_table.json.

A row is one step of the part (95_what_each_step_holds.md). The rows that one move of a bundle performs carry the
fields of the 40-bit move (R63). The rows that are events carry nothing: which agent acts, and what the outside hands
in, stand in the state's selection (log 2). -/

namespace Sys2Proof

/-- The source half of a move: guard, source class and selector, PEEK (R63 to R65). -/
structure Src where
  /-- GINV, bit 39 (R63) -/
  ginv : Bool
  /-- GQ, bits 38:35 -/
  gq : BitVec 4
  /-- SCLS, bits 34:33 -/
  scls : BitVec 2
  /-- SSEL, bits 32:23 -/
  ssel : BitVec 10
  /-- PEEK, bit 2 -/
  peek : Bool
  deriving DecidableEq, Repr

/-- A destination in a register file, or null (R70, R71). -/
inductive Dst where
  | g (i : BitVec 9)
  | v (i : BitVec 9)
  | k (i : BitVec 9)
  | q (i : BitVec 9)
  | null
  deriving DecidableEq, Repr

/-- A port a move can latch (R72). -/
inductive PortName where
  | a | b | aux
  deriving DecidableEq, Repr

/-- The classes of unit (R17). -/
inductive UnitCls where
  | ia | fv | sf | xl | ls | sp | cp | mx | br | sy | ss | ln
  deriving DecidableEq, Repr

/-- A trigger: source, which unit of its class, TYPE (bits 8:6) and bits 5:3 (R63). -/
structure Trig where
  src : Src
  inst : BitVec 2
  typ : BitVec 3
  mod : BitVec 3
  deriving DecidableEq, Repr

/-- One constructor per row of the opcode table: the rows of a move first, then the events, each in the table's order. -/
inductive Instr where
  /-- MOVE (R71) -/
  | move (src : Src) (dst : Dst)
  /-- PORT_LATCH (R72) -/
  | portLatch (src : Src) (unit : BitVec 5) (port : PortName)
  /-- IA_ADD (R122) -/
  | iaAdd (t : Trig)
  /-- IA_SUB (R122) -/
  | iaSub (t : Trig)
  /-- IA_RSUB (R122) -/
  | iaRsub (t : Trig)
  /-- IA_NEG (R123) -/
  | iaNeg (t : Trig)
  /-- IA_ABS (R123) -/
  | iaAbs (t : Trig)
  /-- IA_MIN (R122) -/
  | iaMin (t : Trig)
  /-- IA_MAX (R122) -/
  | iaMax (t : Trig)
  /-- IA_ADDSAT (R124) -/
  | iaAddsat (t : Trig)
  /-- IA_SUBSAT (R124) -/
  | iaSubsat (t : Trig)
  /-- IA_MUL (R123) -/
  | iaMul (t : Trig)
  /-- IA_MULHI (R125) -/
  | iaMulhi (t : Trig)
  /-- IA_MAD (R123) -/
  | iaMad (t : Trig)
  /-- IA_LEA (R134) -/
  | iaLea (t : Trig)
  /-- IA_HMIX (R135) -/
  | iaHmix (t : Trig)
  /-- IA_MOV (R136) -/
  | iaMov (t : Trig)
  /-- IA_AND (R126) -/
  | iaAnd (t : Trig)
  /-- IA_OR (R126) -/
  | iaOr (t : Trig)
  /-- IA_XOR (R126) -/
  | iaXor (t : Trig)
  /-- IA_ANDN (R126) -/
  | iaAndn (t : Trig)
  /-- IA_NOT (R126) -/
  | iaNot (t : Trig)
  /-- IA_SHL (R127) -/
  | iaShl (t : Trig)
  /-- IA_SHR (R127) -/
  | iaShr (t : Trig)
  /-- IA_SAR (R127) -/
  | iaSar (t : Trig)
  /-- IA_ROT (R127) -/
  | iaRot (t : Trig)
  /-- IA_CLZ (R128) -/
  | iaClz (t : Trig)
  /-- IA_CTZ (R128) -/
  | iaCtz (t : Trig)
  /-- IA_POP (R128) -/
  | iaPop (t : Trig)
  /-- IA_BREV (R128) -/
  | iaBrev (t : Trig)
  /-- IA_BFX (R129) -/
  | iaBfx (t : Trig)
  /-- IA_BFI (R130) -/
  | iaBfi (t : Trig)
  /-- IA_SEL (R131) -/
  | iaSel (t : Trig)
  /-- IA_CMPEQ (R132) -/
  | iaCmpeq (t : Trig)
  /-- IA_CMPNE (R132) -/
  | iaCmpne (t : Trig)
  /-- IA_CMPLT (R132) -/
  | iaCmplt (t : Trig)
  /-- IA_CMPLE (R132) -/
  | iaCmple (t : Trig)
  /-- IA_CMPGT (R132) -/
  | iaCmpgt (t : Trig)
  /-- IA_CMPGE (R132) -/
  | iaCmpge (t : Trig)
  /-- FV_FADD (R143) -/
  | fvFadd (t : Trig)
  /-- FV_FSUB (R143) -/
  | fvFsub (t : Trig)
  /-- FV_FMUL (R143) -/
  | fvFmul (t : Trig)
  /-- FV_FMA (R143) -/
  | fvFma (t : Trig)
  /-- FV_FMS (R143) -/
  | fvFms (t : Trig)
  /-- FV_FNMA (R143) -/
  | fvFnma (t : Trig)
  /-- FV_FMIN (R144) -/
  | fvFmin (t : Trig)
  /-- FV_FMAX (R144) -/
  | fvFmax (t : Trig)
  /-- FV_FABS (R147) -/
  | fvFabs (t : Trig)
  /-- FV_FNEG (R147) -/
  | fvFneg (t : Trig)
  /-- FV_FCMP (R145) -/
  | fvFcmp (t : Trig)
  /-- FV_FRND (R146) -/
  | fvFrnd (t : Trig)
  /-- FV_VADD (R148) -/
  | fvVadd (t : Trig)
  /-- FV_VSUB (R148) -/
  | fvVsub (t : Trig)
  /-- FV_VMUL (R148) -/
  | fvVmul (t : Trig)
  /-- FV_VMAD (R148) -/
  | fvVmad (t : Trig)
  /-- FV_VMIN (R148) -/
  | fvVmin (t : Trig)
  /-- FV_VMAX (R148) -/
  | fvVmax (t : Trig)
  /-- FV_VAND (R149) -/
  | fvVand (t : Trig)
  /-- FV_VOR (R149) -/
  | fvVor (t : Trig)
  /-- FV_VXOR (R149) -/
  | fvVxor (t : Trig)
  /-- FV_VSEL (R149) -/
  | fvVsel (t : Trig)
  /-- FV_CMUL (R150) -/
  | fvCmul (t : Trig)
  /-- FV_CMAC (R150) -/
  | fvCmac (t : Trig)
  /-- FV_DOT4 (R151) -/
  | fvDot4 (t : Trig)
  /-- FV_HSUM (R152) -/
  | fvHsum (t : Trig)
  /-- FV_PACK (R153) -/
  | fvPack (t : Trig)
  /-- FV_UNPACK (R153) -/
  | fvUnpack (t : Trig)
  /-- FV_BSHUF (R153) -/
  | fvBshuf (t : Trig)
  /-- FV_MOVV (R153) -/
  | fvMovv (t : Trig)
  /-- FV_CVTF32 (R154) -/
  | fvCvtf32 (t : Trig)
  /-- FV_CVTBF16 (R154) -/
  | fvCvtbf16 (t : Trig)
  /-- FV_CVTF16 (R154) -/
  | fvCvtf16 (t : Trig)
  /-- FV_CVTI32 (R154) -/
  | fvCvti32 (t : Trig)
  /-- FV_CVTN32 (R154) -/
  | fvCvtn32 (t : Trig)
  /-- FV_CVTI16 (R154) -/
  | fvCvti16 (t : Trig)
  /-- FV_CVTN16 (R154) -/
  | fvCvtn16 (t : Trig)
  /-- FV_CVTI8 (R154) -/
  | fvCvti8 (t : Trig)
  /-- FV_CVTN8 (R154) -/
  | fvCvtn8 (t : Trig)
  /-- FV_CVTB4 (R158) -/
  | fvCvtb4 (t : Trig)
  /-- FV_CVTB8 (R158) -/
  | fvCvtb8 (t : Trig)
  /-- FV_CVTB12 (R158) -/
  | fvCvtb12 (t : Trig)
  /-- FV_CVTC4 (R154) -/
  | fvCvtc4 (t : Trig)
  /-- FV_CVTC8 (R154) -/
  | fvCvtc8 (t : Trig)
  /-- FV_CVTCI32 (R154) -/
  | fvCvtci32 (t : Trig)
  /-- SF_EXP2 (R163) -/
  | sfExp2 (t : Trig)
  /-- SF_EXP (R163) -/
  | sfExp (t : Trig)
  /-- SF_LOG2 (R163) -/
  | sfLog2 (t : Trig)
  /-- SF_LN (R163) -/
  | sfLn (t : Trig)
  /-- SF_RCP (R163) -/
  | sfRcp (t : Trig)
  /-- SF_RSQRT (R163) -/
  | sfRsqrt (t : Trig)
  /-- SF_SQRT (R163) -/
  | sfSqrt (t : Trig)
  /-- SF_SIN (R163) -/
  | sfSin (t : Trig)
  /-- SF_COS (R163) -/
  | sfCos (t : Trig)
  /-- SF_TANH (R163) -/
  | sfTanh (t : Trig)
  /-- SF_SIGM (R163) -/
  | sfSigm (t : Trig)
  /-- SF_ERF (R163) -/
  | sfErf (t : Trig)
  /-- SF_RMAX (R169) -/
  | sfRmax (t : Trig)
  /-- SF_REXP (R170) -/
  | sfRexp (t : Trig)
  /-- SF_RDIV (R172) -/
  | sfRdiv (t : Trig)
  /-- SF_RMSQ (R173) -/
  | sfRmsq (t : Trig)
  /-- XL_SHFL (R188) -/
  | xlShfl (t : Trig)
  /-- XL_SHUP (R188) -/
  | xlShup (t : Trig)
  /-- XL_SHDN (R188) -/
  | xlShdn (t : Trig)
  /-- XL_XORSH (R188) -/
  | xlXorsh (t : Trig)
  /-- XL_BCAST (R188) -/
  | xlBcast (t : Trig)
  /-- XL_BALLOT (R188) -/
  | xlBallot (t : Trig)
  /-- XL_ANYL (R188) -/
  | xlAnyl (t : Trig)
  /-- XL_ALLL (R188) -/
  | xlAlll (t : Trig)
  /-- XL_ELECT (R188) -/
  | xlElect (t : Trig)
  /-- XL_LANEMASK (R188) -/
  | xlLanemask (t : Trig)
  /-- XL_POPL (R188) -/
  | xlPopl (t : Trig)
  /-- XL_RMIN (R189) -/
  | xlRmin (t : Trig)
  /-- XL_RMAX (R189) -/
  | xlRmax (t : Trig)
  /-- XL_RADD (R189) -/
  | xlRadd (t : Trig)
  /-- XL_SCANADD (R189) -/
  | xlScanadd (t : Trig)
  /-- LS_LD (R211) -/
  | lsLd (t : Trig)
  /-- LS_ST (R212) -/
  | lsSt (t : Trig)
  /-- LS_LDV (R211) -/
  | lsLdv (t : Trig)
  /-- LS_STV (R212) -/
  | lsStv (t : Trig)
  /-- LS_LDACQ (R217) -/
  | lsLdacq (t : Trig)
  /-- LS_STREL (R217) -/
  | lsStrel (t : Trig)
  /-- LS_PF (R213) -/
  | lsPf (t : Trig)
  /-- LS_LDNC (R214) -/
  | lsLdnc (t : Trig)
  /-- LS_ST_MC (R218) -/
  | lsStMc (t : Trig)
  /-- LS_AADD (R215) -/
  | lsAadd (t : Trig)
  /-- LS_ASUB (R215) -/
  | lsAsub (t : Trig)
  /-- LS_AMIN (R215) -/
  | lsAmin (t : Trig)
  /-- LS_AMAX (R215) -/
  | lsAmax (t : Trig)
  /-- LS_AAND (R215) -/
  | lsAand (t : Trig)
  /-- LS_AOR (R215) -/
  | lsAor (t : Trig)
  /-- LS_AXOR (R215) -/
  | lsAxor (t : Trig)
  /-- LS_AXCH (R215) -/
  | lsAxch (t : Trig)
  /-- LS_ACAS (R215) -/
  | lsAcas (t : Trig)
  /-- LS_AADDF (R215) -/
  | lsAaddf (t : Trig)
  /-- LS_AADD_ACQ (R217) -/
  | lsAaddAcq (t : Trig)
  /-- LS_ASUB_ACQ (R217) -/
  | lsAsubAcq (t : Trig)
  /-- LS_AMIN_ACQ (R217) -/
  | lsAminAcq (t : Trig)
  /-- LS_AMAX_ACQ (R217) -/
  | lsAmaxAcq (t : Trig)
  /-- LS_AAND_ACQ (R217) -/
  | lsAandAcq (t : Trig)
  /-- LS_AOR_ACQ (R217) -/
  | lsAorAcq (t : Trig)
  /-- LS_AXOR_ACQ (R217) -/
  | lsAxorAcq (t : Trig)
  /-- LS_AXCH_ACQ (R217) -/
  | lsAxchAcq (t : Trig)
  /-- LS_ACAS_ACQ (R217) -/
  | lsAcasAcq (t : Trig)
  /-- LS_AADDF_ACQ (R217) -/
  | lsAaddfAcq (t : Trig)
  /-- LS_AADD_REL (R217) -/
  | lsAaddRel (t : Trig)
  /-- LS_ASUB_REL (R217) -/
  | lsAsubRel (t : Trig)
  /-- LS_AMIN_REL (R217) -/
  | lsAminRel (t : Trig)
  /-- LS_AMAX_REL (R217) -/
  | lsAmaxRel (t : Trig)
  /-- LS_AAND_REL (R217) -/
  | lsAandRel (t : Trig)
  /-- LS_AOR_REL (R217) -/
  | lsAorRel (t : Trig)
  /-- LS_AXOR_REL (R217) -/
  | lsAxorRel (t : Trig)
  /-- LS_AXCH_REL (R217) -/
  | lsAxchRel (t : Trig)
  /-- LS_ACAS_REL (R217) -/
  | lsAcasRel (t : Trig)
  /-- LS_AADDF_REL (R217) -/
  | lsAaddfRel (t : Trig)
  /-- LS_AADD_AR (R217) -/
  | lsAaddAr (t : Trig)
  /-- LS_ASUB_AR (R217) -/
  | lsAsubAr (t : Trig)
  /-- LS_AMIN_AR (R217) -/
  | lsAminAr (t : Trig)
  /-- LS_AMAX_AR (R217) -/
  | lsAmaxAr (t : Trig)
  /-- LS_AAND_AR (R217) -/
  | lsAandAr (t : Trig)
  /-- LS_AOR_AR (R217) -/
  | lsAorAr (t : Trig)
  /-- LS_AXOR_AR (R217) -/
  | lsAxorAr (t : Trig)
  /-- LS_AXCH_AR (R217) -/
  | lsAxchAr (t : Trig)
  /-- LS_ACAS_AR (R217) -/
  | lsAcasAr (t : Trig)
  /-- LS_AADDF_AR (R217) -/
  | lsAaddfAr (t : Trig)
  /-- SP_SPCFG (R229) -/
  | spSpcfg (t : Trig)
  /-- SP_SPBASE (R229) -/
  | spSpbase (t : Trig)
  /-- SP_SPSTART (R230) -/
  | spSpstart (t : Trig)
  /-- SP_SPSKIP (R232) -/
  | spSpskip (t : Trig)
  /-- SP_SPSTAT (R233) -/
  | spSpstat (t : Trig)
  /-- SP_SPSTOP (R232) -/
  | spSpstop (t : Trig)
  /-- CP_CPSRC (R287) -/
  | cpCpsrc (t : Trig)
  /-- CP_CPDST (R287) -/
  | cpCpdst (t : Trig)
  /-- CP_CPSHAPE (R287) -/
  | cpCpshape (t : Trig)
  /-- CP_CPGO (R288) -/
  | cpCpgo (t : Trig)
  /-- CP_CPWM (R295) -/
  | cpCpwm (t : Trig)
  /-- CP_CPSTAT (R295) -/
  | cpCpstat (t : Trig)
  /-- CP_CPABORT (R294) -/
  | cpCpabort (t : Trig)
  /-- CP_CPHALO (R296) -/
  | cpCphalo (t : Trig)
  /-- CP_CPRING (R297) -/
  | cpCpring (t : Trig)
  /-- MX_MXRES (R260) -/
  | mxMxres (t : Trig)
  /-- MX_MXREL (R261) -/
  | mxMxrel (t : Trig)
  /-- MX_MXCOP (R261) -/
  | mxMxcop (t : Trig)
  /-- MX_MXPASS (R269) -/
  | mxMxpass (t : Trig)
  /-- MX_MXDRAIN (R272) -/
  | mxMxdrain (t : Trig)
  /-- MX_MXSAVE (R275) -/
  | mxMxsave (t : Trig)
  /-- MX_MXLOAD (R275) -/
  | mxMxload (t : Trig)
  /-- MX_MXSTAT (R276) -/
  | mxMxstat (t : Trig)
  /-- MX_MXDRAIN_ACC (R59) -/
  | mxMxdrainAcc (t : Trig)
  /-- BR_JMP (R176) -/
  | brJmp (t : Trig)
  /-- BR_BRA (R175) -/
  | brBra (t : Trig)
  /-- BR_BRZ (R175) -/
  | brBrz (t : Trig)
  /-- BR_BRALL (R175) -/
  | brBrall (t : Trig)
  /-- BR_CALL (R179) -/
  | brCall (t : Trig)
  /-- BR_RET (R179) -/
  | brRet (t : Trig)
  /-- BR_LOOPI (R182) -/
  | brLoopi (t : Trig)
  /-- BR_LOOP (R183) -/
  | brLoop (t : Trig)
  /-- BR_HALT (R180) -/
  | brHalt (t : Trig)
  /-- BR_YIELD (R181) -/
  | brYield (t : Trig)
  /-- SY_BAR (R393) -/
  | syBar (t : Trig)
  /-- SY_BARW (R393) -/
  | syBarw (t : Trig)
  /-- SY_BARAR (R393) -/
  | syBarar (t : Trig)
  /-- SY_CBAR (R394) -/
  | syCbar (t : Trig)
  /-- SY_FENCE (R246) -/
  | syFence (t : Trig)
  /-- SY_ACQ (R245) -/
  | syAcq (t : Trig)
  /-- SY_REL (R244) -/
  | syRel (t : Trig)
  /-- SY_TWAIT (R396) -/
  | syTwait (t : Trig)
  /-- SY_TREAD (R396) -/
  | syTread (t : Trig)
  /-- SY_MWAIT (R397) -/
  | syMwait (t : Trig)
  /-- SY_WMWAIT (R398) -/
  | syWmwait (t : Trig)
  /-- SY_SLEEP (R399) -/
  | sySleep (t : Trig)
  /-- SY_TICK (R399) -/
  | syTick (t : Trig)
  /-- SS_RDSYS (R373) -/
  | ssRdsys (t : Trig)
  /-- SS_WRSYS (R373) -/
  | ssWrsys (t : Trig)
  /-- SS_TRAP (R374) -/
  | ssTrap (t : Trig)
  /-- SS_RTI (R375) -/
  | ssRti (t : Trig)
  /-- SS_TLBINV (R334) -/
  | ssTlbinv (t : Trig)
  /-- SS_REPLAY (R339) -/
  | ssReplay (t : Trig)
  /-- SS_PUB (R346) -/
  | ssPub (t : Trig)
  /-- SS_ICLOCK (R343) -/
  | ssIclock (t : Trig)
  /-- SS_ICUNLOCK (R343) -/
  | ssIcunlock (t : Trig)
  /-- SS_CTXSAVE (R377) -/
  | ssCtxsave (t : Trig)
  /-- SS_CTXLOAD (R378) -/
  | ssCtxload (t : Trig)
  /-- LN_PUSH (R313) -/
  | lnPush (t : Trig)
  /-- LN_STAT (R312) -/
  | lnStat (t : Trig)
  /-- LN_CANCEL (R314) -/
  | lnCancel (t : Trig)
  /-- BUNDLE_ISSUE (R73) -/
  | bundleIssue
  /-- FIXED_LATENCY_RESULT_WRITE (R78) -/
  | fixedLatencyResultWrite
  /-- RESULT_ENTRY_FILL (R79) -/
  | resultEntryFill
  /-- INSTRUCTION_FETCH_FILL (R341) -/
  | instructionFetchFill
  /-- GROUP_SLOT_FREE (R23) -/
  | groupSlotFree
  /-- GRID_COMPLETION (R318) -/
  | gridCompletion
  /-- YIELD_EXPIRY (R181) -/
  | yieldExpiry
  /-- PAGE_WALK_COMPLETE (R330) -/
  | pageWalkComplete
  /-- FAULT_BUFFER_DELIVERY (R337) -/
  | faultBufferDelivery
  /-- DEFERRED_TRAP_ENTRY (R369) -/
  | deferredTrapEntry
  /-- WATERMARK_RELEASE (R224) -/
  | watermarkRelease
  /-- HIDDEN_WRITE_REVEAL (R241) -/
  | hiddenWriteReveal
  /-- STREAM_VECTOR_FETCH (R235) -/
  | streamVectorFetch
  /-- COPY_ELEMENT_LAND (R289) -/
  | copyElementLand
  /-- COPY_CSEQ_ADVANCE (R289) -/
  | copyCseqAdvance
  /-- MX_PASS_START (R270) -/
  | mxPassStart
  /-- MX_PASS_RETIRE (R270) -/
  | mxPassRetire
  /-- MX_DRAIN_START (R273) -/
  | mxDrainStart
  /-- MX_DRAIN_RETIRE (R273) -/
  | mxDrainRetire
  /-- MXLOAD_START (R275) -/
  | mxloadStart
  /-- MXLOAD_RETIRE (R275) -/
  | mxloadRetire
  /-- RELEASE_COMPLETE (R244) -/
  | releaseComplete
  /-- BARRIER_ARRIVAL (R393) -/
  | barrierArrival
  /-- CLUSTER_BARRIER_ARRIVAL (R394) -/
  | clusterBarrierArrival
  /-- TWAIT_FILL (R396) -/
  | twaitFill
  /-- MWAIT_FILL (R397) -/
  | mwaitFill
  /-- MWAIT_HOST_POLL (R397) -/
  | mwaitHostPoll
  /-- WMWAIT_FILL (R398) -/
  | wmwaitFill
  /-- SLEEP_EXPIRY (R399) -/
  | sleepExpiry
  /-- REPLAY_WALK (R339) -/
  | replayWalk
  /-- REPLAY_COMPLETE (R375) -/
  | replayComplete
  /-- TLBINV_COMPLETE (R334) -/
  | tlbinvComplete
  /-- PUB_COMPLETE (R346) -/
  | pubComplete
  /-- LN_PUSH_ACCEPT (R313) -/
  | lnPushAccept
  /-- SEGMENT_LINK (R313) -/
  | segmentLink
  /-- SEGMENT_REFILL (R311) -/
  | segmentRefill
  /-- DISPATCHER_TAKE (R308) -/
  | dispatcherTake
  /-- TEAM_PLACEMENT (R356) -/
  | teamPlacement
  /-- FRAGMENTATION_WAIT_EXPIRY (R357) -/
  | fragmentationWaitExpiry
  /-- TIME_SLICE_EXPIRY (R359) -/
  | timeSliceExpiry
  /-- SWAP_OUT (R364) -/
  | swapOut
  /-- TEAM_SAVE (R360) -/
  | teamSave
  /-- TEAM_RESTORE (R358) -/
  | teamRestore
  /-- SWAPPED_PARENT_WAKE (R364) -/
  | swappedParentWake
  /-- HCQ_DOORBELL (R306) -/
  | hcqDoorbell
  /-- RING_CI_WRITE (R303) -/
  | ringCiWrite
  /-- NOP (R305) -/
  | nop
  /-- LAUNCH (R305) -/
  | launch
  /-- WAITCTR (R305) -/
  | waitctr
  /-- SIGNAL (R305) -/
  | signal
  /-- PREEMPT (R361) -/
  | preempt
  /-- COMMAND_QUEUE_RESUME (R305) -/
  | commandQueueResume
  /-- FRAME_RECEIVE (R408) -/
  | frameReceive
  /-- INGEST_WP_ADVANCE (R321) -/
  | ingestWpAdvance
  /-- PAUSE_XOFF_REFRESH (R410) -/
  | pauseXoffRefresh
  /-- RING_CONFIGURE (R320) -/
  | ringConfigure
  /-- FLOW_RULE_WRITE (R409) -/
  | flowRuleWrite
  /-- FRAME_ADVANCE (R348) -/
  | frameAdvance
  /-- THERMAL_LIMIT_RAISE (R417) -/
  | thermalLimitRaise
  /-- SKEN_CLEAR (R349) -/
  | skenClear
  /-- GTIME_TICK (R380) -/
  | gtimeTick
  /-- GTIME_RESYNC (R380) -/
  | gtimeResync
  /-- PARTITION_QUOTA_WRITE (R351) -/
  | partitionQuotaWrite
  /-- PTROOT_WRITE (R327) -/
  | ptrootWrite
  /-- TVEC_SAVEBASE_WRITE (R367) -/
  | tvecSavebaseWrite
  /-- PFERR_CLEAR (R367) -/
  | pferrClear
  /-- BAR2_ACCESS (R402) -/
  | bar2Access
  /-- BAR2_ATOMICOP (R402) -/
  | bar2Atomicop
  /-- REGISTER_WRITE (R402) -/
  | registerWrite
  /-- PMSEL_WRITE (R384) -/
  | pmselWrite
  /-- FRAGMENTATION_COUNTER_CLEAR (R386) -/
  | fragmentationCounterClear
  /-- AGEMON_UPDATE (R387) -/
  | agemonUpdate
  /-- MR_EXTEND_REQUEST (R388) -/
  | mrExtendRequest
  /-- CLOCK_PLAN_WRITE (R412) -/
  | clockPlanWrite
  /-- VCORE_CURRENT_LIMIT (R416) -/
  | vcoreCurrentLimit
  /-- VCORE_LIMIT_RELEASE (R416) -/
  | vcoreLimitRelease
  /-- FABRIC_PLANE_FAILOVER (R407) -/
  | fabricPlaneFailover
  /-- FABRIC_ACCESS_TIMEOUT (R407) -/
  | fabricAccessTimeout
  /-- FABIDW (R425) -/
  | fabidw
  /-- PLANEMAP (R425) -/
  | planemap
  /-- THLIMIT (R425) -/
  | thlimit
  /-- NEWT_HEARTBEAT (R420) -/
  | newtHeartbeat
  /-- HEARTBEAT_TIMEOUT (R420) -/
  | heartbeatTimeout
  /-- MODETAB_WRITE (R422) -/
  | modetabWrite
  /-- MODETAB_APPLY (R422) -/
  | modetabApply
  /-- MOLT (R429) -/
  | molt
  /-- MOLT_VERIFY (R427) -/
  | moltVerify
  /-- MOLT_QUIESCE (R430) -/
  | moltQuiesce
  /-- MOLT_EXPORT (R430) -/
  | moltExport
  /-- MOLT_SWITCH (R430) -/
  | moltSwitch
  /-- MOLT_IMPORT (R430) -/
  | moltImport
  /-- MOLT_FALLBACK (R430) -/
  | moltFallback
  /-- DIE_REPAIR (R435) -/
  | dieRepair
  /-- DIE_REPAIR_COMPLETE (R435) -/
  | dieRepairComplete
  /-- FULL_BRINGUP (R437) -/
  | fullBringup
  /-- PACKAGE_RESET (R436) -/
  | packageReset
  /-- QUOTE_REQUEST (R438) -/
  | quoteRequest
  /-- FBPOP (R423) -/
  | fbpop
  /-- FBDELIV (R423) -/
  | fbdeliv
  /-- FBRPL (R423) -/
  | fbrpl
  /-- HLAUNCH (R424) -/
  | hlaunch
  /-- HPREEMPT (R424) -/
  | hpreempt
  /-- HOQDONE (R424) -/
  | hoqdone
  /-- PLSW (R424) -/
  | plsw
  /-- PLQFILL (R424) -/
  | plqfill
  /-- HCANCPOP (R424) -/
  | hcancpop
  /-- HFIN (R424) -/
  | hfin
  /-- FABRIC_REMOTE_ACCESS (R406) -/
  | fabricRemoteAccess
  /-- STREAM_VECTOR_WRITE (R231) -/
  | streamVectorWrite
  /-- MXSAVE_START (R266) -/
  | mxsaveStart
  /-- UNCORRECTABLE_ERROR (R191) -/
  | uncorrectableError
  /-- FABRIC_PLANE_RETURN (R425) -/
  | fabricPlaneReturn
  /-- CORE_CYCLE (R385) -/
  | coreCycle
  deriving DecidableEq, Repr

end Sys2Proof
end

