-- ==== Sys2Proof/WellFormed.lean ====
section
/-! DEFINITION. Which instructions are well formed: the operands are in the range that the spec gives them. -/

namespace Sys2Proof

/-- How many units of a class a core has (R17). -/
def UnitCls.count : UnitCls → Nat
  | .ia => 2 | .fv => 3 | .ls => 2 | .sp => 4
  | .sf => 1 | .xl => 1 | .cp => 1 | .mx => 1 | .br => 1 | .sy => 1 | .ss => 1 | .ln => 1

/-- The unit code of the first unit of a class (R70). -/
def UnitCls.base : UnitCls → Nat
  | .ia => 4 | .fv => 6 | .sf => 9 | .xl => 10 | .ls => 11 | .sp => 13 | .cp => 17 | .mx => 18
  | .br => 19 | .sy => 20 | .ss => 21 | .ln => 22

/-- A result-port source has zero in bits 25:23 (R65). -/
def Src.wf (s : Src) : Bool := s.scls != 1 || s.ssel.extractLsb' 0 3 == 0

/-- The unit that a trigger names exists (R17). -/
def Trig.wf (c : UnitCls) (t : Trig) : Bool := t.src.wf && decide (t.inst.toNat < c.count)

/-- Whether unit code u has the named port (R17, R72): br has a only, and the fixed-latency units have no aux. -/
def portExists (u : Nat) : PortName → Bool
  | .a => decide (4 ≤ u ∧ u ≤ 22)
  | .b => decide (4 ≤ u ∧ u ≤ 22 ∧ u ≠ 19)
  | .aux => decide (11 ≤ u ∧ u ≤ 22 ∧ u ≠ 19)

/-- Well-formedness: every operand is in range. -/
def Instr.wf : Instr → Bool
  | .move src _ => src.wf
  | .portLatch src unit port => src.wf && portExists unit.toNat port
  | .iaAdd t => t.wf .ia
  | .iaSub t => t.wf .ia
  | .iaRsub t => t.wf .ia
  | .iaNeg t => t.wf .ia
  | .iaAbs t => t.wf .ia
  | .iaMin t => t.wf .ia
  | .iaMax t => t.wf .ia
  | .iaAddsat t => t.wf .ia
  | .iaSubsat t => t.wf .ia
  | .iaMul t => t.wf .ia
  | .iaMulhi t => t.wf .ia
  | .iaMad t => t.wf .ia
  | .iaLea t => t.wf .ia
  | .iaHmix t => t.wf .ia
  | .iaMov t => t.wf .ia
  | .iaAnd t => t.wf .ia
  | .iaOr t => t.wf .ia
  | .iaXor t => t.wf .ia
  | .iaAndn t => t.wf .ia
  | .iaNot t => t.wf .ia
  | .iaShl t => t.wf .ia
  | .iaShr t => t.wf .ia
  | .iaSar t => t.wf .ia
  | .iaRot t => t.wf .ia
  | .iaClz t => t.wf .ia
  | .iaCtz t => t.wf .ia
  | .iaPop t => t.wf .ia
  | .iaBrev t => t.wf .ia
  | .iaBfx t => t.wf .ia
  | .iaBfi t => t.wf .ia
  | .iaSel t => t.wf .ia
  | .iaCmpeq t => t.wf .ia
  | .iaCmpne t => t.wf .ia
  | .iaCmplt t => t.wf .ia
  | .iaCmple t => t.wf .ia
  | .iaCmpgt t => t.wf .ia
  | .iaCmpge t => t.wf .ia
  | .fvFadd t => t.wf .fv
  | .fvFsub t => t.wf .fv
  | .fvFmul t => t.wf .fv
  | .fvFma t => t.wf .fv
  | .fvFms t => t.wf .fv
  | .fvFnma t => t.wf .fv
  | .fvFmin t => t.wf .fv
  | .fvFmax t => t.wf .fv
  | .fvFabs t => t.wf .fv
  | .fvFneg t => t.wf .fv
  | .fvFcmp t => t.wf .fv
  | .fvFrnd t => t.wf .fv
  | .fvVadd t => t.wf .fv
  | .fvVsub t => t.wf .fv
  | .fvVmul t => t.wf .fv
  | .fvVmad t => t.wf .fv
  | .fvVmin t => t.wf .fv
  | .fvVmax t => t.wf .fv
  | .fvVand t => t.wf .fv
  | .fvVor t => t.wf .fv
  | .fvVxor t => t.wf .fv
  | .fvVsel t => t.wf .fv
  | .fvCmul t => t.wf .fv
  | .fvCmac t => t.wf .fv
  | .fvDot4 t => t.wf .fv
  | .fvHsum t => t.wf .fv
  | .fvPack t => t.wf .fv
  | .fvUnpack t => t.wf .fv
  | .fvBshuf t => t.wf .fv
  | .fvMovv t => t.wf .fv
  | .fvCvtf32 t => t.wf .fv
  | .fvCvtbf16 t => t.wf .fv
  | .fvCvtf16 t => t.wf .fv
  | .fvCvti32 t => t.wf .fv
  | .fvCvtn32 t => t.wf .fv
  | .fvCvti16 t => t.wf .fv
  | .fvCvtn16 t => t.wf .fv
  | .fvCvti8 t => t.wf .fv
  | .fvCvtn8 t => t.wf .fv
  | .fvCvtb4 t => t.wf .fv
  | .fvCvtb8 t => t.wf .fv
  | .fvCvtb12 t => t.wf .fv
  | .fvCvtc4 t => t.wf .fv
  | .fvCvtc8 t => t.wf .fv
  | .fvCvtci32 t => t.wf .fv
  | .sfExp2 t => t.wf .sf
  | .sfExp t => t.wf .sf
  | .sfLog2 t => t.wf .sf
  | .sfLn t => t.wf .sf
  | .sfRcp t => t.wf .sf
  | .sfRsqrt t => t.wf .sf
  | .sfSqrt t => t.wf .sf
  | .sfSin t => t.wf .sf
  | .sfCos t => t.wf .sf
  | .sfTanh t => t.wf .sf
  | .sfSigm t => t.wf .sf
  | .sfErf t => t.wf .sf
  | .sfRmax t => t.wf .sf
  | .sfRexp t => t.wf .sf
  | .sfRdiv t => t.wf .sf
  | .sfRmsq t => t.wf .sf
  | .xlShfl t => t.wf .xl
  | .xlShup t => t.wf .xl
  | .xlShdn t => t.wf .xl
  | .xlXorsh t => t.wf .xl
  | .xlBcast t => t.wf .xl
  | .xlBallot t => t.wf .xl
  | .xlAnyl t => t.wf .xl
  | .xlAlll t => t.wf .xl
  | .xlElect t => t.wf .xl
  | .xlLanemask t => t.wf .xl
  | .xlPopl t => t.wf .xl
  | .xlRmin t => t.wf .xl
  | .xlRmax t => t.wf .xl
  | .xlRadd t => t.wf .xl
  | .xlScanadd t => t.wf .xl
  | .lsLd t => t.wf .ls
  | .lsSt t => t.wf .ls
  | .lsLdv t => t.wf .ls
  | .lsStv t => t.wf .ls
  | .lsLdacq t => t.wf .ls
  | .lsStrel t => t.wf .ls
  | .lsPf t => t.wf .ls
  | .lsLdnc t => t.wf .ls
  | .lsStMc t => t.wf .ls
  | .lsAadd t => t.wf .ls
  | .lsAsub t => t.wf .ls
  | .lsAmin t => t.wf .ls
  | .lsAmax t => t.wf .ls
  | .lsAand t => t.wf .ls
  | .lsAor t => t.wf .ls
  | .lsAxor t => t.wf .ls
  | .lsAxch t => t.wf .ls
  | .lsAcas t => t.wf .ls
  | .lsAaddf t => t.wf .ls
  | .lsAaddAcq t => t.wf .ls
  | .lsAsubAcq t => t.wf .ls
  | .lsAminAcq t => t.wf .ls
  | .lsAmaxAcq t => t.wf .ls
  | .lsAandAcq t => t.wf .ls
  | .lsAorAcq t => t.wf .ls
  | .lsAxorAcq t => t.wf .ls
  | .lsAxchAcq t => t.wf .ls
  | .lsAcasAcq t => t.wf .ls
  | .lsAaddfAcq t => t.wf .ls
  | .lsAaddRel t => t.wf .ls
  | .lsAsubRel t => t.wf .ls
  | .lsAminRel t => t.wf .ls
  | .lsAmaxRel t => t.wf .ls
  | .lsAandRel t => t.wf .ls
  | .lsAorRel t => t.wf .ls
  | .lsAxorRel t => t.wf .ls
  | .lsAxchRel t => t.wf .ls
  | .lsAcasRel t => t.wf .ls
  | .lsAaddfRel t => t.wf .ls
  | .lsAaddAr t => t.wf .ls
  | .lsAsubAr t => t.wf .ls
  | .lsAminAr t => t.wf .ls
  | .lsAmaxAr t => t.wf .ls
  | .lsAandAr t => t.wf .ls
  | .lsAorAr t => t.wf .ls
  | .lsAxorAr t => t.wf .ls
  | .lsAxchAr t => t.wf .ls
  | .lsAcasAr t => t.wf .ls
  | .lsAaddfAr t => t.wf .ls
  | .spSpcfg t => t.wf .sp
  | .spSpbase t => t.wf .sp
  | .spSpstart t => t.wf .sp
  | .spSpskip t => t.wf .sp
  | .spSpstat t => t.wf .sp
  | .spSpstop t => t.wf .sp
  | .cpCpsrc t => t.wf .cp
  | .cpCpdst t => t.wf .cp
  | .cpCpshape t => t.wf .cp
  | .cpCpgo t => t.wf .cp
  | .cpCpwm t => t.wf .cp
  | .cpCpstat t => t.wf .cp
  | .cpCpabort t => t.wf .cp
  | .cpCphalo t => t.wf .cp
  | .cpCpring t => t.wf .cp
  | .mxMxres t => t.wf .mx
  | .mxMxrel t => t.wf .mx
  | .mxMxcop t => t.wf .mx
  | .mxMxpass t => t.wf .mx
  | .mxMxdrain t => t.wf .mx
  | .mxMxsave t => t.wf .mx
  | .mxMxload t => t.wf .mx
  | .mxMxstat t => t.wf .mx
  | .mxMxdrainAcc t => t.wf .mx
  | .brJmp t => t.wf .br
  | .brBra t => t.wf .br
  | .brBrz t => t.wf .br
  | .brBrall t => t.wf .br
  | .brCall t => t.wf .br
  | .brRet t => t.wf .br
  | .brLoopi t => t.wf .br
  | .brLoop t => t.wf .br
  | .brHalt t => t.wf .br
  | .brYield t => t.wf .br
  | .syBar t => t.wf .sy
  | .syBarw t => t.wf .sy
  | .syBarar t => t.wf .sy
  | .syCbar t => t.wf .sy
  | .syFence t => t.wf .sy
  | .syAcq t => t.wf .sy
  | .syRel t => t.wf .sy
  | .syTwait t => t.wf .sy
  | .syTread t => t.wf .sy
  | .syMwait t => t.wf .sy
  | .syWmwait t => t.wf .sy
  | .sySleep t => t.wf .sy
  | .syTick t => t.wf .sy
  | .ssRdsys t => t.wf .ss
  | .ssWrsys t => t.wf .ss
  | .ssTrap t => t.wf .ss
  | .ssRti t => t.wf .ss
  | .ssTlbinv t => t.wf .ss
  | .ssReplay t => t.wf .ss
  | .ssPub t => t.wf .ss
  | .ssIclock t => t.wf .ss
  | .ssIcunlock t => t.wf .ss
  | .ssCtxsave t => t.wf .ss
  | .ssCtxload t => t.wf .ss
  | .lnPush t => t.wf .ln
  | .lnStat t => t.wf .ln
  | .lnCancel t => t.wf .ln
  | .bundleIssue => true
  | .fixedLatencyResultWrite => true
  | .resultEntryFill => true
  | .instructionFetchFill => true
  | .groupSlotFree => true
  | .gridCompletion => true
  | .yieldExpiry => true
  | .pageWalkComplete => true
  | .faultBufferDelivery => true
  | .deferredTrapEntry => true
  | .watermarkRelease => true
  | .hiddenWriteReveal => true
  | .streamVectorFetch => true
  | .copyElementLand => true
  | .copyCseqAdvance => true
  | .mxPassStart => true
  | .mxPassRetire => true
  | .mxDrainStart => true
  | .mxDrainRetire => true
  | .mxloadStart => true
  | .mxloadRetire => true
  | .releaseComplete => true
  | .barrierArrival => true
  | .clusterBarrierArrival => true
  | .twaitFill => true
  | .mwaitFill => true
  | .mwaitHostPoll => true
  | .wmwaitFill => true
  | .sleepExpiry => true
  | .replayWalk => true
  | .replayComplete => true
  | .tlbinvComplete => true
  | .pubComplete => true
  | .lnPushAccept => true
  | .segmentLink => true
  | .segmentRefill => true
  | .dispatcherTake => true
  | .teamPlacement => true
  | .fragmentationWaitExpiry => true
  | .timeSliceExpiry => true
  | .swapOut => true
  | .teamSave => true
  | .teamRestore => true
  | .swappedParentWake => true
  | .hcqDoorbell => true
  | .ringCiWrite => true
  | .nop => true
  | .launch => true
  | .waitctr => true
  | .signal => true
  | .preempt => true
  | .commandQueueResume => true
  | .frameReceive => true
  | .ingestWpAdvance => true
  | .pauseXoffRefresh => true
  | .ringConfigure => true
  | .flowRuleWrite => true
  | .frameAdvance => true
  | .thermalLimitRaise => true
  | .skenClear => true
  | .gtimeTick => true
  | .gtimeResync => true
  | .partitionQuotaWrite => true
  | .ptrootWrite => true
  | .tvecSavebaseWrite => true
  | .pferrClear => true
  | .bar2Access => true
  | .bar2Atomicop => true
  | .registerWrite => true
  | .pmselWrite => true
  | .fragmentationCounterClear => true
  | .agemonUpdate => true
  | .mrExtendRequest => true
  | .clockPlanWrite => true
  | .vcoreCurrentLimit => true
  | .vcoreLimitRelease => true
  | .fabricPlaneFailover => true
  | .fabricAccessTimeout => true
  | .fabidw => true
  | .planemap => true
  | .thlimit => true
  | .newtHeartbeat => true
  | .heartbeatTimeout => true
  | .modetabWrite => true
  | .modetabApply => true
  | .molt => true
  | .moltVerify => true
  | .moltQuiesce => true
  | .moltExport => true
  | .moltSwitch => true
  | .moltImport => true
  | .moltFallback => true
  | .dieRepair => true
  | .dieRepairComplete => true
  | .fullBringup => true
  | .packageReset => true
  | .quoteRequest => true
  | .fbpop => true
  | .fbdeliv => true
  | .fbrpl => true
  | .hlaunch => true
  | .hpreempt => true
  | .hoqdone => true
  | .plsw => true
  | .plqfill => true
  | .hcancpop => true
  | .hfin => true
  | .fabricRemoteAccess => true
  | .streamVectorWrite => true
  | .mxsaveStart => true
  | .uncorrectableError => true
  | .fabricPlaneReturn => true
  | .coreCycle => true

/-- The instruction is well formed. -/
abbrev WellFormed (i : Instr) : Prop := i.wf = true

end Sys2Proof
end

