-- ==== Sys2Proof/Decode.lean ====
section
/-! DEFINITION. The decoder and the encoder.

A word whose bits 1:0 are 0b11 is an event word of the model (log 1); a valid move has 0b00 there (R63). Every other
word below 2^40 is a move, by the encoding of R63 to R72 and the opcode map of R84. -/

namespace Sys2Proof

/-- Why a word is no instruction, with the check of R80 that a move of that kind fails. -/
inductive Reject where
  /-- bits 1:0 of a move are not zero (R63, illegal-bundle) -/
  | reservedBits
  /-- bits 25:23 of a result-port source are not zero (R65, illegal-bundle) -/
  | portSourceBits
  /-- the word is longer than a move and is no event word -/
  | tooLong
  /-- DUNIT 0x17 to 0x1E (R70, illegal-move) -/
  | noDestination
  /-- bits that must be zero at a register file, null or port destination (R71, R72, illegal-move) -/
  | destinationBits
  /-- a port that the unit does not have (R17, R72, illegal-move) -/
  | noPort
  /-- an operation code that the map of R84 does not assign (R81, illegal-operation) -/
  | noOperation
  /-- an event word that names no event -/
  | noEvent
  deriving DecidableEq, Repr

/-- The fields of a move (R63). -/
structure Move40 where
  src : Src
  dunit : BitVec 5
  dport : BitVec 2
  op : BitVec 7
  typ : BitVec 3
  mod : BitVec 3
  rsv : BitVec 2
  deriving DecidableEq, Repr

/-- The fields of a 40-bit move, by the table of R63. -/
def fieldsOf (w : BitVec 40) : Move40 where
  src :=
    { ginv := w.getLsbD 39, gq := w.extractLsb' 35 4, scls := w.extractLsb' 33 2, ssel := w.extractLsb' 23 10
      peek := w.getLsbD 2 }
  dunit := w.extractLsb' 18 5
  dport := w.extractLsb' 16 2
  op := w.extractLsb' 9 7
  typ := w.extractLsb' 6 3
  mod := w.extractLsb' 3 3
  rsv := w.extractLsb' 0 2

/-- The 40-bit move that has the given fields (R63). -/
def wordOf (m : Move40) : BitVec 40 :=
  BitVec.ofBool m.src.ginv ++ m.src.gq ++ m.src.scls ++ m.src.ssel ++ m.dunit ++ m.dport ++ m.op ++ m.typ ++ m.mod
    ++ BitVec.ofBool m.src.peek ++ m.rsv

/-- The class and number within the class of a unit code (R70). -/
def unitOfCode (u : Nat) : Option (UnitCls × BitVec 2) :=
  match u with
  | 4 => some (.ia, 0) | 5 => some (.ia, 1)
  | 6 => some (.fv, 0) | 7 => some (.fv, 1) | 8 => some (.fv, 2)
  | 9 => some (.sf, 0) | 10 => some (.xl, 0)
  | 11 => some (.ls, 0) | 12 => some (.ls, 1)
  | 13 => some (.sp, 0) | 14 => some (.sp, 1) | 15 => some (.sp, 2) | 16 => some (.sp, 3)
  | 17 => some (.cp, 0) | 18 => some (.mx, 0) | 19 => some (.br, 0) | 20 => some (.sy, 0) | 21 => some (.ss, 0)
  | 22 => some (.ln, 0)
  | _ => none

/-- The operations of ia (R84). -/
def iaOp (op : Nat) (t : Trig) : Option Instr :=
  match op with
  | 0x00 => some (.iaAdd t)
  | 0x01 => some (.iaSub t)
  | 0x02 => some (.iaRsub t)
  | 0x03 => some (.iaNeg t)
  | 0x04 => some (.iaAbs t)
  | 0x05 => some (.iaMin t)
  | 0x06 => some (.iaMax t)
  | 0x07 => some (.iaAddsat t)
  | 0x08 => some (.iaSubsat t)
  | 0x09 => some (.iaMul t)
  | 0x0A => some (.iaMulhi t)
  | 0x0B => some (.iaMad t)
  | 0x0C => some (.iaLea t)
  | 0x0D => some (.iaHmix t)
  | 0x0E => some (.iaMov t)
  | 0x10 => some (.iaAnd t)
  | 0x11 => some (.iaOr t)
  | 0x12 => some (.iaXor t)
  | 0x13 => some (.iaAndn t)
  | 0x14 => some (.iaNot t)
  | 0x18 => some (.iaShl t)
  | 0x19 => some (.iaShr t)
  | 0x1A => some (.iaSar t)
  | 0x1B => some (.iaRot t)
  | 0x20 => some (.iaClz t)
  | 0x21 => some (.iaCtz t)
  | 0x22 => some (.iaPop t)
  | 0x23 => some (.iaBrev t)
  | 0x24 => some (.iaBfx t)
  | 0x25 => some (.iaBfi t)
  | 0x26 => some (.iaSel t)
  | 0x28 => some (.iaCmpeq t)
  | 0x29 => some (.iaCmpne t)
  | 0x2A => some (.iaCmplt t)
  | 0x2B => some (.iaCmple t)
  | 0x2C => some (.iaCmpgt t)
  | 0x2D => some (.iaCmpge t)
  | _ => none

/-- The operations of fv (R84). -/
def fvOp (op : Nat) (t : Trig) : Option Instr :=
  match op with
  | 0x00 => some (.fvFadd t)
  | 0x01 => some (.fvFsub t)
  | 0x02 => some (.fvFmul t)
  | 0x03 => some (.fvFma t)
  | 0x04 => some (.fvFms t)
  | 0x05 => some (.fvFnma t)
  | 0x06 => some (.fvFmin t)
  | 0x07 => some (.fvFmax t)
  | 0x08 => some (.fvFabs t)
  | 0x09 => some (.fvFneg t)
  | 0x0A => some (.fvFcmp t)
  | 0x0B => some (.fvFrnd t)
  | 0x10 => some (.fvVadd t)
  | 0x11 => some (.fvVsub t)
  | 0x12 => some (.fvVmul t)
  | 0x13 => some (.fvVmad t)
  | 0x14 => some (.fvVmin t)
  | 0x15 => some (.fvVmax t)
  | 0x16 => some (.fvVand t)
  | 0x17 => some (.fvVor t)
  | 0x18 => some (.fvVxor t)
  | 0x19 => some (.fvVsel t)
  | 0x1C => some (.fvCmul t)
  | 0x1D => some (.fvCmac t)
  | 0x1E => some (.fvDot4 t)
  | 0x1F => some (.fvHsum t)
  | 0x20 => some (.fvPack t)
  | 0x21 => some (.fvUnpack t)
  | 0x22 => some (.fvBshuf t)
  | 0x23 => some (.fvMovv t)
  | 0x30 => some (.fvCvtf32 t)
  | 0x31 => some (.fvCvtbf16 t)
  | 0x32 => some (.fvCvtf16 t)
  | 0x33 => some (.fvCvti32 t)
  | 0x34 => some (.fvCvtn32 t)
  | 0x35 => some (.fvCvti16 t)
  | 0x36 => some (.fvCvtn16 t)
  | 0x37 => some (.fvCvti8 t)
  | 0x38 => some (.fvCvtn8 t)
  | 0x39 => some (.fvCvtb4 t)
  | 0x3A => some (.fvCvtb8 t)
  | 0x3B => some (.fvCvtb12 t)
  | 0x3C => some (.fvCvtc4 t)
  | 0x3D => some (.fvCvtc8 t)
  | 0x3E => some (.fvCvtci32 t)
  | _ => none

/-- The operations of sf (R84). -/
def sfOp (op : Nat) (t : Trig) : Option Instr :=
  match op with
  | 0x00 => some (.sfExp2 t)
  | 0x01 => some (.sfExp t)
  | 0x02 => some (.sfLog2 t)
  | 0x03 => some (.sfLn t)
  | 0x04 => some (.sfRcp t)
  | 0x05 => some (.sfRsqrt t)
  | 0x06 => some (.sfSqrt t)
  | 0x07 => some (.sfSin t)
  | 0x08 => some (.sfCos t)
  | 0x09 => some (.sfTanh t)
  | 0x0A => some (.sfSigm t)
  | 0x0B => some (.sfErf t)
  | 0x10 => some (.sfRmax t)
  | 0x11 => some (.sfRexp t)
  | 0x12 => some (.sfRdiv t)
  | 0x13 => some (.sfRmsq t)
  | _ => none

/-- The operations of xl (R84). -/
def xlOp (op : Nat) (t : Trig) : Option Instr :=
  match op with
  | 0x00 => some (.xlShfl t)
  | 0x01 => some (.xlShup t)
  | 0x02 => some (.xlShdn t)
  | 0x03 => some (.xlXorsh t)
  | 0x04 => some (.xlBcast t)
  | 0x08 => some (.xlBallot t)
  | 0x09 => some (.xlAnyl t)
  | 0x0A => some (.xlAlll t)
  | 0x0B => some (.xlElect t)
  | 0x0C => some (.xlLanemask t)
  | 0x0D => some (.xlPopl t)
  | 0x10 => some (.xlRmin t)
  | 0x11 => some (.xlRmax t)
  | 0x12 => some (.xlRadd t)
  | 0x13 => some (.xlScanadd t)
  | _ => none

/-- The operations of ls (R84). -/
def lsOp (op : Nat) (t : Trig) : Option Instr :=
  match op with
  | 0x00 => some (.lsLd t)
  | 0x01 => some (.lsSt t)
  | 0x02 => some (.lsLdv t)
  | 0x03 => some (.lsStv t)
  | 0x04 => some (.lsLdacq t)
  | 0x05 => some (.lsStrel t)
  | 0x06 => some (.lsPf t)
  | 0x07 => some (.lsLdnc t)
  | 0x08 => some (.lsStMc t)
  | 0x10 => some (.lsAadd t)
  | 0x11 => some (.lsAsub t)
  | 0x12 => some (.lsAmin t)
  | 0x13 => some (.lsAmax t)
  | 0x14 => some (.lsAand t)
  | 0x15 => some (.lsAor t)
  | 0x16 => some (.lsAxor t)
  | 0x17 => some (.lsAxch t)
  | 0x18 => some (.lsAcas t)
  | 0x19 => some (.lsAaddf t)
  | 0x20 => some (.lsAaddAcq t)
  | 0x21 => some (.lsAsubAcq t)
  | 0x22 => some (.lsAminAcq t)
  | 0x23 => some (.lsAmaxAcq t)
  | 0x24 => some (.lsAandAcq t)
  | 0x25 => some (.lsAorAcq t)
  | 0x26 => some (.lsAxorAcq t)
  | 0x27 => some (.lsAxchAcq t)
  | 0x28 => some (.lsAcasAcq t)
  | 0x29 => some (.lsAaddfAcq t)
  | 0x30 => some (.lsAaddRel t)
  | 0x31 => some (.lsAsubRel t)
  | 0x32 => some (.lsAminRel t)
  | 0x33 => some (.lsAmaxRel t)
  | 0x34 => some (.lsAandRel t)
  | 0x35 => some (.lsAorRel t)
  | 0x36 => some (.lsAxorRel t)
  | 0x37 => some (.lsAxchRel t)
  | 0x38 => some (.lsAcasRel t)
  | 0x39 => some (.lsAaddfRel t)
  | 0x40 => some (.lsAaddAr t)
  | 0x41 => some (.lsAsubAr t)
  | 0x42 => some (.lsAminAr t)
  | 0x43 => some (.lsAmaxAr t)
  | 0x44 => some (.lsAandAr t)
  | 0x45 => some (.lsAorAr t)
  | 0x46 => some (.lsAxorAr t)
  | 0x47 => some (.lsAxchAr t)
  | 0x48 => some (.lsAcasAr t)
  | 0x49 => some (.lsAaddfAr t)
  | _ => none

/-- The operations of sp (R84). -/
def spOp (op : Nat) (t : Trig) : Option Instr :=
  match op with
  | 0x00 => some (.spSpcfg t)
  | 0x01 => some (.spSpbase t)
  | 0x02 => some (.spSpstart t)
  | 0x03 => some (.spSpskip t)
  | 0x04 => some (.spSpstat t)
  | 0x05 => some (.spSpstop t)
  | _ => none

/-- The operations of cp (R84). -/
def cpOp (op : Nat) (t : Trig) : Option Instr :=
  match op with
  | 0x00 => some (.cpCpsrc t)
  | 0x01 => some (.cpCpdst t)
  | 0x02 => some (.cpCpshape t)
  | 0x03 => some (.cpCpgo t)
  | 0x04 => some (.cpCpwm t)
  | 0x05 => some (.cpCpstat t)
  | 0x06 => some (.cpCpabort t)
  | 0x07 => some (.cpCphalo t)
  | 0x08 => some (.cpCpring t)
  | _ => none

/-- The operations of mx (R84). -/
def mxOp (op : Nat) (t : Trig) : Option Instr :=
  match op with
  | 0x00 => some (.mxMxres t)
  | 0x01 => some (.mxMxrel t)
  | 0x02 => some (.mxMxcop t)
  | 0x03 => some (.mxMxpass t)
  | 0x04 => some (.mxMxdrain t)
  | 0x05 => some (.mxMxsave t)
  | 0x06 => some (.mxMxload t)
  | 0x07 => some (.mxMxstat t)
  | 0x08 => some (.mxMxdrainAcc t)
  | _ => none

/-- The operations of br (R84). -/
def brOp (op : Nat) (t : Trig) : Option Instr :=
  match op with
  | 0x00 => some (.brJmp t)
  | 0x01 => some (.brBra t)
  | 0x02 => some (.brBrz t)
  | 0x03 => some (.brBrall t)
  | 0x04 => some (.brCall t)
  | 0x05 => some (.brRet t)
  | 0x06 => some (.brLoopi t)
  | 0x07 => some (.brLoop t)
  | 0x08 => some (.brHalt t)
  | 0x09 => some (.brYield t)
  | _ => none

/-- The operations of sy (R84). -/
def syOp (op : Nat) (t : Trig) : Option Instr :=
  match op with
  | 0x00 => some (.syBar t)
  | 0x01 => some (.syBarw t)
  | 0x02 => some (.syBarar t)
  | 0x03 => some (.syCbar t)
  | 0x04 => some (.syFence t)
  | 0x05 => some (.syAcq t)
  | 0x06 => some (.syRel t)
  | 0x07 => some (.syTwait t)
  | 0x08 => some (.syTread t)
  | 0x09 => some (.syMwait t)
  | 0x0A => some (.syWmwait t)
  | 0x0B => some (.sySleep t)
  | 0x0C => some (.syTick t)
  | _ => none

/-- The operations of ss (R84). -/
def ssOp (op : Nat) (t : Trig) : Option Instr :=
  match op with
  | 0x00 => some (.ssRdsys t)
  | 0x01 => some (.ssWrsys t)
  | 0x02 => some (.ssTrap t)
  | 0x03 => some (.ssRti t)
  | 0x04 => some (.ssTlbinv t)
  | 0x05 => some (.ssReplay t)
  | 0x06 => some (.ssPub t)
  | 0x07 => some (.ssIclock t)
  | 0x08 => some (.ssIcunlock t)
  | 0x09 => some (.ssCtxsave t)
  | 0x0A => some (.ssCtxload t)
  | _ => none

/-- The operations of ln (R84). -/
def lnOp (op : Nat) (t : Trig) : Option Instr :=
  match op with
  | 0x00 => some (.lnPush t)
  | 0x01 => some (.lnStat t)
  | 0x02 => some (.lnCancel t)
  | _ => none

/-- The opcode map of R84. -/
def opOf (c : UnitCls) (op : Nat) (t : Trig) : Option Instr :=
  match c with
  | .ia => iaOp op t
  | .fv => fvOp op t
  | .sf => sfOp op t
  | .xl => xlOp op t
  | .ls => lsOp op t
  | .sp => spOp op t
  | .cp => cpOp op t
  | .mx => mxOp op t
  | .br => brOp op t
  | .sy => syOp op t
  | .ss => ssOp op t
  | .ln => lnOp op t

/-- The move whose fields are m (R63 to R72), or why there is none. -/
def decodeFields (m : Move40) : Except Reject Instr :=
  if m.rsv ≠ 0 then .error .reservedBits
  else if m.src.wf = false then .error .portSourceBits
  else if m.dunit.toNat < 4 then
    if m.typ ≠ 0 ∨ m.mod ≠ 0 then .error .destinationBits
    else
      let i : BitVec 9 := m.dport ++ m.op
      match m.dunit.toNat with
      | 0 => .ok (.move m.src (.g i))
      | 1 => .ok (.move m.src (.v i))
      | 2 => .ok (.move m.src (.k i))
      | _ => .ok (.move m.src (.q i))
  else if m.dunit = 31 then
    if m.dport ≠ 0 ∨ m.op ≠ 0 ∨ m.typ ≠ 0 ∨ m.mod ≠ 0 then .error .destinationBits else .ok (.move m.src .null)
  else
    match unitOfCode m.dunit.toNat with
    | none => .error .noDestination
    | some (c, n) =>
      if m.dport = 2 then
        match opOf c m.op.toNat { src := m.src, inst := n, typ := m.typ, mod := m.mod } with
        | some i => .ok i
        | none => .error .noOperation
      else
        let p : PortName := if m.dport = 0 then .a else if m.dport = 1 then .b else .aux
        if portExists m.dunit.toNat p = false then .error .noPort
        else if m.op ≠ 0 ∨ m.typ ≠ 0 ∨ m.mod ≠ 0 then .error .destinationBits
        else .ok (.portLatch m.src m.dunit p)

/-- The move in a 40-bit word. -/
def decodeMove (w : BitVec 40) : Except Reject Instr := decodeFields (fieldsOf w)

/-- The event with the given number, the row's place in the opcode table (log 1). -/
def eventOf (tag : Nat) : Option Instr :=
  match tag with
  | 0 => some .bundleIssue
  | 3 => some .fixedLatencyResultWrite
  | 4 => some .resultEntryFill
  | 5 => some .instructionFetchFill
  | 6 => some .groupSlotFree
  | 7 => some .gridCompletion
  | 8 => some .yieldExpiry
  | 9 => some .pageWalkComplete
  | 10 => some .faultBufferDelivery
  | 11 => some .deferredTrapEntry
  | 12 => some .watermarkRelease
  | 13 => some .hiddenWriteReveal
  | 14 => some .streamVectorFetch
  | 15 => some .copyElementLand
  | 16 => some .copyCseqAdvance
  | 17 => some .mxPassStart
  | 18 => some .mxPassRetire
  | 19 => some .mxDrainStart
  | 20 => some .mxDrainRetire
  | 21 => some .mxloadStart
  | 22 => some .mxloadRetire
  | 23 => some .releaseComplete
  | 24 => some .barrierArrival
  | 25 => some .clusterBarrierArrival
  | 26 => some .twaitFill
  | 27 => some .mwaitFill
  | 28 => some .mwaitHostPoll
  | 29 => some .wmwaitFill
  | 30 => some .sleepExpiry
  | 31 => some .replayWalk
  | 32 => some .replayComplete
  | 33 => some .tlbinvComplete
  | 34 => some .pubComplete
  | 35 => some .lnPushAccept
  | 36 => some .segmentLink
  | 37 => some .segmentRefill
  | 38 => some .dispatcherTake
  | 39 => some .teamPlacement
  | 40 => some .fragmentationWaitExpiry
  | 41 => some .timeSliceExpiry
  | 42 => some .swapOut
  | 43 => some .teamSave
  | 44 => some .teamRestore
  | 45 => some .swappedParentWake
  | 46 => some .hcqDoorbell
  | 47 => some .ringCiWrite
  | 48 => some .nop
  | 49 => some .launch
  | 50 => some .waitctr
  | 51 => some .signal
  | 52 => some .preempt
  | 53 => some .commandQueueResume
  | 54 => some .frameReceive
  | 55 => some .ingestWpAdvance
  | 56 => some .pauseXoffRefresh
  | 57 => some .ringConfigure
  | 58 => some .flowRuleWrite
  | 59 => some .frameAdvance
  | 60 => some .thermalLimitRaise
  | 61 => some .skenClear
  | 62 => some .gtimeTick
  | 63 => some .gtimeResync
  | 64 => some .partitionQuotaWrite
  | 65 => some .ptrootWrite
  | 66 => some .tvecSavebaseWrite
  | 67 => some .pferrClear
  | 68 => some .bar2Access
  | 69 => some .bar2Atomicop
  | 70 => some .registerWrite
  | 71 => some .pmselWrite
  | 72 => some .fragmentationCounterClear
  | 73 => some .agemonUpdate
  | 74 => some .mrExtendRequest
  | 75 => some .clockPlanWrite
  | 76 => some .vcoreCurrentLimit
  | 77 => some .vcoreLimitRelease
  | 78 => some .fabricPlaneFailover
  | 79 => some .fabricAccessTimeout
  | 80 => some .fabidw
  | 81 => some .planemap
  | 82 => some .thlimit
  | 83 => some .newtHeartbeat
  | 84 => some .heartbeatTimeout
  | 85 => some .modetabWrite
  | 86 => some .modetabApply
  | 87 => some .molt
  | 88 => some .moltVerify
  | 89 => some .moltQuiesce
  | 90 => some .moltExport
  | 91 => some .moltSwitch
  | 92 => some .moltImport
  | 93 => some .moltFallback
  | 94 => some .dieRepair
  | 95 => some .dieRepairComplete
  | 96 => some .fullBringup
  | 97 => some .packageReset
  | 98 => some .quoteRequest
  | 99 => some .fbpop
  | 100 => some .fbdeliv
  | 101 => some .fbrpl
  | 102 => some .hlaunch
  | 103 => some .hpreempt
  | 104 => some .hoqdone
  | 105 => some .plsw
  | 106 => some .plqfill
  | 107 => some .hcancpop
  | 108 => some .hfin
  | 332 => some .fabricRemoteAccess
  | 333 => some .streamVectorWrite
  | 334 => some .mxsaveStart
  | 335 => some .uncorrectableError
  | 336 => some .fabricPlaneReturn
  | 337 => some .coreCycle
  | _ => none

/-- The event in an event word: bits 15:2 hold its number, and nothing stands above them. -/
def decodeEvent (w : Nat) : Except Reject Instr :=
  match eventOf (w / 4) with
  | none => .error .noEvent
  | some i => .ok i

/-- The instruction in a word: an event word, or else a move of 40 bits. -/
def decodeWord (w : Nat) : Except Reject Instr :=
  if w % 4 = 3 then decodeEvent w
  else if w < 2 ^ 40 then decodeMove (BitVec.ofNat 40 w)
  else .error .tooLong

/-- The instruction in a word of nbits bits, bits above them 0. -/
def decodeTableWord (nbits w : Nat) : Option Instr := (decodeWord (w % 2 ^ nbits)).toOption

/-- The unit class, the operation code and the fields of a trigger; none for the other instructions. -/
def trigOf : Instr → Option (UnitCls × Nat × Trig)
  | .bundleIssue => none
  | .move _ _ => none
  | .portLatch _ _ _ => none
  | .fixedLatencyResultWrite => none
  | .resultEntryFill => none
  | .instructionFetchFill => none
  | .groupSlotFree => none
  | .gridCompletion => none
  | .yieldExpiry => none
  | .pageWalkComplete => none
  | .faultBufferDelivery => none
  | .deferredTrapEntry => none
  | .watermarkRelease => none
  | .hiddenWriteReveal => none
  | .streamVectorFetch => none
  | .copyElementLand => none
  | .copyCseqAdvance => none
  | .mxPassStart => none
  | .mxPassRetire => none
  | .mxDrainStart => none
  | .mxDrainRetire => none
  | .mxloadStart => none
  | .mxloadRetire => none
  | .releaseComplete => none
  | .barrierArrival => none
  | .clusterBarrierArrival => none
  | .twaitFill => none
  | .mwaitFill => none
  | .mwaitHostPoll => none
  | .wmwaitFill => none
  | .sleepExpiry => none
  | .replayWalk => none
  | .replayComplete => none
  | .tlbinvComplete => none
  | .pubComplete => none
  | .lnPushAccept => none
  | .segmentLink => none
  | .segmentRefill => none
  | .dispatcherTake => none
  | .teamPlacement => none
  | .fragmentationWaitExpiry => none
  | .timeSliceExpiry => none
  | .swapOut => none
  | .teamSave => none
  | .teamRestore => none
  | .swappedParentWake => none
  | .hcqDoorbell => none
  | .ringCiWrite => none
  | .nop => none
  | .launch => none
  | .waitctr => none
  | .signal => none
  | .preempt => none
  | .commandQueueResume => none
  | .frameReceive => none
  | .ingestWpAdvance => none
  | .pauseXoffRefresh => none
  | .ringConfigure => none
  | .flowRuleWrite => none
  | .frameAdvance => none
  | .thermalLimitRaise => none
  | .skenClear => none
  | .gtimeTick => none
  | .gtimeResync => none
  | .partitionQuotaWrite => none
  | .ptrootWrite => none
  | .tvecSavebaseWrite => none
  | .pferrClear => none
  | .bar2Access => none
  | .bar2Atomicop => none
  | .registerWrite => none
  | .pmselWrite => none
  | .fragmentationCounterClear => none
  | .agemonUpdate => none
  | .mrExtendRequest => none
  | .clockPlanWrite => none
  | .vcoreCurrentLimit => none
  | .vcoreLimitRelease => none
  | .fabricPlaneFailover => none
  | .fabricAccessTimeout => none
  | .fabidw => none
  | .planemap => none
  | .thlimit => none
  | .newtHeartbeat => none
  | .heartbeatTimeout => none
  | .modetabWrite => none
  | .modetabApply => none
  | .molt => none
  | .moltVerify => none
  | .moltQuiesce => none
  | .moltExport => none
  | .moltSwitch => none
  | .moltImport => none
  | .moltFallback => none
  | .dieRepair => none
  | .dieRepairComplete => none
  | .fullBringup => none
  | .packageReset => none
  | .quoteRequest => none
  | .fbpop => none
  | .fbdeliv => none
  | .fbrpl => none
  | .hlaunch => none
  | .hpreempt => none
  | .hoqdone => none
  | .plsw => none
  | .plqfill => none
  | .hcancpop => none
  | .hfin => none
  | .iaAdd t => some (.ia, 0x00, t)
  | .iaSub t => some (.ia, 0x01, t)
  | .iaRsub t => some (.ia, 0x02, t)
  | .iaNeg t => some (.ia, 0x03, t)
  | .iaAbs t => some (.ia, 0x04, t)
  | .iaMin t => some (.ia, 0x05, t)
  | .iaMax t => some (.ia, 0x06, t)
  | .iaAddsat t => some (.ia, 0x07, t)
  | .iaSubsat t => some (.ia, 0x08, t)
  | .iaMul t => some (.ia, 0x09, t)
  | .iaMulhi t => some (.ia, 0x0A, t)
  | .iaMad t => some (.ia, 0x0B, t)
  | .iaLea t => some (.ia, 0x0C, t)
  | .iaHmix t => some (.ia, 0x0D, t)
  | .iaMov t => some (.ia, 0x0E, t)
  | .iaAnd t => some (.ia, 0x10, t)
  | .iaOr t => some (.ia, 0x11, t)
  | .iaXor t => some (.ia, 0x12, t)
  | .iaAndn t => some (.ia, 0x13, t)
  | .iaNot t => some (.ia, 0x14, t)
  | .iaShl t => some (.ia, 0x18, t)
  | .iaShr t => some (.ia, 0x19, t)
  | .iaSar t => some (.ia, 0x1A, t)
  | .iaRot t => some (.ia, 0x1B, t)
  | .iaClz t => some (.ia, 0x20, t)
  | .iaCtz t => some (.ia, 0x21, t)
  | .iaPop t => some (.ia, 0x22, t)
  | .iaBrev t => some (.ia, 0x23, t)
  | .iaBfx t => some (.ia, 0x24, t)
  | .iaBfi t => some (.ia, 0x25, t)
  | .iaSel t => some (.ia, 0x26, t)
  | .iaCmpeq t => some (.ia, 0x28, t)
  | .iaCmpne t => some (.ia, 0x29, t)
  | .iaCmplt t => some (.ia, 0x2A, t)
  | .iaCmple t => some (.ia, 0x2B, t)
  | .iaCmpgt t => some (.ia, 0x2C, t)
  | .iaCmpge t => some (.ia, 0x2D, t)
  | .fvFadd t => some (.fv, 0x00, t)
  | .fvFsub t => some (.fv, 0x01, t)
  | .fvFmul t => some (.fv, 0x02, t)
  | .fvFma t => some (.fv, 0x03, t)
  | .fvFms t => some (.fv, 0x04, t)
  | .fvFnma t => some (.fv, 0x05, t)
  | .fvFmin t => some (.fv, 0x06, t)
  | .fvFmax t => some (.fv, 0x07, t)
  | .fvFabs t => some (.fv, 0x08, t)
  | .fvFneg t => some (.fv, 0x09, t)
  | .fvFcmp t => some (.fv, 0x0A, t)
  | .fvFrnd t => some (.fv, 0x0B, t)
  | .fvVadd t => some (.fv, 0x10, t)
  | .fvVsub t => some (.fv, 0x11, t)
  | .fvVmul t => some (.fv, 0x12, t)
  | .fvVmad t => some (.fv, 0x13, t)
  | .fvVmin t => some (.fv, 0x14, t)
  | .fvVmax t => some (.fv, 0x15, t)
  | .fvVand t => some (.fv, 0x16, t)
  | .fvVor t => some (.fv, 0x17, t)
  | .fvVxor t => some (.fv, 0x18, t)
  | .fvVsel t => some (.fv, 0x19, t)
  | .fvCmul t => some (.fv, 0x1C, t)
  | .fvCmac t => some (.fv, 0x1D, t)
  | .fvDot4 t => some (.fv, 0x1E, t)
  | .fvHsum t => some (.fv, 0x1F, t)
  | .fvPack t => some (.fv, 0x20, t)
  | .fvUnpack t => some (.fv, 0x21, t)
  | .fvBshuf t => some (.fv, 0x22, t)
  | .fvMovv t => some (.fv, 0x23, t)
  | .fvCvtf32 t => some (.fv, 0x30, t)
  | .fvCvtbf16 t => some (.fv, 0x31, t)
  | .fvCvtf16 t => some (.fv, 0x32, t)
  | .fvCvti32 t => some (.fv, 0x33, t)
  | .fvCvtn32 t => some (.fv, 0x34, t)
  | .fvCvti16 t => some (.fv, 0x35, t)
  | .fvCvtn16 t => some (.fv, 0x36, t)
  | .fvCvti8 t => some (.fv, 0x37, t)
  | .fvCvtn8 t => some (.fv, 0x38, t)
  | .fvCvtb4 t => some (.fv, 0x39, t)
  | .fvCvtb8 t => some (.fv, 0x3A, t)
  | .fvCvtb12 t => some (.fv, 0x3B, t)
  | .fvCvtc4 t => some (.fv, 0x3C, t)
  | .fvCvtc8 t => some (.fv, 0x3D, t)
  | .fvCvtci32 t => some (.fv, 0x3E, t)
  | .sfExp2 t => some (.sf, 0x00, t)
  | .sfExp t => some (.sf, 0x01, t)
  | .sfLog2 t => some (.sf, 0x02, t)
  | .sfLn t => some (.sf, 0x03, t)
  | .sfRcp t => some (.sf, 0x04, t)
  | .sfRsqrt t => some (.sf, 0x05, t)
  | .sfSqrt t => some (.sf, 0x06, t)
  | .sfSin t => some (.sf, 0x07, t)
  | .sfCos t => some (.sf, 0x08, t)
  | .sfTanh t => some (.sf, 0x09, t)
  | .sfSigm t => some (.sf, 0x0A, t)
  | .sfErf t => some (.sf, 0x0B, t)
  | .sfRmax t => some (.sf, 0x10, t)
  | .sfRexp t => some (.sf, 0x11, t)
  | .sfRdiv t => some (.sf, 0x12, t)
  | .sfRmsq t => some (.sf, 0x13, t)
  | .xlShfl t => some (.xl, 0x00, t)
  | .xlShup t => some (.xl, 0x01, t)
  | .xlShdn t => some (.xl, 0x02, t)
  | .xlXorsh t => some (.xl, 0x03, t)
  | .xlBcast t => some (.xl, 0x04, t)
  | .xlBallot t => some (.xl, 0x08, t)
  | .xlAnyl t => some (.xl, 0x09, t)
  | .xlAlll t => some (.xl, 0x0A, t)
  | .xlElect t => some (.xl, 0x0B, t)
  | .xlLanemask t => some (.xl, 0x0C, t)
  | .xlPopl t => some (.xl, 0x0D, t)
  | .xlRmin t => some (.xl, 0x10, t)
  | .xlRmax t => some (.xl, 0x11, t)
  | .xlRadd t => some (.xl, 0x12, t)
  | .xlScanadd t => some (.xl, 0x13, t)
  | .lsLd t => some (.ls, 0x00, t)
  | .lsSt t => some (.ls, 0x01, t)
  | .lsLdv t => some (.ls, 0x02, t)
  | .lsStv t => some (.ls, 0x03, t)
  | .lsLdacq t => some (.ls, 0x04, t)
  | .lsStrel t => some (.ls, 0x05, t)
  | .lsPf t => some (.ls, 0x06, t)
  | .lsLdnc t => some (.ls, 0x07, t)
  | .lsStMc t => some (.ls, 0x08, t)
  | .lsAadd t => some (.ls, 0x10, t)
  | .lsAsub t => some (.ls, 0x11, t)
  | .lsAmin t => some (.ls, 0x12, t)
  | .lsAmax t => some (.ls, 0x13, t)
  | .lsAand t => some (.ls, 0x14, t)
  | .lsAor t => some (.ls, 0x15, t)
  | .lsAxor t => some (.ls, 0x16, t)
  | .lsAxch t => some (.ls, 0x17, t)
  | .lsAcas t => some (.ls, 0x18, t)
  | .lsAaddf t => some (.ls, 0x19, t)
  | .lsAaddAcq t => some (.ls, 0x20, t)
  | .lsAsubAcq t => some (.ls, 0x21, t)
  | .lsAminAcq t => some (.ls, 0x22, t)
  | .lsAmaxAcq t => some (.ls, 0x23, t)
  | .lsAandAcq t => some (.ls, 0x24, t)
  | .lsAorAcq t => some (.ls, 0x25, t)
  | .lsAxorAcq t => some (.ls, 0x26, t)
  | .lsAxchAcq t => some (.ls, 0x27, t)
  | .lsAcasAcq t => some (.ls, 0x28, t)
  | .lsAaddfAcq t => some (.ls, 0x29, t)
  | .lsAaddRel t => some (.ls, 0x30, t)
  | .lsAsubRel t => some (.ls, 0x31, t)
  | .lsAminRel t => some (.ls, 0x32, t)
  | .lsAmaxRel t => some (.ls, 0x33, t)
  | .lsAandRel t => some (.ls, 0x34, t)
  | .lsAorRel t => some (.ls, 0x35, t)
  | .lsAxorRel t => some (.ls, 0x36, t)
  | .lsAxchRel t => some (.ls, 0x37, t)
  | .lsAcasRel t => some (.ls, 0x38, t)
  | .lsAaddfRel t => some (.ls, 0x39, t)
  | .lsAaddAr t => some (.ls, 0x40, t)
  | .lsAsubAr t => some (.ls, 0x41, t)
  | .lsAminAr t => some (.ls, 0x42, t)
  | .lsAmaxAr t => some (.ls, 0x43, t)
  | .lsAandAr t => some (.ls, 0x44, t)
  | .lsAorAr t => some (.ls, 0x45, t)
  | .lsAxorAr t => some (.ls, 0x46, t)
  | .lsAxchAr t => some (.ls, 0x47, t)
  | .lsAcasAr t => some (.ls, 0x48, t)
  | .lsAaddfAr t => some (.ls, 0x49, t)
  | .spSpcfg t => some (.sp, 0x00, t)
  | .spSpbase t => some (.sp, 0x01, t)
  | .spSpstart t => some (.sp, 0x02, t)
  | .spSpskip t => some (.sp, 0x03, t)
  | .spSpstat t => some (.sp, 0x04, t)
  | .spSpstop t => some (.sp, 0x05, t)
  | .cpCpsrc t => some (.cp, 0x00, t)
  | .cpCpdst t => some (.cp, 0x01, t)
  | .cpCpshape t => some (.cp, 0x02, t)
  | .cpCpgo t => some (.cp, 0x03, t)
  | .cpCpwm t => some (.cp, 0x04, t)
  | .cpCpstat t => some (.cp, 0x05, t)
  | .cpCpabort t => some (.cp, 0x06, t)
  | .cpCphalo t => some (.cp, 0x07, t)
  | .cpCpring t => some (.cp, 0x08, t)
  | .mxMxres t => some (.mx, 0x00, t)
  | .mxMxrel t => some (.mx, 0x01, t)
  | .mxMxcop t => some (.mx, 0x02, t)
  | .mxMxpass t => some (.mx, 0x03, t)
  | .mxMxdrain t => some (.mx, 0x04, t)
  | .mxMxsave t => some (.mx, 0x05, t)
  | .mxMxload t => some (.mx, 0x06, t)
  | .mxMxstat t => some (.mx, 0x07, t)
  | .mxMxdrainAcc t => some (.mx, 0x08, t)
  | .brJmp t => some (.br, 0x00, t)
  | .brBra t => some (.br, 0x01, t)
  | .brBrz t => some (.br, 0x02, t)
  | .brBrall t => some (.br, 0x03, t)
  | .brCall t => some (.br, 0x04, t)
  | .brRet t => some (.br, 0x05, t)
  | .brLoopi t => some (.br, 0x06, t)
  | .brLoop t => some (.br, 0x07, t)
  | .brHalt t => some (.br, 0x08, t)
  | .brYield t => some (.br, 0x09, t)
  | .syBar t => some (.sy, 0x00, t)
  | .syBarw t => some (.sy, 0x01, t)
  | .syBarar t => some (.sy, 0x02, t)
  | .syCbar t => some (.sy, 0x03, t)
  | .syFence t => some (.sy, 0x04, t)
  | .syAcq t => some (.sy, 0x05, t)
  | .syRel t => some (.sy, 0x06, t)
  | .syTwait t => some (.sy, 0x07, t)
  | .syTread t => some (.sy, 0x08, t)
  | .syMwait t => some (.sy, 0x09, t)
  | .syWmwait t => some (.sy, 0x0A, t)
  | .sySleep t => some (.sy, 0x0B, t)
  | .syTick t => some (.sy, 0x0C, t)
  | .ssRdsys t => some (.ss, 0x00, t)
  | .ssWrsys t => some (.ss, 0x01, t)
  | .ssTrap t => some (.ss, 0x02, t)
  | .ssRti t => some (.ss, 0x03, t)
  | .ssTlbinv t => some (.ss, 0x04, t)
  | .ssReplay t => some (.ss, 0x05, t)
  | .ssPub t => some (.ss, 0x06, t)
  | .ssIclock t => some (.ss, 0x07, t)
  | .ssIcunlock t => some (.ss, 0x08, t)
  | .ssCtxsave t => some (.ss, 0x09, t)
  | .ssCtxload t => some (.ss, 0x0A, t)
  | .lnPush t => some (.ln, 0x00, t)
  | .lnStat t => some (.ln, 0x01, t)
  | .lnCancel t => some (.ln, 0x02, t)
  | .fabricRemoteAccess => none
  | .streamVectorWrite => none
  | .mxsaveStart => none
  | .uncorrectableError => none
  | .fabricPlaneReturn => none
  | .coreCycle => none

/-- The number of an event; none for the instructions of a move. -/
def eventTag : Instr → Option Nat
  | .bundleIssue => some 0
  | .move _ _ => none
  | .portLatch _ _ _ => none
  | .fixedLatencyResultWrite => some 3
  | .resultEntryFill => some 4
  | .instructionFetchFill => some 5
  | .groupSlotFree => some 6
  | .gridCompletion => some 7
  | .yieldExpiry => some 8
  | .pageWalkComplete => some 9
  | .faultBufferDelivery => some 10
  | .deferredTrapEntry => some 11
  | .watermarkRelease => some 12
  | .hiddenWriteReveal => some 13
  | .streamVectorFetch => some 14
  | .copyElementLand => some 15
  | .copyCseqAdvance => some 16
  | .mxPassStart => some 17
  | .mxPassRetire => some 18
  | .mxDrainStart => some 19
  | .mxDrainRetire => some 20
  | .mxloadStart => some 21
  | .mxloadRetire => some 22
  | .releaseComplete => some 23
  | .barrierArrival => some 24
  | .clusterBarrierArrival => some 25
  | .twaitFill => some 26
  | .mwaitFill => some 27
  | .mwaitHostPoll => some 28
  | .wmwaitFill => some 29
  | .sleepExpiry => some 30
  | .replayWalk => some 31
  | .replayComplete => some 32
  | .tlbinvComplete => some 33
  | .pubComplete => some 34
  | .lnPushAccept => some 35
  | .segmentLink => some 36
  | .segmentRefill => some 37
  | .dispatcherTake => some 38
  | .teamPlacement => some 39
  | .fragmentationWaitExpiry => some 40
  | .timeSliceExpiry => some 41
  | .swapOut => some 42
  | .teamSave => some 43
  | .teamRestore => some 44
  | .swappedParentWake => some 45
  | .hcqDoorbell => some 46
  | .ringCiWrite => some 47
  | .nop => some 48
  | .launch => some 49
  | .waitctr => some 50
  | .signal => some 51
  | .preempt => some 52
  | .commandQueueResume => some 53
  | .frameReceive => some 54
  | .ingestWpAdvance => some 55
  | .pauseXoffRefresh => some 56
  | .ringConfigure => some 57
  | .flowRuleWrite => some 58
  | .frameAdvance => some 59
  | .thermalLimitRaise => some 60
  | .skenClear => some 61
  | .gtimeTick => some 62
  | .gtimeResync => some 63
  | .partitionQuotaWrite => some 64
  | .ptrootWrite => some 65
  | .tvecSavebaseWrite => some 66
  | .pferrClear => some 67
  | .bar2Access => some 68
  | .bar2Atomicop => some 69
  | .registerWrite => some 70
  | .pmselWrite => some 71
  | .fragmentationCounterClear => some 72
  | .agemonUpdate => some 73
  | .mrExtendRequest => some 74
  | .clockPlanWrite => some 75
  | .vcoreCurrentLimit => some 76
  | .vcoreLimitRelease => some 77
  | .fabricPlaneFailover => some 78
  | .fabricAccessTimeout => some 79
  | .fabidw => some 80
  | .planemap => some 81
  | .thlimit => some 82
  | .newtHeartbeat => some 83
  | .heartbeatTimeout => some 84
  | .modetabWrite => some 85
  | .modetabApply => some 86
  | .molt => some 87
  | .moltVerify => some 88
  | .moltQuiesce => some 89
  | .moltExport => some 90
  | .moltSwitch => some 91
  | .moltImport => some 92
  | .moltFallback => some 93
  | .dieRepair => some 94
  | .dieRepairComplete => some 95
  | .fullBringup => some 96
  | .packageReset => some 97
  | .quoteRequest => some 98
  | .fbpop => some 99
  | .fbdeliv => some 100
  | .fbrpl => some 101
  | .hlaunch => some 102
  | .hpreempt => some 103
  | .hoqdone => some 104
  | .plsw => some 105
  | .plqfill => some 106
  | .hcancpop => some 107
  | .hfin => some 108
  | .iaAdd _ => none
  | .iaSub _ => none
  | .iaRsub _ => none
  | .iaNeg _ => none
  | .iaAbs _ => none
  | .iaMin _ => none
  | .iaMax _ => none
  | .iaAddsat _ => none
  | .iaSubsat _ => none
  | .iaMul _ => none
  | .iaMulhi _ => none
  | .iaMad _ => none
  | .iaLea _ => none
  | .iaHmix _ => none
  | .iaMov _ => none
  | .iaAnd _ => none
  | .iaOr _ => none
  | .iaXor _ => none
  | .iaAndn _ => none
  | .iaNot _ => none
  | .iaShl _ => none
  | .iaShr _ => none
  | .iaSar _ => none
  | .iaRot _ => none
  | .iaClz _ => none
  | .iaCtz _ => none
  | .iaPop _ => none
  | .iaBrev _ => none
  | .iaBfx _ => none
  | .iaBfi _ => none
  | .iaSel _ => none
  | .iaCmpeq _ => none
  | .iaCmpne _ => none
  | .iaCmplt _ => none
  | .iaCmple _ => none
  | .iaCmpgt _ => none
  | .iaCmpge _ => none
  | .fvFadd _ => none
  | .fvFsub _ => none
  | .fvFmul _ => none
  | .fvFma _ => none
  | .fvFms _ => none
  | .fvFnma _ => none
  | .fvFmin _ => none
  | .fvFmax _ => none
  | .fvFabs _ => none
  | .fvFneg _ => none
  | .fvFcmp _ => none
  | .fvFrnd _ => none
  | .fvVadd _ => none
  | .fvVsub _ => none
  | .fvVmul _ => none
  | .fvVmad _ => none
  | .fvVmin _ => none
  | .fvVmax _ => none
  | .fvVand _ => none
  | .fvVor _ => none
  | .fvVxor _ => none
  | .fvVsel _ => none
  | .fvCmul _ => none
  | .fvCmac _ => none
  | .fvDot4 _ => none
  | .fvHsum _ => none
  | .fvPack _ => none
  | .fvUnpack _ => none
  | .fvBshuf _ => none
  | .fvMovv _ => none
  | .fvCvtf32 _ => none
  | .fvCvtbf16 _ => none
  | .fvCvtf16 _ => none
  | .fvCvti32 _ => none
  | .fvCvtn32 _ => none
  | .fvCvti16 _ => none
  | .fvCvtn16 _ => none
  | .fvCvti8 _ => none
  | .fvCvtn8 _ => none
  | .fvCvtb4 _ => none
  | .fvCvtb8 _ => none
  | .fvCvtb12 _ => none
  | .fvCvtc4 _ => none
  | .fvCvtc8 _ => none
  | .fvCvtci32 _ => none
  | .sfExp2 _ => none
  | .sfExp _ => none
  | .sfLog2 _ => none
  | .sfLn _ => none
  | .sfRcp _ => none
  | .sfRsqrt _ => none
  | .sfSqrt _ => none
  | .sfSin _ => none
  | .sfCos _ => none
  | .sfTanh _ => none
  | .sfSigm _ => none
  | .sfErf _ => none
  | .sfRmax _ => none
  | .sfRexp _ => none
  | .sfRdiv _ => none
  | .sfRmsq _ => none
  | .xlShfl _ => none
  | .xlShup _ => none
  | .xlShdn _ => none
  | .xlXorsh _ => none
  | .xlBcast _ => none
  | .xlBallot _ => none
  | .xlAnyl _ => none
  | .xlAlll _ => none
  | .xlElect _ => none
  | .xlLanemask _ => none
  | .xlPopl _ => none
  | .xlRmin _ => none
  | .xlRmax _ => none
  | .xlRadd _ => none
  | .xlScanadd _ => none
  | .lsLd _ => none
  | .lsSt _ => none
  | .lsLdv _ => none
  | .lsStv _ => none
  | .lsLdacq _ => none
  | .lsStrel _ => none
  | .lsPf _ => none
  | .lsLdnc _ => none
  | .lsStMc _ => none
  | .lsAadd _ => none
  | .lsAsub _ => none
  | .lsAmin _ => none
  | .lsAmax _ => none
  | .lsAand _ => none
  | .lsAor _ => none
  | .lsAxor _ => none
  | .lsAxch _ => none
  | .lsAcas _ => none
  | .lsAaddf _ => none
  | .lsAaddAcq _ => none
  | .lsAsubAcq _ => none
  | .lsAminAcq _ => none
  | .lsAmaxAcq _ => none
  | .lsAandAcq _ => none
  | .lsAorAcq _ => none
  | .lsAxorAcq _ => none
  | .lsAxchAcq _ => none
  | .lsAcasAcq _ => none
  | .lsAaddfAcq _ => none
  | .lsAaddRel _ => none
  | .lsAsubRel _ => none
  | .lsAminRel _ => none
  | .lsAmaxRel _ => none
  | .lsAandRel _ => none
  | .lsAorRel _ => none
  | .lsAxorRel _ => none
  | .lsAxchRel _ => none
  | .lsAcasRel _ => none
  | .lsAaddfRel _ => none
  | .lsAaddAr _ => none
  | .lsAsubAr _ => none
  | .lsAminAr _ => none
  | .lsAmaxAr _ => none
  | .lsAandAr _ => none
  | .lsAorAr _ => none
  | .lsAxorAr _ => none
  | .lsAxchAr _ => none
  | .lsAcasAr _ => none
  | .lsAaddfAr _ => none
  | .spSpcfg _ => none
  | .spSpbase _ => none
  | .spSpstart _ => none
  | .spSpskip _ => none
  | .spSpstat _ => none
  | .spSpstop _ => none
  | .cpCpsrc _ => none
  | .cpCpdst _ => none
  | .cpCpshape _ => none
  | .cpCpgo _ => none
  | .cpCpwm _ => none
  | .cpCpstat _ => none
  | .cpCpabort _ => none
  | .cpCphalo _ => none
  | .cpCpring _ => none
  | .mxMxres _ => none
  | .mxMxrel _ => none
  | .mxMxcop _ => none
  | .mxMxpass _ => none
  | .mxMxdrain _ => none
  | .mxMxsave _ => none
  | .mxMxload _ => none
  | .mxMxstat _ => none
  | .mxMxdrainAcc _ => none
  | .brJmp _ => none
  | .brBra _ => none
  | .brBrz _ => none
  | .brBrall _ => none
  | .brCall _ => none
  | .brRet _ => none
  | .brLoopi _ => none
  | .brLoop _ => none
  | .brHalt _ => none
  | .brYield _ => none
  | .syBar _ => none
  | .syBarw _ => none
  | .syBarar _ => none
  | .syCbar _ => none
  | .syFence _ => none
  | .syAcq _ => none
  | .syRel _ => none
  | .syTwait _ => none
  | .syTread _ => none
  | .syMwait _ => none
  | .syWmwait _ => none
  | .sySleep _ => none
  | .syTick _ => none
  | .ssRdsys _ => none
  | .ssWrsys _ => none
  | .ssTrap _ => none
  | .ssRti _ => none
  | .ssTlbinv _ => none
  | .ssReplay _ => none
  | .ssPub _ => none
  | .ssIclock _ => none
  | .ssIcunlock _ => none
  | .ssCtxsave _ => none
  | .ssCtxload _ => none
  | .lnPush _ => none
  | .lnStat _ => none
  | .lnCancel _ => none
  | .fabricRemoteAccess => some 332
  | .streamVectorWrite => some 333
  | .mxsaveStart => some 334
  | .uncorrectableError => some 335
  | .fabricPlaneReturn => some 336
  | .coreCycle => some 337

/-- The DPORT code of a port (R63). -/
def PortName.code : PortName → BitVec 2
  | .a => 0 | .b => 1 | .aux => 3

/-- The fields of a move to a register file or to null (R70, R71). -/
def moveFields (src : Src) (d : Dst) : Move40 :=
  match d with
  | .g i => ⟨src, 0, i.extractLsb' 7 2, i.extractLsb' 0 7, 0, 0, 0⟩
  | .v i => ⟨src, 1, i.extractLsb' 7 2, i.extractLsb' 0 7, 0, 0, 0⟩
  | .k i => ⟨src, 2, i.extractLsb' 7 2, i.extractLsb' 0 7, 0, 0, 0⟩
  | .q i => ⟨src, 3, i.extractLsb' 7 2, i.extractLsb' 0 7, 0, 0, 0⟩
  | .null => ⟨src, 31, 0, 0, 0, 0, 0⟩

/-- The fields of a trigger (R63, R70). -/
def trigFields (c : UnitCls) (op : Nat) (t : Trig) : Move40 :=
  ⟨t.src, BitVec.ofNat 5 (c.base + t.inst.toNat), 2, BitVec.ofNat 7 op, t.typ, t.mod, 0⟩

/-- The word of an instruction: the move of R63, or the model's event word. -/
def encode (i : Instr) : Nat :=
  match i with
  | .move src d => (wordOf (moveFields src d)).toNat
  | .portLatch src u p => (wordOf ⟨src, u, p.code, 0, 0, 0, 0⟩).toNat
  | i =>
    match trigOf i with
    | some (c, op, t) => (wordOf (trigFields c op t)).toNat
    | none =>
      match eventTag i with
      | some tag => 3 + 4 * tag
      | none => 0

end Sys2Proof
end

