-- ==== Sys2Proof/Config.lean ====
section
/-! DEFINITION. What the manual leaves open: constants without a body, so that nothing can be proved of their values. -/

namespace Sys2Proof.Config

/-- Which step happens when the agenda is empty, with its selection: the order of the agents is open (log 2). -/
opaque nextEvent : Nat → Nat × List Nat
/-- The image that the board supplies for each Newt (R418). -/
opaque bootImage : Nat → List (BitVec 8)
/-- Where the segment pool of a die stands in its stacked DRAM, in units of a segment (R310, log 17). -/
opaque segmentPool : Nat → Nat
/-- A choice that the manual leaves open: which of several values or victims, by a fresh number (logs 6, 7). -/
opaque choice : Nat → Nat
/-- Where the result of an sf function falls within what R164 to R167 allow: function, type, operand bits (log 6). -/
opaque sfValue : Nat → Nat → Nat → Nat
/-- Where the results of an sf function that keeps an order rise by one f32 value, as its operand rises: function and type
(log 6). -/
opaque sfSteps : Nat → Nat → List Int
/-- The certificate of the device key (log 14). -/
opaque certificate : List (BitVec 8)
/-- The fused part of AGEMON: ROWEAR (log 14). -/
opaque fuseRowear : Nat → BitVec 32
/-- The fused part of AGEMON: EMCNT (log 14). -/
opaque fuseEmcnt : Nat → BitVec 64
/-- What an hourly update of AGEMON reads from the monitors, by a fresh number (log 14). -/
opaque agemonReading : Nat → BitVec 128
/-- The repair map loaded at reset (log 14). -/
opaque repairMap : List (Nat × Nat)
/-- Cores of a die found failed by a repair, by a fresh number (log 14). -/
opaque failedCores : Nat → List (Nat × Nat)
/-- The public key that a fused key identifier names: a point (log 14). -/
opaque imageKey : Nat → Nat × Nat
/-- Whether a key identifier is fused into the part (log 14). -/
opaque keyFused : Nat → Bool
/-- The anti-rollback floor of a firmware function (log 14). -/
opaque rollbackFloor : Nat → Nat
/-- The private half of the device key (log 14). -/
opaque deviceKey : Nat
/-- The number of its own that the signature of a digest takes (log 14). -/
opaque signNonce : BitVec 384 → Nat
/-- Digest of the boot ROM (log 14). -/
opaque romDigest : BitVec 384
/-- The digests of the mode table and of the clock-plan table as the boot finds them: 0 and 1 (log 14). -/
opaque tableDigest : Nat → BitVec 384
/-- Whether a new image accepts the content of a record (log 14). -/
opaque recordOk : Nat → Bool
/-- Whether a full bring-up succeeds (log 14). -/
opaque bringupOk : Nat → Bool
/-- The digest of a change of the partition table, mode table or clock-plan table that the Newt extends: how the change is
encoded for it is open (log 12), by a fresh number. -/
opaque changeDigest : Nat → BitVec 384
/-- What the host or another package answers for one byte of a read, by a fresh number and the address (log 15). -/
opaque remoteByte : Nat → Nat → BitVec 8
/-- Whether the answer reports an error (R191), by a fresh number (log 15). -/
opaque remoteError : Nat → Bool
/-- Whether an offset of BAR0 holds a register: the spec gives BAR0 no layout (log 48). -/
opaque bar0Populated : Nat → Bool

end Sys2Proof.Config
end

