-- ==== Sys2Proof/Machine/Ecdsa.lean ====
section
/-! DEFINITION. ECDSA on brainpoolP384r1 with SHA-384, which the manual names for signatures (R2, R426, R438) and does not
define: the curve is that of RFC 5639 and the algorithm that of FIPS 186 (PRESUMED, log 12). -/

namespace Sys2Proof.Machine

/-- The prime of the field. -/
def Ecdsa.p : Nat := 0x8CB91E82A3386D280F5D6F7E50E641DF152F7109ED5456B412B1DA197FB71123ACD3A729901D1A71874700133107EC53
/-- The coefficient of x. -/
def Ecdsa.a : Nat := 0x7BC382C63D8C150C3C72080ACE05AFA0C2BEA28E4FB22787139165EFBA91F90F8AA5814A503AD4EB04A8C7DD22CE2826
/-- The constant coefficient. -/
def Ecdsa.b : Nat := 0x04A8C7DD22CE28268B39B55416F0447C2FB77DE107DCD2A62E880EA53EEB62D57CB4390295DBC9943AB78696FA504C11
/-- The order of the base point. -/
def Ecdsa.n : Nat := 0x8CB91E82A3386D280F5D6F7E50E641DF152F7109ED5456B31F166E6CAC0425A7CF3AB6AF6B7FC3103B883202E9046565
/-- The base point. -/
def Ecdsa.g : Nat × Nat :=
  (0x1D1C64F068CF45FFA2A63A81B7C13F6B8847A3E77EF14FE3DB7FCAFE0CBD10E8E826E03436D646AAEF87B2E247D4AF1E,
   0x8ABE1D7520F9C2A45CB1EB8E95CFD55262B70B29FEEC5864E19C054FF99129280E4646217791811142820341263C5315)

/-- A power by squaring, over the bits of the exponent from the given one down. -/
def Ecdsa.pow (m x e : Nat) : Nat → Nat
  | 0 => 1
  | k + 1 =>
    let y := Ecdsa.pow m x (e / 2) k
    if e = 0 then 1 else if e % 2 = 1 then y * y % m * x % m else y * y % m

/-- The inverse modulo a prime. -/
def Ecdsa.inv (m x : Nat) : Nat := Ecdsa.pow m (x % m) (m - 2) 384

/-- A point of the curve; none is the point at infinity. -/
abbrev Ecdsa.Point := Option (Nat × Nat)

/-- Whether a pair of numbers is a point of the curve. -/
def Ecdsa.onCurve (q : Nat × Nat) : Bool :=
  decide (q.1 < Ecdsa.p) && decide (q.2 < Ecdsa.p) &&
    q.2 * q.2 % Ecdsa.p == (q.1 * q.1 * q.1 + Ecdsa.a * q.1 + Ecdsa.b) % Ecdsa.p

/-- The point of a line with a slope through a point, on the other side of the x axis. -/
def Ecdsa.chord (l : Nat) (x y : Nat × Nat) : Ecdsa.Point :=
  let m := Ecdsa.p
  let u := (l * l + 2 * m - x.1 - y.1) % m
  some (u, (l * (x.1 + m - u) + m - x.2) % m)

/-- The sum of two points. -/
def Ecdsa.add : Ecdsa.Point → Ecdsa.Point → Ecdsa.Point
  | none, q => q
  | q, none => q
  | some x, some y =>
    let m := Ecdsa.p
    if x.1 = y.1 then
      if (x.2 + y.2) % m = 0 then none
      else Ecdsa.chord ((3 * x.1 * x.1 + Ecdsa.a) % m * Ecdsa.inv m (2 * x.2) % m) x y
    else Ecdsa.chord ((y.2 + m - x.2) * Ecdsa.inv m (y.1 + m - x.1) % m) x y

/-- A multiple of a point, by doubling. -/
def Ecdsa.mul (q : Ecdsa.Point) (k : Nat) : Nat → Ecdsa.Point
  | 0 => none
  | i + 1 =>
    let h := Ecdsa.mul q (k / 2) i
    let d := Ecdsa.add h h
    if k % 2 = 1 then Ecdsa.add d q else d

/-- Whether a signature r, s of a digest verifies under a public key. -/
def Ecdsa.verify (q : Nat × Nat) (digest : BitVec 384) (r s : Nat) : Bool :=
  let n := Ecdsa.n
  if r = 0 ∨ n ≤ r ∨ s = 0 ∨ n ≤ s ∨ !Ecdsa.onCurve q then false
  else
    let w := Ecdsa.inv n s
    match Ecdsa.add (Ecdsa.mul (some Ecdsa.g) (digest.toNat * w % n) 384) (Ecdsa.mul (some q) (r * w % n) 384) with
    | some x => x.1 % n == r
    | none => false

/-- The signature r, s of a digest under a private key, with the number of its own that each signature takes. -/
def Ecdsa.sign (d k : Nat) (digest : BitVec 384) : Nat × Nat :=
  let n := Ecdsa.n
  match Ecdsa.mul (some Ecdsa.g) k 384 with
  | some x => (x.1 % n, Ecdsa.inv n k * (digest.toNat + x.1 % n * d) % n)
  | none => (0, 0)

end Sys2Proof.Machine
end

