-- ==== Sys2Proof/Machine/Sha.lean ====
section
/-! DEFINITION. SHA-384, which the manual names for digests and measurement (R388, R426, R428, R438) and does not define: it is
that of FIPS 180-4 (PRESUMED, log 12). -/

namespace Sys2Proof.Machine

/-- The first 80 primes. -/
def Sha.primes : List Nat :=
  [2, 3, 5, 7, 11, 13, 17, 19, 23, 29, 31, 37, 41, 43, 47, 53, 59, 61, 67, 71] ++
  [73, 79, 83, 89, 97, 101, 103, 107, 109, 113, 127, 131, 137, 139, 149, 151, 157, 163, 167, 173] ++
  [179, 181, 191, 193, 197, 199, 211, 223, 227, 229, 233, 239, 241, 251, 257, 263, 269, 271, 277, 281] ++
  [283, 293, 307, 311, 313, 317, 331, 337, 347, 349, 353, 359, 367, 373, 379, 383, 389, 397, 401, 409]

/-- The largest x with x ^ k at most n, below 2 ^ b, built from its high bit down. -/
def Sha.root (k n : Nat) : Nat → Nat → Nat
  | 0, x => x
  | b + 1, x => Sha.root k n b (if (x + 2 ^ b) ^ k ≤ n then x + 2 ^ b else x)

/-- The first 64 bits of the fraction of the k-th root of a prime. -/
def Sha.frac (k p : Nat) : BitVec 64 := BitVec.ofNat 64 (Sha.root k (p * 2 ^ (64 * k)) 72 0)

/-- The constants of the 80 rounds: from the cube roots. -/
def Sha.k : List (BitVec 64) := Sha.primes.map (Sha.frac 3)

/-- The initial value of SHA-384: from the square roots of the 9th to the 16th prime. -/
def Sha.iv : List (BitVec 64) := ((Sha.primes.drop 8).take 8).map (Sha.frac 2)

/-- n bytes of a number, most significant first. -/
def Sha.beBytes (n v : Nat) : List Byte := (List.range n).map (fun i => BitVec.ofNat 8 (v / 2 ^ (8 * (n - 1 - i))))

/-- The number of bytes, most significant first. -/
def Sha.beNat (bs : List Byte) : Nat := bs.foldl (fun a b => 256 * a + b.toNat) 0

/-- The message padded to whole blocks of 128 bytes. -/
def Sha.pad (m : List Byte) : List Byte :=
  m ++ [0x80] ++ List.replicate ((128 - (m.length + 17) % 128) % 128) 0 ++ Sha.beBytes 16 (8 * m.length)

/-- The message schedule extended by one word. The list runs from the newest word to the oldest. -/
def Sha.extend (w : List (BitVec 64)) : List (BitVec 64) :=
  let g (i : Nat) : BitVec 64 := (w[i]?).getD 0
  let s0 := (g 14).rotateRight 1 ^^^ (g 14).rotateRight 8 ^^^ (g 14 >>> 7)
  let s1 := (g 1).rotateRight 19 ^^^ (g 1).rotateRight 61 ^^^ (g 1 >>> 6)
  (g 15 + s0 + g 6 + s1) :: w

/-- The message schedule of a block of 128 bytes. -/
def Sha.schedule (b : List Byte) : List (BitVec 64) :=
  let w0 := (List.range 16).map (fun i => BitVec.ofNat 64 (Sha.beNat ((b.drop (8 * i)).take 8)))
  ((List.range 64).foldl (fun w _ => Sha.extend w) w0.reverse).reverse

/-- One round on the working words a to h. -/
def Sha.round (h : List (BitVec 64)) (kw : BitVec 64) : List (BitVec 64) :=
  match h with
  | [a, b, c, d, e, f, g, h] =>
    let s1 := e.rotateRight 14 ^^^ e.rotateRight 18 ^^^ e.rotateRight 41
    let t1 := h + s1 + ((e &&& f) ^^^ (~~~e &&& g)) + kw
    let s0 := a.rotateRight 28 ^^^ a.rotateRight 34 ^^^ a.rotateRight 39
    [t1 + (s0 + ((a &&& b) ^^^ (a &&& c) ^^^ (b &&& c))), a, b, c, d + t1, e, f, g]
  | l => l

/-- The hash value after a block. -/
def Sha.block (h : List (BitVec 64)) (b : List Byte) : List (BitVec 64) :=
  (h.zip ((Sha.k.zip (Sha.schedule b)).foldl (fun x p => Sha.round x (p.1 + p.2)) h)).map (fun p => p.1 + p.2)

/-- The hash value after n blocks. -/
def Sha.blocks : Nat → List (BitVec 64) → List Byte → List (BitVec 64)
  | 0, h, _ => h
  | n + 1, h, m => Sha.blocks n (Sha.block h (m.take 128)) (m.drop 128)

/-- SHA-384 of bytes; the first byte of the digest is its most significant. -/
def Sha.hash384 (m : List Byte) : BitVec 384 :=
  let p := Sha.pad m
  BitVec.ofNat 384 (((Sha.blocks (p.length / 128) Sha.iv p).take 6).foldl (fun a w => 2 ^ 64 * a + w.toNat) 0)

end Sys2Proof.Machine
end

