-- ==== Sys2Proof/Machine/Image.lean ====
section
/-! DEFINITION. Firmware images and the checks that one must pass to run (R418, R419, R426, R427). -/

namespace Sys2Proof.Machine

/-- A little-endian field of an image. -/
def field (im : List (BitVec 8)) (off n : Nat) : Nat := Sha.beNat ((im.drop off).take n).reverse

/-- A big-endian field of an image. -/
def fieldBe (im : List (BitVec 8)) (off n : Nat) : Nat := Sha.beNat ((im.drop off).take n)

/-- The bound of the major cycle of a function's image (R419). -/
def cycleBound (f : Nat) : Nat := match f with | 0 => 1000 | 1 => 500000 | _ => 50000

/-- Whether an image's header keeps its rules (R419, R426, R427). -/
def headerOk (im : List (BitVec 8)) (f : Nat) : Bool :=
  field im 0 4 == 0x544E5745 && field im 4 1 == f && field im 5 1 == 1 && field im 6 2 == 0 && field im 18 2 == 0 && field im 40 120 == 0 &&
    decide (field im 20 4 ≤ cycleBound f) && field im 24 4 % 16 == 0 && decide (16 ≤ field im 24 4) && decide (field im 24 4 ≤ 65536) &&
    field im 28 4 % 16 == 0 && decide (field im 28 4 ≤ 65536)

/-- Whether an image's key and signature are good (R426, R427); the keys are the part's own. -/
def signedOk (im : List (BitVec 8)) : Bool :=
  Config.keyFused (field im 32 8) &&
    Ecdsa.verify (Config.imageKey (field im 32 8)) (Sha.hash384 (im.take 160 ++ im.drop 256)) (fieldBe im 160 48) (fieldBe im 208 48)

/-- The version of an image. -/
def imageVersion (im : List (BitVec 8)) : BitVec 32 := BitVec.ofNat 32 (field im 8 4)

/-- The refusal of VERIFY, or 0 (R427, R430). -/
def verifyErr (im : List (BitVec 8)) (f : Nat) : Nat :=
  if !headerOk im f then 3 else if !signedOk im then 2 else if field im 8 4 < Config.rollbackFloor f then 3 else 0

/-- The function of a Newt's image (R419). -/
def newtFunc (n : Nat) : Nat := if n < 8 then 0 else n - 7

end Sys2Proof.Machine
end

