-- ==== Sys2Proof/Machine/State.lean ====
section
/-! DEFINITION. The state of the PX-T8A as plain data, the reasons for a stop, and the state after reset.

Numbers that the manual never wraps, shifts or shows as a word (indices, counts, addresses once they are formed) are
Nat; register contents are bit vectors. A table `Tbl` lists the entries that differ from the reset value, by key. -/

namespace Sys2Proof.Machine

/-- Sparse data by key; an absent key holds the default that its reader names. -/
abbrev Tbl (α : Type) := List (Nat × α)

/-! ### Memory accesses -/

/-- The attributes of a translated page (R206). -/
structure Attr where
  lease : BitVec 3 := 0
  prop : Bool := false
  repl : Bool := false
  priv : Bool := false
  w : Bool := true
  x : Bool := false
  deriving DecidableEq, Repr

/-- A TLB entry (R332): the size is 12, 16 or 21 (log2 of the page). -/
structure TlbEntry where
  part : Nat
  vpage : Nat
  size : Nat
  ppage : Nat
  attr : Attr
  deriving DecidableEq, Repr

/-- The key of a not-present fault (R335): the range [base, base + 2^size) of a partition. -/
structure Key where
  part : Nat
  base : Nat
  size : Nat
  deriving DecidableEq, Repr

/-- What kind of access it is (R336), and the reads that are no load or store. -/
inductive AccKind where
  | load | store | atomic | streamRead | streamWrite | copySrc | copyDst | mxsave | mxload | mwait | wmwait
  deriving DecidableEq, Repr

/-- One lane's part of an access, or one stream element: `len` bytes at `va`, at bit `off` of lane `lane`. -/
structure Elem where
  lane : Nat
  off : Nat
  len : Nat
  va : Nat
  pa : Nat := 0
  attr : Attr := {}
  /-- it comes through the package's own fabric window: performed at the home, uncached (R405) -/
  home : Bool := false
  /-- the tick in which its bytes had landed under a watermark, as its issue or its release found it (R252) -/
  past : Option (BitVec 64) := none
  deriving DecidableEq, Repr

/-- How far an access has come: its translation waits for a walk, is done, or found an absent page (R222, R337). -/
inductive AccStat where
  | walking
  | ready
  | parked (key : Key) (fva : Nat)
  deriving DecidableEq, Repr

/-- A memory access that has been triggered and not yet performed (R209 to R225). -/
structure Access where
  kind : AccKind
  typ : BitVec 3 := 0
  op : Nat := 0
  lanes : Mask := 0
  elems : List Elem := []
  data : Row := 0
  cmp : BitVec 128 := 0
  acq : Bool := false
  rel : Bool := false
  wide : Bool := false
  nc : Bool := false
  mc : Bool := false
  /-- it has passed the checks against its slot: a leased row makes it wait (R274) -/
  again : Bool := false
  seq : Nat := 0
  part : Nat := 0
  priv : Bool := false
  stat : AccStat := .walking
  /-- held by the watermark compare (R224) -/
  held : Bool := false
  /-- tick in which its translation was done: a request to another package is sent then (R407) -/
  sent : BitVec 64 := 0
  /-- a part of it has been performed: its elements are those left, an st.mc's replicas told apart; and the largest W of the parts
      so far (R208, R218, R220, R249) -/
  begun : Bool := false
  w : BitVec 64 := 0
  deriving DecidableEq, Repr

/-! ### A group -/

/-- What fills a pending result-queue entry (R79). -/
inductive Pend where
  /-- the entry is full -/
  | full
  /-- a non-waiting operation: fills in core cycle `due` with the value it already holds (R84) -/
  | timed (due : Nat)
  /-- an ls access, or a vector of a read stream -/
  | mem (a : Access)
  /-- rdsys of register `reg` (R373) -/
  | rdsys (due reg : Nat)
  /-- wrsys of register `reg` with the value t (R373) -/
  | wrsys (due reg : Nat) (t : Row)
  /-- bar: fills at the completion of the phase that it joined (R393) -/
  | bar (bar : Nat)
  /-- barw: fills once the generation has passed p (R393) -/
  | barw (bar : Nat) (p : BitVec 32)
  /-- cbar (R394) -/
  | cbar
  /-- twait of a counter selector for the value n (R396) -/
  | twait (sel : BitVec 8) (n : BitVec 64)
  /-- mwait for the value n; in host memory the next poll is at tick `poll` (R397) -/
  | mwait (a : Access) (n : BitVec 64) (poll : BitVec 64)
  /-- wmwait on a channel (R398) -/
  | wmwait (ch : Nat) (a : Access)
  /-- sleep until an absolute tick (R399) -/
  | sleep (tick : BitVec 64)
  /-- tlbinv of an address, or of all: the walks, and the translated accesses (core, slot, place), that it still waits
      for (R334) -/
  | tlbinv (seq : Nat) (all : Bool) (va : Nat) (started : Bool) (walks : List Nat) (accs : List (Nat × Nat × Nat))
  /-- replay: whether its walks have started, the accesses of S still to walk, their number and DROP (R339, R375) -/
  | replay (seq : Nat) (all : Bool) (va : Nat) (started : Bool) (todo : List Nat) (count : Nat) (drop : Bool)
  /-- pub of a range at a scope (R346) -/
  | pub (seq : Nat) (scope : BitVec 3) (va len : Nat)
  /-- iclock and icunlock of a range (R343) -/
  | iclock (seq : Nat) (lock : Bool) (va len : Nat)
  /-- ctxsave to an address; whether the team joins the restore list (R377) -/
  | ctxsave (va : Nat) (rejoin : Bool)
  /-- ctxload of the image at an address (R378) -/
  | ctxload (due va : Nat)
  /-- ln.push of a record to a core, until it is accepted (R313) -/
  | push (seq core rcd : Nat)
  /-- a push that was handed over: the ticket it takes (R313) -/
  | pushed (core rcd : Nat) (ticket : BitVec 32)
  /-- a push that was accepted: its entry shows the queue as it stands at the end of the cycle (R450) -/
  | accepted (core status : Nat) (ticket : BitVec 32)
  /-- cpabort of a channel that is stopping (R294) -/
  | cpabort (ch : Nat)
  /-- an operation of the matrix engine, by its number (R258) -/
  | mx (id : Nat)
  deriving DecidableEq, Repr

/-- An entry of a result queue (R79, R108). -/
structure QEntry where
  val : Row := 0
  dis : Mask := 0
  pend : Pend := .full
  addr : BAddr := 0
  slot : Nat := 0
  /-- the place of its trigger in program order (R76) -/
  seq : Nat := 0
  /-- first core cycle in which it may be read: the one after it filled (R28) -/
  filled : Nat := 0
  /-- wmwait: the cycle in which it fills, and whether its channel was found abandoned (R398); twait: the cycle in which it fills,
      with the value it then holds (R400); mwait: its word was read (R397) -/
  met : Option (Nat × Bool) := none
  /-- the wait of sy that ended in cycle `filled` - 1: a save asked for in that cycle takes it back, and it then waits for the
      restore (R28, R400) -/
  was : Option Pend := none
  /-- an error met by a stream vector, taken when it is popped: cause, faulting address and lane (R234) -/
  err : Option (Nat × Nat × Nat) := none
  deriving DecidableEq, Repr

/-- The port set of one unit of one group (R107, R108). For a variable-latency unit r is the value last removed. -/
structure Port where
  a : Row := 0
  b : Row := 0
  r : Row := 0
  aux : BitVec 128 := 0
  q : List QEntry := []
  deriving DecidableEq, Repr

/-- A fixed-latency operation whose result is still to be written (R78). -/
structure InFlight where
  unit : Nat
  hand : Bool
  due : Nat
  lanes : Mask
  val : Row
  /-- rexp also writes the b port (R170) -/
  bval : Option Row := none
  /-- the five IEEE flags (R41) -/
  flags : BitVec 5 := 0
  addr : BAddr := 0
  slot : Nat := 0
  issued : Nat := 0
  deriving DecidableEq, Repr

/-- The active stream of an sp unit (R226). -/
structure Stream where
  active : Bool := false
  set : Nat := 0
  words : Tbl (BitVec 32) := []
  pos : Nat := 0
  /-- the place of its spstart in program order (R235) -/
  seq : Nat := 0
  /-- it was started in handler mode (R366) -/
  priv : Bool := false
  lanes : Mask := 0
  /-- vectors pushed and not yet written -/
  unwritten : List Access := []
  flt : Bool := false
  deriving DecidableEq, Repr

/-- A fault that stopped a slot (R370). -/
structure SlotFault where
  slot : Nat
  cause : Nat
  fva : Nat := 0
  lane : Nat := 0
  deriving DecidableEq, Repr

/-- What the br move of a bundle does at its end (R175, R177). -/
inductive BrAct where
  | goto (target : BAddr)
  | call (target : BAddr)
  | ret
  | loopi (n : BitVec 28)
  | loop (n : BitVec 28) (stg : BitVec 3) (lanes : Mask)
  | halt
  | yield (n : BitVec 8)
  deriving DecidableEq, Repr

/-- The bundle that a group is carrying out, slot by slot (R73). -/
structure Bundle where
  addr : BAddr := 0
  word : BitVec 256 := 0
  /-- the core cycle of its issue, and the place of its slot 0 in program order (R76, R219) -/
  at_ : Nat := 0
  seq : Nat := 0
  /-- slots still to be carried out, in the order of R73 -/
  plan : List Nat := []
  /-- the slot being carried out -/
  now : Option Nat := none
  en : Tbl Mask := []
  val : Tbl Row := []
  /-- the place in program order of the trigger that each slot started (R368) -/
  places : Tbl Nat := []
  /-- slots that completed before (re-performed bundles, R375), and unused slots -/
  done : List Nat := []
  /-- slots whose checks wait for a page walk (R369) -/
  undecided : List Nat := []
  faults : List SlotFault := []
  br : Option BrAct := none
  /-- the bundle was decoded by exec alone or was re-performed by rti: LSTEP of the record -/
  lstep : Bool := false
  trap : Option (Nat × BitVec 7) := none
  rti : Bool := false
  deriving DecidableEq, Repr

/-- A fault that waits for a bundle boundary: kinds D and B (R369). -/
structure LateFault where
  bKind : Bool
  cause : Nat
  fva : Nat
  stage : BitVec 64
  deriving DecidableEq, Repr

/-- What a fault record leaves to the return (R374, R375): the bundle's address, what its br slot does at step 3 when that slot
completed, and the places of its triggers. -/
structure Kept where
  addr : BAddr
  br : Option BrAct
  places : Tbl Nat
  deriving DecidableEq, Repr

/-- One occupied group slot (R99 to R116). -/
structure Group where
  /-- the team, by its number in the model -/
  team : Nat := 0
  gid : Nat := 0
  part : Nat := 0
  cls : Nat := 0
  age : Nat := 0
  rotate : Bool := false
  gcount : Nat := 8
  gbase : Nat := 0
  vrows : Nat := 0
  vbase : Nat := 0
  g : Tbl GRow := []
  k : Tbl (BitVec 32) := []
  q : Tbl Mask := []
  qrot : BitVec 3 := 0
  /-- the group's own port sets and the handler bank, by unit code (R70, R366) -/
  ports : Tbl Port := []
  hports : Tbl Port := []
  hmode : Bool := false
  fpstat : BitVec 32 := 0
  ferec : BitVec 64 := 0
  pwt : BitVec 64 := 0
  gacq : BitVec 64 := 0
  pc : BAddr := 0
  rstk : Tbl BAddr := []
  rsd : Nat := 0
  ltop : BAddr := 0
  lcnt : BitVec 32 := 0
  fraddr : BitVec 64 := 0
  frmask : BitVec 64 := 0
  frcause : BitVec 64 := 0
  frstage : Row := 0
  frsv : Tbl Row := []
  /-- parameter sets: key unit * 64 + set * 8 + word (R226) -/
  sets : Tbl (BitVec 32) := []
  streams : Tbl Stream := []
  pipe : List InFlight := []
  bun : Bundle := {}
  busy : Bool := false
  late : List LateFault := []
  /-- number of the next memory operation in program order (R76, R219) -/
  nseq : Nat := 0
  /-- fetch buffer: line address and bytes (R26, R345) -/
  fetch : Tbl (BitVec 512) := []
  /-- the physical line of each line of the fetch buffer (R346) -/
  flines : Tbl Nat := []
  /-- the first core cycle in which it may issue after a trap entry (R369) -/
  wake : Nat := 0
  /-- core cycles for which the group has been eligible without issuing (R27) -/
  waited : Nat := 0
  /-- cycles left of a yield, the current one included (R181) -/
  yieldLeft : Nat := 0
  yielding : Bool := false
  /-- arrivals whose release is not complete: barrier (16 is the cluster's) and place in program order (R393, R394) -/
  arrive : List (Nat × Nat) := []
  /-- the group has arrived in the current phase of the cluster barrier (R394) -/
  cbarIn : Bool := false
  /-- rel and fence: the operations before it and whether an acquire follows, with the scope (R244, R246) -/
  hold : Option (Nat × Bool × BitVec 3) := none
  /-- the same of the handler (R366) -/
  hhold : Option (Nat × Bool × BitVec 3) := none
  /-- places of acquires, and whether each is wide: a load after one comes after the loads before it (R245, R247) -/
  acquires : List (Nat × Bool) := []
  /-- places of fences: an access after one comes after those before it (R246) -/
  fences : List Nat := []
  /-- one more than the core cycle in which its last push was accepted, or 0 (R313) -/
  pushAt : Nat := 0
  ended : Bool := false
  /-- the group is being saved, or stands saved in an image (R360) -/
  saving : Bool := false
  /-- one more than the core cycle in which the save was asked for, or 0 (R28, R400) -/
  stopAt : Nat := 0
  /-- slots of a bundle that rti re-performs: FRMASK and the record (R375) -/
  redo : Bool := false
  /-- the bundle of the fault record, for the return (R374, R375) -/
  kept : Option Kept := none
  deriving DecidableEq, Repr

/-! ### A core -/

/-- A line of an L1 data cache (R194). -/
structure L1Line where
  data : BitVec 512
  fill : BitVec 64
  lease : BitVec 64
  deriving DecidableEq, Repr

/-- The state of a copy channel (R283). -/
inductive ChState where
  | idle | armed | landing | frozen | done | abandoned
  deriving DecidableEq, Repr

/-- A copy channel (R280 to R283). -/
structure Chan where
  csrc : BitVec 52 := 0
  cdst : BitVec 52 := 0
  shape : Tbl (BitVec 32) := []
  /-- the owning team -/
  own : Option Nat := none
  st : ChState := .idle
  halo : Bool := false
  ring : Option Nat := none
  fcode : Nat := 0
  side : Bool := false
  wov : Bool := false
  wls : Bool := false
  cwm : Nat := 0
  gend : Nat := 0
  clen : Nat := 0
  cseq : BitVec 64 := 0
  n : BitVec 64 := 0
  /-- the running copy: its copied template, the next element, its key and its order of acceptance -/
  rsrc : Nat := 0
  rdst : Nat := 0
  rshape : Tbl (BitVec 32) := []
  pos : Nat := 0
  /-- a physically keyed destination: physical and virtual start and length of each part (R291) -/
  phys : Option (List (Nat × Nat × Nat)) := none
  /-- the parts of such a destination whose page passed its checks at cpgo, by virtual start, with its PROP (R291) -/
  fixed : Tbl Bool := []
  part : Nat := 0
  priv : Bool := false
  order : Nat := 0
  /-- the operations of the starting group that it waits for (R250), and the tick not to start before -/
  wait : Option (Nat × Nat) := none
  minT : BitVec 64 := 0
  lastW : BitVec 64 := 0
  /-- how the watermark rose: each value with the tick in which it was reached, the last first (R252) -/
  landLog : List (Nat × BitVec 64) := []
  /-- operation numbers that CSEQ has still to reach, each with the W of its writes (R251, R282) -/
  owed : List (BitVec 64 × BitVec 64) := []
  /-- source elements read ahead of their landing, by element number (R290) -/
  ahead : Tbl Nat := []
  /-- write and read pointer of a bound ring as they stood at the start of the core's cycle (R297) -/
  wp0 : BitVec 64 := 0
  rp0 : BitVec 64 := 0
  /-- CWM as it stood at the start of the core's cycle: the compares of a cycle read it (R291, R300) -/
  cwm0 : Nat := 0
  /-- an element whose bytes are written and not yet served to every observer: the tick they are (R252) -/
  elemW : Option (BitVec 64) := none
  /-- where the freezing fault waits for its replay (R293) -/
  key : Option Key := none
  /-- the address of the freezing fault (R293, R299) -/
  fva : Nat := 0
  aborting : Bool := false
  /-- tick since which the next element may be on its way (R407) -/
  sent : BitVec 64 := 0
  /-- generation of the cluster barrier at acceptance, and whether a barrier released it (R296) -/
  bargen : BitVec 32 := 0
  released : Bool := false
  /-- free region of a ring binding at its end: from, length (R297) -/
  freeAt : Option (Nat × Nat) := none
  deriving DecidableEq, Repr

/-- One cell of a residue bank: the triples of the real and imaginary parts and NAN (R53, R199). -/
structure Cell where
  re : Nat × Nat × Nat := (0, 0, 0)
  im : Nat × Nat × Nat := (0, 0, 0)
  nan : Bool := false
  deriving DecidableEq, Repr

/-- Bank b of both cores of a pair; cell (i, j) has key 256 i + j (R199, R256). -/
structure Bank where
  owner : Option Nat := none
  full : Bool := false
  fmt : Nat := 0
  ref : Int := 0
  spanfl : Bool := false
  cells : Tbl Cell := []
  deriving DecidableEq, Repr

/-- What an operation of the matrix engine is (R258). -/
inductive MxKind where
  | pass | load | drain | save
  deriving DecidableEq, Repr

/-- An operation of the matrix engine that was issued and has not retired (R266, R269). -/
structure MxOp where
  id : Nat
  kind : MxKind
  slot : Nat
  team : Nat
  bank : Nat
  fmt : Nat := 0
  reca : BitVec 128 := 0
  recb : BitVec 128 := 0
  ia : Nat := 0
  ib : Nat := 0
  cop : BitVec 128 := 0
  depth : Nat := 0
  mode : Nat := 0
  acc : Bool := false
  t : BitVec 32 := 0
  /-- first accumulator row and number of rows of a drain -/
  row0 : Nat := 0
  rows : Nat := 0
  access : Option Access := none
  seq : Nat := 0
  started : Bool := false
  due : Nat := 0
  /-- operand data and scales of a pass as it has read them, by passKey, and the elements that met an error (R208, R279) -/
  raw : Tbl Nat := []
  badAt : List Nat := []
  /-- what the operation brings for its retirement: cells, ref, SPANFL, ALOSS, an uncorrectable operand, events -/
  res : Tbl Cell := []
  ref : Int := 0
  span : Bool := false
  aloss : Bool := false
  bad : Bool := false
  events : BitVec 4 := 0
  deriving DecidableEq, Repr

/-- An entry of a pending-launch queue or of a chainstitch segment (R309, R310), with the partition and the team of the
group that pushed it. -/
structure SegEntry where
  rcd : Nat
  ticket : BitVec 32
  canc : Bool := false
  part : Nat := 0
  parent : Option Nat := none
  /-- the pushing core -/
  pusher : Option Nat := none
  /-- its place in the pool of the die: 64 times the segment's number, and the entry's (R310) -/
  place : Nat := 0
  deriving DecidableEq, Repr

/-- Resources of a core that a group or team has freed: slots, and runs of g blocks, accumulator rows, scratchpad and operand
buffers (R23, R24, R357). -/
structure Freed where
  part : Nat
  slots : List Nat := []
  blocks : List (Nat × Nat) := []
  rows : List (Nat × Nat) := []
  spad : List (Nat × Nat) := []
  oba : List (Nat × Nat) := []
  obb : List (Nat × Nat) := []
  deriving DecidableEq, Repr

/-- A core (R17, R194 to R199, R309, R342, R384). -/
structure Core where
  groups : Tbl Group := []
  cycle : Nat := 0
  /-- slots whose groups were eligible at the start of this cycle (R26, R28) -/
  ready : List Nat := []
  /-- slot of the group that issued in this cycle -/
  issued : Option Nat := none
  /-- something that falls at the end of this cycle has come about: it issues no more (R73, R78) -/
  closed : Bool := false
  /-- a copy element has landed in this cycle: compares and stores come in the next (R291, R300) -/
  landed : Bool := false
  /-- one more than the cycle of the last bundle, or 0, for the current limit (R416) -/
  lastIssue : Nat := 0
  floor : BitVec 64 := 0
  l1 : Tbl L1Line := []
  icache : Tbl (BitVec 512) := []
  locks : List (Nat × Nat) := []
  tlb : List TlbEntry := []
  acc : Tbl Row := []
  /-- leased accumulator rows, by the engine operation that leases them (R274) -/
  leases : List (Nat × Nat) := []
  chans : Tbl Chan := []
  /-- the words that cpwm and cpstat read of each channel in this cycle: as it began (R295) -/
  shown : Tbl (BitVec 128 × BitVec 128) := []
  chanOrder : Nat := 0
  plq : List SegEntry := []
  pls : Nat := 0
  ptk : BitVec 32 := 0
  /-- PLN and PLS as the cycle began, and the pushes that its hardware entries have taken since (R450) -/
  plq0 : Nat × Nat := (0, 0)
  pushed : Nat := 0
  /-- the dispatcher has taken the head of its queue, which leaves at the end of the cycle (R450) -/
  took : Bool := false
  /-- the cycle of the last push accepted here, and its pushing core and slot as core * 16 + slot (R316) -/
  pushLast : Option (Nat × Nat) := none
  banks : Tbl Bank := []
  tl : BitVec 64 := 0
  mxflags : BitVec 9 := 0
  mxops : List MxOp := []
  mxnext : Nat := 0
  pmc : Tbl (BitVec 64) := []
  pmsel : Tbl (BitVec 32) := []
  /-- events of the current cycle, by code and partition (R385) -/
  events : List (Nat × Option Nat × Nat) := []
  frag : BitVec 32 := 0
  /-- what was freed in the current cycle: a test of the cycle does not see it yet (R357) -/
  freed : List Freed := []
  deriving DecidableEq, Repr

/-! ### A die -/

/-- A fault-buffer entry (R324, R336). -/
structure FbEntry where
  cause : Nat
  kind : Nat
  key : Key
  part : Nat
  chan : Nat
  origin : Nat
  /-- the group of the origin, or the team of the channel: team and group id -/
  team : Nat := 0
  gid : Nat := 0
  count : Nat
  va : Nat
  gtime : BitVec 64
  /-- one more than the cycle of the origin's core in which it entered, or 0 (R340) -/
  stamp : Nat := 0
  deriving DecidableEq, Repr

/-- A page walk in progress, for an access of a group: its unit, bank and place in program order (R330). -/
structure Walk where
  id : Nat
  part : Nat
  core : Nat
  slot : Nat
  unit : Nat
  hand : Bool
  seq : Nat
  /-- the slot of the bundle that triggered it, if the bundle still waits for its checks (R369) -/
  bslot : Nat
  deriving DecidableEq, Repr

/-- A record that is ready for the dispatcher (R358): its queue (none: pushed), and what to check. -/
structure Ready where
  rcd : Nat
  /-- partition of the queue or of the pushing group -/
  part : Nat
  /-- the core it was pushed to -/
  core : Option Nat := none
  /-- the host command queue it came from, and its place there; for one that the timetable released, the tick of the release and RF -/
  queue : Option Nat := none
  num : Nat := 0
  /-- the timetable released it -/
  skein : Bool := false
  /-- the team whose group pushed it, and the pushing core -/
  parent : Option Nat := none
  pusher : Option Nat := none
  /-- one more than the core cycle in which it became ready, or 0 (R358) -/
  stamp : Nat := 0
  deriving DecidableEq, Repr

/-- How the dispatcher waits (R357). -/
inductive WaitKind where
  | none | fragmentation | quota | resource
  deriving DecidableEq, Repr

/-- A record being placed by a dispatcher (R354 to R358). -/
structure Placing where
  rcd : Nat
  src : Ready
  wait : WaitKind := .none
  /-- the candidate of a fragmentation wait, and the core cycle in which the wait on it began (R357) -/
  cand : Nat := 0
  since : Nat := 0
  /-- what a quota or resource wait waits for has come about: the candidates are scanned again (R357) -/
  rescan : Bool := false
  deriving DecidableEq, Repr

/-- A hand-over of a push (R313, R424). -/
structure Handover where
  core : Nat
  ticket : BitVec 32
  rcd : Nat
  /-- the pushing group: core, slot -/
  pcore : Nat
  pslot : Nat
  part : Nat
  parent : Option Nat := none
  deriving DecidableEq, Repr

/-- A logic die (R13, R239, R324, R358, R423). -/
structure Die where
  /-- lease end of the lines that the L2 holds (R239) -/
  l2 : Tbl (BitVec 64) := []
  evle : BitVec 64 := 0
  l2tlb : List TlbEntry := []
  walks : List Walk := []
  nextWalk : Nat := 0
  fb : List FbEntry := []
  drop : Bool := false
  /-- the fault whose loss set DROP (R340) -/
  dropBy : Option FbEntry := none
  /-- faults that joined an entry in the current cycle of their cores (R340) -/
  joined : List FbEntry := []
  /-- faults that found the buffer full in the current cycle of their cores (R340) -/
  lost : List FbEntry := []
  ready : List Ready := []
  held : List Placing := []
  restore : List Nat := []
  segs : Tbl (List (List SegEntry)) := []
  hoq : List Handover := []
  /-- tickets the host has taken from the device's view (R314) -/
  taken : List (Nat × SegEntry) := []
  hcanc : List (Nat × BitVec 32) := []
  /-- writes of HLAUNCH so far: the place of each in its queue (R424) -/
  hlaunched : Nat := 0
  hstat : BitVec 2 := 0
  /-- FBSTAT: accesses still to walk, refusal of the last FBDELIV, size of S, DROP (R423) -/
  fbTodo : List Nat := []
  fbRefused : Bool := false
  fbCount : Nat := 0
  fbDrop : Bool := false
  agemon : BitVec 128 := 0
  limited : Bool := false
  deriving DecidableEq, Repr

/-! ### Work -/

/-- A launch record and its constant table, as the dispatcher read them (R307). -/
structure LaunchRec where
  entry : BitVec 64 := 0
  teams : Nat := 0
  groups : Nat := 0
  w : Nat := 1
  h : Nat := 1
  gcount : Nat := 8
  vrows : Nat := 0
  flags : BitVec 8 := 0
  cls : Nat := 0
  part : Nat := 0
  spad : Nat := 0
  oba : Nat := 0
  obb : Nat := 0
  home : Nat := 255
  hash : Nat := 0
  skein : BitVec 64 := 0
  counter : Nat := 0
  incr : BitVec 64 := 0
  target : BitVec 64 := 0
  preload : Tbl (BitVec 16) := []
  consts : List (BitVec 32) := []
  deriving DecidableEq, Repr

/-- A grid that the dispatcher knows, by its partition and record address (R25, R308, R318, R361). -/
structure Grid where
  lr : LaunchRec
  src : Ready
  die : Nat := 0
  /-- clusters placed so far, teams retired -/
  placed : Nat := 0
  retired : Nat := 0
  /-- the command queues whose LAUNCH has resumed it (R305, R361) -/
  resumedBy : List Nat := []
  /-- PREEMPT named it and no LAUNCH has resumed it (R361) -/
  preempt : Bool := false
  /-- every team has retired, in this tick: the steps of R318 are still to be done -/
  ending : Option (BitVec 64) := none
  /-- the core on which it ended and the core cycle of its end (R361) -/
  endAt : Nat × Nat := (0, 0)
  /-- the die whose Newt carried out the PREEMPT, and the cycle in which each core of the grid then was (R360, R361) -/
  preAt : Option (Nat × Tbl Nat) := none
  lastW : BitVec 64 := 0
  deriving DecidableEq, Repr

/-- A named or cluster barrier (R392). -/
structure Barrier where
  mask : BitVec 16 := 0
  gen : BitVec 32 := 0
  deriving DecidableEq, Repr

/-- A team (R19, R254, R255, R392). -/
structure Team where
  grid : Nat := 0
  teamId : Nat := 0
  cluster : Nat := 0
  cx : Nat := 0
  cy : Nat := 0
  core : Nat := 0
  part : Nat := 0
  /-- slot of each group id that has not freed its slot -/
  slots : Tbl Nat := []
  groups : Nat := 0
  endedMask : BitVec 16 := 0
  /-- accumulator rows, freed with the team (R24): first row and number -/
  rowRuns : List (Nat × Nat) := []
  spad : Nat × Nat := (0, 0)
  oba : Nat × Nat := (0, 0)
  obb : Nat × Nat := (0, 0)
  ob : Tbl (BitVec 128) := []
  cop : BitVec 128 := 0
  nb : Tbl Barrier := []
  slice : BitVec 64 := 0
  /-- the length of its slice in ticks, as its partition had it at the placement; 0: none (R351, R359) -/
  quantum : Nat := 0
  retired : Bool := false
  /-- a save that has begun: its cause (R360): 1 slice, 2 PREEMPT, 3 swap-out, 4 repair, 5 ctxsave; 0 none -/
  saveFor : Nat := 0
  /-- where its image will stand in the save area: physical address and length, and the open lengths of its sections -/
  saveAt : Option (Nat × Nat) := none
  saveLens : Nat × Nat := (0, 0)
  /-- a save that found no room and is tried again: its cause (R367) -/
  retry : Nat := 0
  deriving DecidableEq, Repr, Inhabited

/-- A cluster's barrier, by grid and cluster number (R392, R394). -/
structure ClusterBar where
  grid : Nat
  cluster : Nat
  bar : Barrier := {}
  deriving DecidableEq, Repr

/-- A saved team (R117, R360, R362): the parts of its image. -/
structure Image where
  team : Team
  tid : Nat
  /-- physical address, length, mask of live features -/
  pa : Nat := 0
  len : Nat := 0
  mask : BitVec 64 := 0
  /-- the die and the virtual address of a ctxsave, whose pages are translated as they are reached (R377) -/
  va : Option (Nat × Nat) := none
  /-- lengths of the group sections, and of the engine section before its banks; and the bytes of both (log 13) -/
  lens : Nat × Nat := (0, 0)
  soft : List Byte := []
  groups : Tbl Group := []
  rows : Tbl Row := []
  chans : Tbl Chan := []
  mxops : List MxOp := []
  /-- the banks that it holds raw -/
  banks : List Nat := []
  /-- failing units of its groups' storage: 0 accumulator rows or 1 g blocks, group id, offset (R191, log 13) -/
  bad : List (Nat × Nat × Nat) := []
  /-- whether it lies in the save area of the partition -/
  area : Bool := true
  /-- why it was saved -/
  cause : Nat := 0
  /-- the tick of its save, and the latest W of the writes that its old core was served before every other observer (R241, R243) -/
  savedAt : BitVec 64 := 0
  seenW : BitVec 64 := 0
  /-- it stands on a restore list: not so for a swapped-out parent that still waits, or a ctxsave with a[0] = 1 -/
  listed : Bool := true
  /-- the host asked for its restore (R424) -/
  hostGo : Bool := false
  /-- a restore was refused for a feature (R363) -/
  refused : Bool := false
  deriving DecidableEq, Repr, Inhabited

end Sys2Proof.Machine

namespace Sys2Proof.Config

/-- The bytes of an image in the sections whose layout is open, by what it holds and the place (log 13). -/
opaque softByte : Sys2Proof.Machine.Image → Nat → BitVec 8
/-- What bytes that no save has written hold in those sections (log 13). -/
opaque softImage : List (BitVec 8) → Sys2Proof.Machine.Image

end Sys2Proof.Config

namespace Sys2Proof.Machine

/-- A parked access that is not a fault any more when it is replayed: where it waits (R337). -/
inductive ParkRef where
  | entry (core slot unit : Nat) (hand : Bool) (seq : Nat)
  | chan (core ch : Nat)
  deriving DecidableEq, Repr

/-- An access in the parked set of a die (R337). -/
structure Parked where
  id : Nat
  die : Nat
  key : Key
  ref : ParkRef
  /-- one more than the cycle of its core in which it parked, or 0 (R340) -/
  stamp : Nat := 0
  deriving DecidableEq, Repr

/-- A write in stacked DRAM that its home does not serve to other cores before tick W (R241). -/
structure Hidden where
  die : Nat
  /-- the writing core (none: an outside agent) and the link or port it came by -/
  core : Option Nat
  via : Option Nat
  w : BitVec 64
  /-- where the leases granted until then end: max(P, E) -/
  cap : BitVec 64
  cells : List Host.Cell
  deriving DecidableEq, Repr

/-- A Skein entry (R347). -/
structure SkeinEntry where
  rcd : Nat
  part : Nat
  rf : BitVec 64
  df : BitVec 64
  /-- 0 HELD, 1 RELEASED, 2 FINISHED -/
  st : Nat
  src : Ready
  die : Nat
  lr : LaunchRec
  overrun : Bool := false
  /-- the command queues whose LAUNCH has resumed it while it was HELD (R305, R361) -/
  resumedBy : List Nat := []
  deriving DecidableEq, Repr

/-! ### Boundaries -/

/-- A memory ring whose producer is the device (R303). -/
structure DevRing where
  base : Option Nat := none
  n : Nat := 16
  pi : BitVec 64 := 0
  ci : BitVec 64 := 0
  lost : BitVec 32 := 0
  losing : Bool := false
  deriving DecidableEq, Repr

/-- A host command queue (R303, R304). -/
structure Hcq where
  base : Nat := 0
  n : Nat := 16
  pi : BitVec 64 := 0
  ci : BitVec 64 := 0
  err : BitVec 32 := 0
  enabled : Bool := false
  /-- WAITCTR: counter address and value -/
  waitctr : Option (Nat × BitVec 64) := none
  deriving DecidableEq, Repr

/-- A frame on its way into a ring: its bytes, port, rule, ring and arrival tick (R321, R408). -/
structure Frame where
  bytes : List (BitVec 8)
  port : Nat
  rule : Nat
  ring : Nat
  arrival : BitVec 64
  /-- the record is written: where it ends in bytes of WP, and the tick it is served to all -/
  landed : Option (BitVec 64 × BitVec 64) := none
  deriving DecidableEq, Repr

/-- An ingest ring (R320 to R323). -/
structure IngestRing where
  enabled : Bool := false
  rb : Nat := 0
  rs : Nat := 0
  high : Nat := 0
  rcb : Nat := 0
  part : Nat := 0
  port : Nat := 0
  prio : Nat := 0
  drops : BitVec 64 := 0
  rperr : BitVec 64 := 0
  wp : BitVec 64 := 0
  rp : BitVec 64 := 0
  paused : Bool := false
  /-- the tick of the last change of RP, and RP as that tick began: a landing in that tick uses the old one (R323) -/
  rpTick : BitVec 64 := 0
  rpOld : BitVec 64 := 0
  deriving DecidableEq, Repr

/-- An Ethernet port (R408 to R410). -/
structure EthPort where
  rules : Tbl (BitVec 64) := []
  fcserr : BitVec 64 := 0
  noMatch : BitVec 64 := 0
  frames : List Frame := []
  /-- tick of the last XOFF on each priority (R410) -/
  xoff : Tbl (BitVec 64) := []
  deriving DecidableEq, Repr

/-- A Newt core (R418, R420). -/
structure Newt where
  digest : BitVec 384 := 0
  version : BitVec 32 := 0
  /-- the schema version that its image exports (R426) -/
  schema : Nat := 0
  /-- the image in its instruction and data SRAM, as it was loaded (R418, R426) -/
  image : List Byte := []
  nhbt : BitVec 64 := 0
  committed : Bool := true
  /-- hardware mode holds after a heartbeat failure (R420) -/
  failed : Bool := false
  /-- hardware mode holds until the first heartbeat of a restored image (R430) -/
  waiting : Bool := false
  /-- the tick in which its image last started: the gap of R420 does not begin before it -/
  since : BitVec 64 := 0
  deriving DecidableEq, Repr

/-- A state record (R428). -/
structure StateRecord where
  func : Nat
  die : Nat
  schema : Nat
  body : List Byte
  digest : BitVec 384
  deriving DecidableEq, Repr

/-- A Molt in progress (R429, R430). -/
structure Molt where
  step : Nat := 0
  func : Nat := 0
  dies : BitVec 8 := 0
  die : Nat := 255
  err : BitVec 8 := 0
  ver : BitVec 32 := 0
  /-- the staged image; the retained image's digest, version and export schema, and the record -/
  image : List Byte := []
  oldDigest : BitVec 384 := 0
  oldVersion : BitVec 32 := 0
  oldSchema : Nat := 0
  oldImage : List Byte := []
  record : Option StateRecord := none
  watch : BitVec 64 := 0
  repairing : Option Nat := none
  bringup : Bool := false
  deriving DecidableEq, Repr

/-- What the package sends to the outside (R402, R404, R410). -/
inductive Output where
  | msix (link vector : Nat)
  | doorbell (link addr vector : Nat)
  | pfc (port prio quanta : Nat)
  | readData (link : Nat) (data : BitVec 64)
  | unsupported (link : Nat)
  /-- a host read that met an uncorrectable error (R191) -/
  | failed (link : Nat)
  /-- a device access to region 0x1, by the link it leaves by (R402) -/
  | hostAccess (link : Nat) (write : Bool) (addr len : Nat)
  /-- an access to another package, by the port it leaves by (R406, R425) -/
  | fabricAccess (port : Nat) (write : Bool) (addr len : Nat)
  /-- the answer to a request of another package, sent from a tick on (R406) -/
  | fabricAnswer (port : Nat) (data : BitVec 128) (tick : BitVec 64)
  deriving DecidableEq, Repr

/-- The partition table and the registers of a partition (R327, R347, R351, R367). -/
structure Partition where
  ptroot : BitVec 64 := 0
  pquota : BitVec 64 := 0
  pobq : BitVec 32 := 0
  tvec : BitVec 64 := 0
  savebase : BitVec 64 := 0
  pferr : BitVec 64 := 0
  sken : Bool := false
  skdspan : BitVec 8 := 1
  deriving DecidableEq, Repr

/-- A user-level interrupt that waits for its posting entry (R404): the record's partition and host target, and the die and
tick of the entry's W. -/
structure Notice where
  part : Nat
  target : BitVec 64
  die : Nat
  w : BitVec 64
  deriving DecidableEq, Repr

/-- A record whose status word is written and whose add, posting and interrupt are still to come (R241, R318): its status word. -/
structure Finish where
  die : Nat
  part : Nat
  rcd : Nat
  lr : LaunchRec
  word : Nat
  deriving DecidableEq, Repr

/-- Registers of the package that belong to no die (R31, R380, R388, R405, R412, R421, R425, R429, R438). -/
structure Pkg where
  capmask : BitVec 64 := 0
  gtime : Tbl (BitVec 64) := []
  gheld : Tbl Nat := []
  frame : BitVec 64 := 0
  skfper : BitVec 32 := 1000000
  skfnext : BitVec 32 := 1000000
  fbase : BitVec 64 := 0
  stall : Bool := false
  /-- this tick is one in which FRAME advances, unless it overruns (R348, R350) -/
  fdue : Bool := false
  skein : List SkeinEntry := []
  fabid : Option Nat := none
  planemap : Tbl Nat := []
  planefail : BitVec 18 := 0
  /-- remote requests already performed, by source package and sequence number, with their answers: the bytes and the
      tick from which a write is acknowledged (R406, R407) -/
  seen : List (Nat × Nat × BitVec 128 × BitVec 64) := []
  mr : Tbl (BitVec 384) := []
  bands : List (Nat × Nat) := []
  planstat : Bool := false
  clknow : Nat := 700
  /-- clock point of the mesh and L2, DRAM interface and Newt domains, MHz -/
  clkmesh : Nat := 1100
  clkdram : Nat := 2000
  clknewt : Nat := 600
  spread : Bool := true
  climit : Nat := 1450
  planPending : Bool := false
  thPending : Option Nat := none
  /-- since when the package has been below both thermal thresholds, or the last raise (R417) -/
  coolAt : BitVec 64 := 0
  power : Nat := 0
  temp : Nat := 0
  hotDie : Nat := 0
  modetab : BitVec 64 := 0
  modeHeld : List (BitVec 8) := []
  /-- requests to the management Newt that wait for the end of its Molt, oldest first, as agenda entries (R433) -/
  mgHeld : List (Nat × List Nat) := []
  /-- modes each Newt has taken up: configured bits in force, by Newt -/
  taken : Tbl (BitVec 8) := []
  nfail : BitVec 10 := 0
  /-- tick of the last update of AGEMON (R387) -/
  agemonAt : BitVec 64 := 0
  newts : Tbl Newt := []
  moltaddr : BitVec 64 := 0
  moltctl : BitVec 64 := 0
  /-- what the host has written over the images in the board's flash, by Newt (R434) -/
  flash : Tbl (List Byte) := []
  molt : Molt := {}
  qnonce : BitVec 384 := 0
  qreq : Bool := false
  qbuf : List Byte := []
  uierr : Tbl (BitVec 32) := []
  uitab : Tbl (BitVec 256) := []
  /-- user-level interrupts that wait for the W of their posting entries (R404) -/
  notices : List Notice := []
  /-- records whose add waits for a hidden write of the counter (R241, R318) -/
  finishes : List Finish := []
  /-- physical core of each logical position that is repaired (R15) -/
  repair : Tbl Nat := []
  /-- dies with more than four failed cores, which stay out of service (R15, R435) -/
  dead : BitVec 8 := 0
  deriving DecidableEq, Repr

/-! ### The whole machine -/

/-- The state of the machine. -/
structure State where
  mem : List Host.Cell := []
  hidden : List Hidden := []
  /-- failing units: first address (R191) -/
  failing : List Nat := []
  cores : Tbl Core := []
  dies : Tbl Die := []
  parts : Tbl Partition := []
  pkg : Pkg := {}
  grids : Tbl Grid := []
  teams : Tbl Team := []
  nextTeam : Nat := 1
  clusters : List ClusterBar := []
  images : List Image := []
  /-- the model's own: every image that was written, latest first, so that its bytes are known wherever they stand (log 13) -/
  archive : List Image := []
  /-- the model's own: the translations that TLBs have held since the last invalidation that covers them (R333; log 7) -/
  past : List TlbEntry := []
  parked : List Parked := []
  nextPark : Nat := 0
  hcqs : Tbl Hcq := []
  rings : Tbl DevRing := []
  ingest : Tbl IngestRing := []
  eth : Tbl EthPort := []
  out : List Output := []
  /-- the model's own: what happens next, as words with what the outside hands in (log 2) -/
  agenda : List (Nat × List Nat) := []
  /-- the model's own: the selection that the event being carried out reads (log 2) -/
  sel : List Nat := []
  /-- the model's own: the group whose bundle is being carried out (log 3) -/
  cur : Option (Nat × Nat) := none
  /-- the model's own: a counter that makes each free value a new one (log 6) -/
  fresh : Nat := 0
  deriving DecidableEq, Repr

/-- Why a step stops with a fault. The spec's own faults are next states; this is a stop of the model only. -/
inductive Fault where
  /-- raised by step: the head of the agenda is a word that names no step of the part (log 2). Safe: the part has no
      such step, so nothing it does is left out. -/
  | noSuchStep
  deriving DecidableEq, Repr

/-- Why a step has no meaning. -/
inductive Refusal where
  /-- raised by exec for an instruction that has no meaning yet. Safe: nothing is claimed of it. -/
  | notModelled (mnemonic : String)
  deriving DecidableEq, Repr

/-- CAPMASK in Tadpole service (R32). -/
def capTadpole : BitVec 64 := 0x00461192000001A1

/-- What the body of a scheduler's state record carries (R428): the segment lists of the die's cores, the cursors of its command
queues, and its pending hand-overs. -/
structure SoftState where
  segs : Tbl (List (List SegEntry))
  cursors : List (Nat × BitVec 64)
  handovers : List Handover
  deriving DecidableEq, Repr

end Sys2Proof.Machine

namespace Sys2Proof.Config

/-- The body of a state record: what it carries, in a layout of the image's own (R428, log 14). -/
opaque recordBody : Sys2Proof.Machine.SoftState → Nat → List (BitVec 8)

end Sys2Proof.Config

namespace Sys2Proof.Machine

/-- A measurement register extended by a digest (R388). -/
def extendMr (v d : BitVec 384) : BitVec 384 := Sha.hash384 (Sha.beBytes 48 v.toNat ++ Sha.beBytes 48 d.toNat)

/-- The measurement registers as the boot leaves them, by the digests of the scheduler image of die 0 and of the management image:
0 at reset, then MR0 takes the boot ROM and the management image, MR1 the scheduler image of die 0, which alone runs in Tadpole
service (R436), and MR3 the mode table and the clock-plan table; MR1 and MR2 take the other images at the bring-up (R388, log 19). -/
def bootMr (sched mgmt : BitVec 384) : Tbl (BitVec 384) :=
  [(0, [Config.romDigest, mgmt].foldl extendMr 0), (1, extendMr 0 sched),
   (3, [Config.tableDigest 0, Config.tableDigest 1].foldl extendMr 0)]

/-- A Newt that runs an image which its boot ROM has loaded, with the image's digest, version and export schema (R418, R426). -/
def bootedNewt (im : List (BitVec 8)) : Newt :=
  { digest := Sha.hash384 im, version := imageVersion im, schema := field im 12 2, image := im, committed := true }

/-- A Newt whose boot ROM has read an image: it runs only one that passes the checks of R427; with another one its functions are the
hardware's, and it writes no heartbeat (R418; the second half DESIGN CHOICE, log 14). -/
def loadedNewt (n : Nat) (im : List (BitVec 8)) : Newt :=
  if verifyErr im (newtFunc n) = 0 then bootedNewt im else { failed := true, committed := false }

/-- A Newt that has read the image of the board's flash as it was made (R418, log 14). -/
def factoryNewt (i : Nat) : Newt := loadedNewt i (Config.bootImage i)

/-- The machine right after reset and boot: memory and tables as R192, R327, R347, R351, R380 give them, the boot's images
measured (R388), Tadpole service on offer (R436). A register for which the spec gives no reset value holds what log 8 names; the
boot images and fuses are the free values of log 14. -/
def State.reset : State :=
  { pkg :=
      { capmask := capTadpole
        newts := (List.range 10).map (fun i => (i, factoryNewt i))
        planefail := BitVec.allOnes 18
        repair := Config.repairMap
        mr := bootMr (factoryNewt 0).digest (factoryNewt 8).digest }
    dies := (List.range 8).map (fun d =>
      (d, { agemon := 0xFFFFFFFF#32 ++ Config.fuseEmcnt d ++ Config.fuseRowear d })) }

end Sys2Proof.Machine
end

