-- ==== Sys2Proof/Machine/Operands.lean ====
section
/-! DEFINITION. Tables, lanes, the places of state, and the operands of a move. -/

namespace Sys2Proof.Machine

/-! ### Tables -/

/-- The entry of a key, or the default. -/
def tget {α : Type} (d : α) : Tbl α → Nat → α
  | [], _ => d
  | (k, v) :: t, n => if k = n then v else tget d t n

/-- The entry of a key, if the table lists one. -/
def tfind {α : Type} : Tbl α → Nat → Option α
  | [], _ => none
  | (k, v) :: t, n => if k = n then some v else tfind t n

/-- The table with an entry set; keys stay in rising order. -/
def tput {α : Type} : Tbl α → Nat → α → Tbl α
  | [], n, x => [(n, x)]
  | (k, v) :: t, n, x =>
    if n < k then (n, x) :: (k, v) :: t else if n = k then (n, x) :: t else (k, v) :: tput t n x

/-- The table without an entry. -/
def tdel {α : Type} : Tbl α → Nat → Tbl α
  | [], _ => []
  | (k, v) :: t, n => if k = n then tdel t n else (k, v) :: tdel t n

/-! ### Lanes -/

/-- The lanes in increasing number. -/
def lanes32 : List Nat := List.range 32

/-- The value of lane L (R105). -/
def lane (r : Row) (L : Nat) : Slice := r.extractLsb' (128 * L) 128

/-- The low n lanes of f, packed as R105 packs a row. -/
def rowNat (f : Nat → Slice) : Nat → Nat
  | 0 => 0
  | n + 1 => rowNat f n + (f n).toNat * 2 ^ (128 * n)

/-- The row whose lane L is f L. -/
def mkRow (f : Nat → Slice) : Row := BitVec.ofNat 4096 (rowNat f 32)

/-- Lane L of a g register (R100). -/
def glane (r : GRow) (L : Nat) : BitVec 32 := r.extractLsb' (32 * L) 32

/-- The low n lanes of f, packed as a g register. -/
def growNat (f : Nat → BitVec 32) : Nat → Nat
  | 0 => 0
  | n + 1 => growNat f n + (f n).toNat * 2 ^ (32 * n)

/-- The g register whose lane L is f L. -/
def mkGRow (f : Nat → BitVec 32) : GRow := BitVec.ofNat 1024 (growNat f 32)

/-- The low n lanes of f as a mask. -/
def maskNat (f : Nat → Bool) : Nat → Nat
  | 0 => 0
  | n + 1 => maskNat f n + (f n).toNat * 2 ^ n

/-- The mask whose bit L is f L. -/
def mkMask (f : Nat → Bool) : Mask := BitVec.ofNat 32 (maskNat f 32)

/-- Lanes of the mask from `new`, the others from `old` (R77). -/
def merge (m : Mask) (new old : Row) : Row := mkRow (fun L => if m.getLsbD L then lane new L else lane old L)

/-- The lowest-numbered lane of a mask (R71, R209). -/
def lowest (m : Mask) : Option Nat := lanes32.find? (fun L => m.getLsbD L)

/-- A value in every lane. -/
def splat (v : Slice) : Row := mkRow (fun _ => v)

/-- 32 bits in [31:0], zero above (R66). -/
def lo32 (v : BitVec 32) : Slice := v.setWidth 128

/-- 64 bits in [63:0], zero above. -/
def lo64 (v : BitVec 64) : Slice := v.setWidth 128

/-- The uniform value: that of the lowest-numbered enabled lane (R209). -/
def uniform (m : Mask) (r : Row) : Slice := lane r ((lowest m).getD 0)

/-- How many lanes a mask holds. -/
def maskCount (m : Mask) : Nat := (lanes32.filter (fun L => m.getLsbD L)).length

/-! ### Places of state -/

/-- A core (R14). -/
def core (s : State) (c : Nat) : Core := tget {} s.cores c

/-- The state with a core replaced. -/
def setCore (s : State) (c : Nat) (k : Core) : State := { s with cores := tput s.cores c k }

/-- The state with a core changed. -/
def modCore (s : State) (c : Nat) (f : Core → Core) : State := setCore s c (f (core s c))

/-- The group of an occupied slot. -/
def group? (s : State) (c sl : Nat) : Option Group := tfind (core s c).groups sl

/-- The group of a slot; a free slot reads as an empty group. -/
def group (s : State) (c sl : Nat) : Group := tget {} (core s c).groups sl

/-- The state with a group replaced. -/
def setGroup (s : State) (c sl : Nat) (g : Group) : State :=
  modCore s c (fun k => { k with groups := tput k.groups sl g })

/-- The state with a group changed. -/
def modGroup (s : State) (c sl : Nat) (f : Group → Group) : State := setGroup s c sl (f (group s c sl))

/-- The die of a core (R14). -/
def dieOf (c : Nat) : Nat := c / 72

/-- A logic die. -/
def die (s : State) (d : Nat) : Die := tget {} s.dies d

/-- The state with a die changed. -/
def modDie (s : State) (d : Nat) (f : Die → Die) : State := { s with dies := tput s.dies d (f (die s d)) }

/-- A partition's registers. -/
def part (s : State) (p : Nat) : Partition := tget {} s.parts p

/-- The state with a partition changed. -/
def modPart (s : State) (p : Nat) (f : Partition → Partition) : State :=
  { s with parts := tput s.parts p (f (part s p)) }

/-- The state with the package registers changed. -/
def modPkg (s : State) (f : Pkg → Pkg) : State := { s with pkg := f s.pkg }

/-- A team. -/
def team (s : State) (t : Nat) : Team := tget {} s.teams t

/-- The state with a team changed. -/
def modTeam (s : State) (t : Nat) (f : Team → Team) : State := { s with teams := tput s.teams t (f (team s t)) }

/-- A grid, by the address of its record. -/
def grid (s : State) (a : Nat) : Grid := tget { lr := {}, src := { rcd := 0, part := 0 } } s.grids a

/-- The state with a grid changed. -/
def modGrid (s : State) (a : Nat) (f : Grid → Grid) : State := { s with grids := tput s.grids a (f (grid s a)) }

/-- GTIME of a die (R380); I/O dies are 8 and 9. -/
def gtime (s : State) (d : Nat) : BitVec 64 := tget 0 s.pkg.gtime d

/-- GTIME as a core reads it. -/
def coreTime (s : State) (c : Nat) : BitVec 64 := gtime s (dieOf c)

/-- The current cycle of a core. -/
def cycleOf (s : State) (c : Nat) : Nat := (core s c).cycle

/-- A fresh free choice below n (logs 6, 7). -/
def choose (s : State) (n : Nat) : Nat × State := (Config.choice s.fresh % n, { s with fresh := s.fresh + 1 })

/-- Argument i of the selection of an event; an absent one reads 0 (log 2). -/
def selAt (s : State) (i : Nat) : Nat := (s.sel[i]?).getD 0

/-- Whether a FMT bit of CAPMASK is set (R31); b counts from bit 40. -/
def fmtBit (s : State) (b : Nat) : Bool := s.pkg.capmask.getLsbD (40 + b)

/-- Whether a die is in service (R31). -/
def dieUp (s : State) (d : Nat) : Bool := s.pkg.capmask.getLsbD (8 + d)

/-- Whether a core is in service: all 72 of a die, or in Tadpole service rows 0 to 2 and columns 0 to 5 of D0 (R32). -/
def coreUp (s : State) (c : Nat) : Bool :=
  decide (c < 576) && dieUp s (dieOf c) &&
    (!s.pkg.capmask.getLsbD 39 || (decide (c % 72 / 12 < 3) && decide (c % 72 % 12 < 6)))

/-- Whether a core has cycles: in service, or on a die under repair, whose groups run until they are saved (R435). -/
def coreRuns (s : State) (c : Nat) : Bool := coreUp s c || (decide (c < 576) && s.pkg.molt.repairing == some (dieOf c))

/-- The first die in service from a die upward (R435). -/
def nextDie (s : State) (d : Nat) : Nat := (((List.range 8).map (fun i => (d + i) % 8)).find? (dieUp s)).getD d

/-- The leader of the pair that holds a core (R16). -/
def leaderOf (c : Nat) : Nat := c - c % 72 % 12 % 2

/-! ### Port sets -/

/-- Whether the handler bank serves a unit: ia0, ia1, xl, ls0 and ss (R366). -/
def bankUnit (u : Nat) : Bool := u == 4 || u == 5 || u == 10 || u == 11 || u == 21

/-- Whether the group reaches the handler bank for a unit now. -/
def inHand (g : Group) (u : Nat) : Bool := g.hmode && bankUnit u

/-- A port set of a group, by bank and unit code. -/
def portOf (g : Group) (hand : Bool) (u : Nat) : Port := tget {} (if hand then g.hports else g.ports) u

/-- The group with a port set replaced. -/
def setPort (g : Group) (hand : Bool) (u : Nat) (p : Port) : Group :=
  if hand then { g with hports := tput g.hports u p } else { g with ports := tput g.ports u p }

/-- The port set that the group's moves reach (R366). -/
def port (g : Group) (u : Nat) : Port := portOf g (inHand g u) u

/-- The group with the port set that its moves reach changed. -/
def modPort (g : Group) (u : Nat) (f : Port → Port) : Group := setPort g (inHand g u) u (f (port g u))

/-! ### Register files -/

/-- The physical predicate that a name selects (R103). -/
def physQ (g : Group) (i : Nat) : Nat := if i < 8 then i else 8 + (i - 8 + g.qrot.toNat) % 8

/-- A physical predicate; q0 reads 1 in every lane (R102). -/
def readPhysQ (g : Group) (i : Nat) : Mask := if i = 0 then BitVec.allOnes 32 else tget 0 g.q i

/-- A predicate by name. -/
def readQ (g : Group) (i : Nat) : Mask := readPhysQ g (physQ g i)

/-- The lanes a guard enables (R64). -/
def guardMask (g : Group) (src : Src) : Mask :=
  if src.ginv then ~~~(readQ g src.gq.toNat) else readQ g src.gq.toNat

/-- The word of an immediate (R69). -/
def immWord (sel : BitVec 10) : BitVec 32 :=
  let v : BitVec 8 := sel.extractLsb' 2 8
  match (sel.extractLsb' 0 2).toNat with
  | 0 => v.setWidth 32
  | 1 => v.signExtend 32
  | 2 => (v.setWidth 32) <<< 8
  | _ => v ++ v ++ v ++ v

/-- Whether a unit has a variable-latency result port (R17). -/
def varUnit (u : Nat) : Bool := decide (11 ≤ u ∧ u ≤ 22 ∧ u ≠ 19)

/-- A lane constant (R68). -/
def laneConst (s : State) (c sl : Nat) (g : Group) (pc : BAddr) (sel L : Nat) : BitVec 32 :=
  let t := team s g.team
  let r := (grid s t.grid).lr
  match sel with
  | 0 => BitVec.ofNat 32 L
  | 1 => BitVec.ofNat 32 g.gid
  | 2 => BitVec.ofNat 32 t.teamId
  | 3 => BitVec.ofNat 32 t.cluster
  | 4 => BitVec.ofNat 32 t.cx
  | 5 => BitVec.ofNat 32 t.cy
  | 6 => BitVec.ofNat 32 c
  | 7 => BitVec.ofNat 32 (dieOf c)
  | 8 => BitVec.ofNat 32 (c % 72)
  | 9 => BitVec.ofNat 32 r.groups
  | 10 => BitVec.ofNat 32 r.teams
  | 11 => BitVec.ofNat 32 r.w
  | 12 => BitVec.ofNat 32 r.h
  | 13 => BitVec.ofNat 32 sl
  | 14 => BitVec.ofNat 32 (2 ^ L)
  | 15 => BitVec.ofNat 32 g.part
  | 16 => pc.setWidth 32
  | _ => 0

/-- What the r port of a unit gives: the head of its queue, whose disabled lanes hold the value removed before it (R108),
or for a fixed-latency unit the register r. Of an empty queue it is the value removed last: DESIGN CHOICE (log 49), for the value
that checks 2 and 4 of R80 and R154 use of an operand latched from such a port, before check 6 faults. -/
def headVal (u : Nat) (p : Port) : Row :=
  if varUnit u then (match p.q with | [] => p.r | e :: _ => merge (~~~e.dis) e.val p.r) else p.r

/-- The value of a source in every lane, as it stands now (R66). -/
def readSrc (s : State) (c sl : Nat) (g : Group) (pc : BAddr) (src : Src) : Row :=
  let i := (src.ssel.extractLsb' 0 8).toNat
  match src.scls.toNat with
  | 0 =>
    match (src.ssel.extractLsb' 8 2).toNat with
    | 0 => mkRow (fun L => lo32 (glane (tget 0 g.g i) L))
    | 1 => tget 0 (core s c).acc (g.vbase + i)
    | 2 => splat (lo32 (tget 0 g.k i))
    | _ => mkRow (fun L => if (readQ g i).getLsbD L then 1 else 0)
  | 1 =>
    let u := (src.ssel.extractLsb' 5 5).toNat
    let p := port g u
    match (src.ssel.extractLsb' 3 2).toNat with
    | 0 => headVal u p
    | 1 => p.a
    | 2 => p.b
    | _ => splat p.aux
  | 2 => let w := immWord src.ssel; splat (w ++ w ++ w ++ w)
  | _ => mkRow (fun L => lo32 (laneConst s c sl g pc src.ssel.toNat L))

/-- The unit whose result port a source reads, if it is the r port of a variable-latency unit (R67). -/
def readsQueue (src : Src) : Option Nat :=
  let u := (src.ssel.extractLsb' 5 5).toNat
  if src.scls = 1 ∧ src.ssel.extractLsb' 3 2 = 0 ∧ varUnit u then some u else none

end Sys2Proof.Machine
end

