-- ==== Sys2Proof/Machine/Ops.lean ====
section
/-! DEFINITION. The named operations over memory, queues and groups, and taking an exception and its return. -/

namespace Sys2Proof.Machine

/-! ### Bytes of memory (R4, R192) -/

/-- The byte at an address; an unlisted address reads 0 (R192; log 5). -/
def memByte : List Host.Cell → Nat → Byte
  | [], _ => 0
  | (k, v) :: t, a => if k = a then v else memByte t a

/-- The canonical form: addresses strictly rising, no byte equal to what an unlisted address reads as. -/
def memWf : List Host.Cell → Bool
  | [] => true
  | [(_, v)] => v != 0
  | (a, v) :: (b, w) :: t => decide (a < b) && v != 0 && memWf ((b, w) :: t)

/-- The memory with one byte written; writing 0 removes the entry. -/
def memPut : List Host.Cell → Nat → Byte → List Host.Cell
  | [], a, x => if x = 0 then [] else [(a, x)]
  | (k, v) :: t, a, x =>
    if a < k then (if x = 0 then (k, v) :: t else (a, x) :: (k, v) :: t)
    else if a = k then (if x = 0 then t else (a, x) :: t)
    else (k, v) :: memPut t a x

/-- The memory with several bytes written in order. -/
def memPuts (m : List Host.Cell) (cs : List Host.Cell) : List Host.Cell :=
  cs.foldl (fun m c => memPut m c.1 c.2) m

/-- The memory without the bytes of a range: they read 0 again (R200). -/
def memClear (m : List Host.Cell) (a n : Nat) : List Host.Cell :=
  m.filter (fun c => !(decide (a ≤ c.1) && decide (c.1 < a + n)))

/-- A little-endian number from bytes (R4). -/
def leNat : List Byte → Nat
  | [] => 0
  | b :: t => b.toNat + 256 * leNat t

/-- The n bytes of a number, least significant first (R4). -/
def leBytes : Nat → Nat → List Byte
  | 0, _ => []
  | n + 1, v => BitVec.ofNat 8 v :: leBytes n (v / 256)

/-- The cells of n bytes of a number at an address. -/
def leCells (a n v : Nat) : List Host.Cell := (leBytes n v).zipIdx.map (fun p => (a + p.2, p.1))

/-! ### The physical map (R201, R202) -/

/-- The region of a physical address. -/
def regionOf (a : Nat) : Nat := a / 2 ^ 48

/-- Whether an address of region 0x0 is populated: 36 GiB a die, less the firmware reserve at the top of D0 (R201, R428),
and only die 0 in Tadpole service (R436). -/
def dramOk (s : State) (a : Nat) : Bool :=
  decide (a < 2 ^ 39) && decide (a % 2 ^ 36 < 36 * 2 ^ 30) &&
    !(decide (a < 2 ^ 36) && decide (36 * 2 ^ 30 - 2 ^ 28 ≤ a)) &&
    (!s.pkg.capmask.getLsbD 39 || decide (a < 2 ^ 36))

/-- The core and offset of a core window address (R202). -/
def windowOf (a : Nat) : Option (Nat × Nat) :=
  if regionOf a = 8 ∧ a % 2 ^ 48 < 576 * 2 ^ 22 then some (a % 2 ^ 48 / 2 ^ 22, a % 2 ^ 22) else none

/-- The first address of a core's window. -/
def windowBase (c : Nat) : Nat := 8 * 2 ^ 48 + c * 2 ^ 22

/-- The memory that an offset of a core window reaches. -/
inductive Onchip where
  | spad | oba | obb | acc | gregs | none
  deriving DecidableEq, Repr

/-- Offsets of a core window (R202). -/
def onchipOf (off : Nat) : Onchip :=
  if off < 0x80000 then .spad
  else if off < 0x90000 then .oba
  else if off < 0xA0000 then .obb
  else if 0xC0000 ≤ off ∧ off < 0x100000 then .acc
  else if 0x100000 ≤ off ∧ off < 0x120000 then .gregs
  else .none

/-- The local number of a fabric window's package and offset (R405). -/
def fabricOf (a : Nat) : Option (Nat × Nat) :=
  if regionOf a = 2 then some (a % 2 ^ 48 / 2 ^ 40, a % 2 ^ 40) else none

/-- Whether the fabric address reaches this package itself (R405). -/
def fabricLocal (s : State) (a : Nat) : Option Nat :=
  match fabricOf a, s.pkg.fabid with
  | some (i, off), some id => if i = id ∧ off < 2 ^ 39 then some off else none
  | _, _ => none

/-- Whether an address is another package's (R405). -/
def remoteAt (s : State) (a : Nat) : Bool := regionOf a == 2 && (fabricLocal s a).isNone

/-- Where an address is performed, and whether it came through the package's own fabric window: uncached, at the home of the
stacked DRAM that it reaches (R405). -/
def homePa (s : State) (a : Nat) : Nat × Bool :=
  match fabricLocal s a with | some off => (off, true) | none => (a, false)

/-- Whether an access exists (R201, R202, R405). -/
def physOk (s : State) (a : Nat) : Bool :=
  match regionOf a with
  | 0 => dramOk s a
  | 1 => true
  | 2 =>
    match fabricOf a, s.pkg.fabid with
    | some (i, off), some id => decide (i < 192) && decide (off < 2 ^ 39) && (i != id || dramOk s off)
    | _, _ => false
  | 8 => match windowOf a with | some (_, off) => onchipOf off != .none | none => false
  | _ => false

/-- The first byte of a team's allocation in the aperture part p: 0 scratchpad, 1 operand buffer A, 2 B (R205). -/
def teamRange (t : Team) (p : Nat) : Nat × Nat :=
  match p with
  | 0 => (windowBase t.core + t.spad.1 * 256, t.spad.2 * 256)
  | 1 => (windowBase t.core + 0x80000 + t.oba.1 * 256, t.oba.2 * 256)
  | _ => (windowBase t.core + 0x90000 + t.obb.1 * 256, t.obb.2 * 256)

/-- Whether a resident team's allocation holds the byte (R202). -/
def heldByTeam (s : State) (a : Nat) : Bool :=
  s.teams.any (fun p => (List.range 3).any (fun i =>
    let r := teamRange p.2 i
    decide (r.1 ≤ a) && decide (a < r.1 + r.2)))

/-- The resident group whose window holds an accumulator row (R104, R202). -/
def rowHeld (s : State) (c row : Nat) : Bool :=
  (core s c).groups.any (fun p => decide (p.2.vbase ≤ row) && decide (row < p.2.vbase + p.2.vrows))

/-- The slot and register that a g block and place name (R100, R202). -/
def gregHeld (s : State) (c blk j : Nat) : Option (Nat × Nat) :=
  ((List.range 16).find? (fun sl => match group? s c sl with
    | some g => decide (g.gbase ≤ blk) && decide (blk < g.gbase + g.gcount / 8)
    | none => false)).map (fun sl => (sl, 8 * (blk - (group s c sl).gbase) + j))

/-! ### Reads and writes of bytes (R193, R239 to R241) -/

/-- Whether the tick of a hidden write is reached at its home. -/
def reached (s : State) (h : Hidden) : Bool := decide (h.w.toNat ≤ (gtime s h.die).toNat)

/-- The hidden writes, each with whether it is served to a viewer: to the writing core at once, to every other from W, and of the
writes over one link or port none before an earlier one, `late` being the links and ports of those not reached (R241). -/
def servedFrom (s : State) (viewer : Option Nat) (late : List (Option Nat)) : List Hidden → List (Hidden × Bool)
  | [] => []
  | h :: t =>
    (h, (h.core.isSome && h.core == viewer) || (reached s h && (h.via.isNone || !late.contains h.via))) ::
      servedFrom s viewer (if reached s h then late else h.via :: late) t

/-- The hidden writes of the machine, each with whether it is served to a viewer (R241). -/
def servedNow (s : State) (viewer : Option Nat) : List (Hidden × Bool) := servedFrom s viewer [] s.hidden

/-- The writes that a viewer is not served yet. -/
def unserved (s : State) (viewer : Option Nat) : List Hidden := ((servedNow s viewer).filter (fun x => !x.2)).map (·.1)

/-- The byte of an address among the cells of a write. -/
def cellFind (cs : List Host.Cell) (a : Nat) : Option Byte := (cs.reverse.find? (fun c => c.1 == a)).map (·.2)

/-- The byte of stacked DRAM that its home serves to a viewer now. -/
def homeByte (s : State) (viewer : Option Nat) (a : Nat) : Byte :=
  (servedNow s viewer).foldl (fun acc h => if h.2 then (cellFind h.1.cells a).getD acc else acc) (memByte s.mem a)

/-- Whether a byte holds a write that is still hidden (R241). -/
def hiddenAt (s : State) (a : Nat) : Bool :=
  (unserved s none).any (fun h => (cellFind h.cells a).isSome)

/-- The byte at a physical address as a viewer reads it at the memory itself. -/
def physByte (s : State) (viewer : Option Nat) (a : Nat) : Byte :=
  match regionOf a with
  | 0 => homeByte s viewer a
  | 1 => memByte s.mem a
  | 2 =>
    match fabricLocal s a with
    | some off => homeByte s viewer off
    | none => Config.remoteByte s.fresh a
  | 8 =>
    match windowOf a with
    | none => 0
    | some (c, off) =>
      match onchipOf off with
      | .acc =>
        let row := (off - 0xC0000) / 512
        if rowHeld s c row then (tget 0 (core s c).acc row).extractLsb' (8 * (off % 512)) 8 else 0
      | .gregs =>
        match gregHeld s c ((off - 0x100000) / 1024) (off % 1024 / 128) with
        | some (sl, r) => (tget 0 (group s c sl).g r).extractLsb' (8 * (off % 128)) 8
        | none => 0
      | .none => 0
      | _ => if heldByTeam s a then memByte s.mem a else 0
  | _ => 0

/-- A row or register with one byte replaced. -/
def putByte {n : Nat} (v : BitVec n) (i : Nat) (b : Byte) : BitVec n :=
  (v &&& ~~~((0xFF#n) <<< (8 * i))) ||| ((b.setWidth n) <<< (8 * i))

/-- One byte written at a physical address with effect now. A window byte that nobody holds is dropped (R202). -/
def writeByte (s : State) (a : Nat) (b : Byte) : State :=
  match regionOf a with
  | 0 => { s with mem := memPut s.mem a b }
  | 1 => { s with mem := memPut s.mem a b }
  | 2 =>
    match fabricLocal s a with
    | some off => { s with mem := memPut s.mem off b }
    | none => s
  | 8 =>
    match windowOf a with
    | none => s
    | some (c, off) =>
      match onchipOf off with
      | .acc =>
        let row := (off - 0xC0000) / 512
        if rowHeld s c row then
          modCore s c (fun k => { k with acc := tput k.acc row (putByte (tget 0 k.acc row) (off % 512) b) })
        else s
      | .gregs =>
        match gregHeld s c ((off - 0x100000) / 1024) (off % 1024 / 128) with
        | some (sl, r) => modGroup s c sl (fun g => { g with g := tput g.g r (putByte (tget 0 g.g r) (off % 128) b) })
        | none => s
      | .none => s
      | _ => if heldByTeam s a then { s with mem := memPut s.mem a b } else s
  | _ => s

/-- Several bytes written with effect now. -/
def writeCells (s : State) (cs : List Host.Cell) : State := cs.foldl (fun s c => writeByte s c.1 c.2) s

/-- n bytes read at a physical address, as a number. -/
def physRead (s : State) (viewer : Option Nat) (a n : Nat) : Nat :=
  leNat ((List.range n).map (fun i => physByte s viewer (a + i)))

/-! ### Errors (R191) -/

/-- The unit of correction that holds a byte: its first address and size. -/
def unitAt (a : Nat) : Nat × Nat := if regionOf a = 0 then (a / 8 * 8, 8) else (a / 16 * 16, 16)

/-- Whether a read of the bytes meets an uncorrectable error. -/
def failingAt (s : State) (a n : Nat) : Bool :=
  (List.range n).any (fun i => s.failing.contains (unitAt (a + i)).1)

/-- A write clears the errors of the units that it covers whole. -/
def clearErrors (s : State) (cs : List Host.Cell) : State :=
  { s with failing := s.failing.filter (fun u =>
      !((List.range (unitAt u).2).all (fun i => (cellFind cs (u + i)).isSome))) }

/-- The first address of an accumulator row in the window of its core (R202). -/
def rowAddr (c row : Nat) : Nat := windowBase c + 0xC0000 + row * 512

/-- The first address of register i of a group in the window of its core (R202). -/
def gregAddr (c gbase i : Nat) : Nat := windowBase c + 0x100000 + (gbase + i / 8) * 1024 + i % 8 * 128

/-- Units of a row or register at `base`, w bytes in each lane, that the enabled lanes cover whole lose their errors (R191). -/
def clearLanes (s : State) (base w : Nat) (m : Mask) : State :=
  { s with failing := s.failing.filter (fun u =>
      !(decide (base ≤ u) && decide (u < base + 32 * w) && (List.range (16 / w)).all (fun j => m.getLsbD ((u - base) / w + j)))) }

/-- Slices of an accumulator row written whole lose their errors (R191). -/
def clearSlices (s : State) (c row : Nat) (m : Mask) : State := clearLanes s (rowAddr c row) 16 m

/-! ### Leases and completion times (R239 to R241) -/

/-- The lengths of leases, in ticks (R206). -/
def leaseLen (c : BitVec 3) : Nat :=
  match c.toNat with
  | 0 => 2048 | 1 => 0 | 2 => 256 | 3 => 512 | 4 => 1024 | 5 => 4096 | 6 => 16384 | _ => 65536

/-- The die whose stacked DRAM holds an address (R201). -/
def homeDie (a : Nat) : Nat := a % 2 ^ 39 / 2 ^ 36

/-- The lease record of a line (R239). -/
def leaseOf (s : State) (line : Nat) : BitVec 64 :=
  let d := die s (homeDie (line * 64))
  tget d.evle d.l2 line

/-- The larger of two times. -/
def tmax (a b : BitVec 64) : BitVec 64 := if a.toNat < b.toNat then b else a

/-- The lines of an L2: 48 MiB (R2, R193). -/
def l2Lines : Nat := 786432

/-- Line number v of an L2 evicted, if there is one: its lease end goes to EVLE (R239). -/
def l2Evict (v : Nat) (x : Die) : Die :=
  match x.l2[v]? with
  | some (ln, end_) => { x with l2 := tdel x.l2 ln, evle := tmax x.evle end_ }
  | none => x

/-- A line comes into the L2 of its home, or is there: by a read, a write, or a lease that ends at e (R193, R239). A full L2
evicts a line for it, and any fill may evict one: which is open (log 7). -/
def l2Fill (s : State) (line : Nat) (e : BitVec 64) : State :=
  let (v, s) := choose s (2 ^ 64)
  modDie s (homeDie (line * 64)) (fun x =>
    let y := { x with l2 := tput x.l2 line (tmax (tget x.evle x.l2 line) e) }
    l2Evict (if l2Lines < y.l2.length then v % y.l2.length else v) y)

/-- The different values of a list, in order. -/
def distinct (l : List Nat) : List Nat := l.foldl (fun acc x => if acc.contains x then acc else acc ++ [x]) []

/-- A core's L1 takes the new bytes of its own store, atomic or landing (R212, R240). -/
def l1Update (s : State) (c : Nat) (cs : List Host.Cell) : State :=
  modCore s c (fun k => { k with l1 := k.l1.map (fun p =>
    (p.1, { p.2 with data := cs.foldl (fun d x => if x.1 / 64 = p.1 then putByte d (x.1 % 64) x.2 else d) p.2.data })) })

/-- A write of bytes of one line of stacked DRAM: the state and W (R241). A later write of a byte supersedes an earlier
one that would be revealed after it. -/
def lineWrite (s : State) (c : Option Nat) (via : Option Nat) (prop : Bool) (line : Nat) (cs : List Host.Cell) :
    State × BitVec 64 :=
  let d := homeDie (line * 64)
  let m := tmax (gtime s d) (leaseOf s line)
  let s := l2Fill s line 0
  if prop then
    ({ s with
        mem := memPuts s.mem cs
        hidden := s.hidden.map (fun h => { h with cells := h.cells.filter (fun x => (cellFind cs x.1).isNone) }) }, m)
  else
    let w := m + 2
    let before := s.hidden.foldl (fun t h => if via.isSome && h.via == via then tmax t h.w else t) w
    let older := s.hidden.map (fun h =>
      if before.toNat < h.w.toNat then { h with cells := h.cells.filter (fun x => (cellFind cs x.1).isNone) } else h)
    ({ s with hidden := older ++ [{ die := d, core := c, via := via, w := before, cap := m, cells := cs }] }, w)

/-! ### What leaves the package (R402, R406, R425) -/

/-- What the package sends out. -/
def emit (s : State) (o : Output) : State := { s with out := s.out ++ [o] }

/-- The link of a die's nearer I/O die: X0 carries link 0, X1 link 1 (R402). -/
def deviceLink (d : Nat) : Nat := if [0, 1, 4, 5].contains d then 0 else 1

/-- The home plane of a line of another package: its index and line address bits [15:6] (R425). -/
def homePlane (a : Nat) : Nat :=
  match fabricOf a with | some (i, off) => (i + off / 64 % 2 ^ 10) % 18 | none => 0

/-- The port of a home plane (R425). -/
def planePort (s : State) (p : Nat) : Nat := tget p s.pkg.planemap p

/-- Whether an address of another package lies on a plane whose port is down: a request for it gets no answer (R407). -/
def planeDown (s : State) (a : Nat) : Bool := remoteAt s a && (s.pkg.planefail.getLsbD (planePort s (homePlane a)))

/-- An access of a die that leaves the package: to host memory by the link of the nearer I/O die, to another package by the port
of its line's home plane (R402, R406). -/
def sendOut (s : State) (d : Nat) (write : Bool) (a n : Nat) : State :=
  if regionOf a = 1 then emit s (.hostAccess (deviceLink d) write (a % 2 ^ 48) n)
  else if remoteAt s a then emit s (.fabricAccess (planePort s (homePlane a)) write a n)
  else s

/-- The lines of a write that leave the package. -/
def sendLines (s : State) (d : Nat) (cs : List Host.Cell) : State :=
  (distinct (cs.map (·.1 / 64))).foldl (fun s line =>
    match cs.filter (fun x => x.1 / 64 == line) with
    | [] => s
    | x :: xs => sendOut s d true x.1 (xs.length + 1)) s

/-- A port. -/
def eth (s : State) (p : Nat) : EthPort := tget {} s.eth p

/-- A port changed. -/
def modEth (s : State) (p : Nat) (f : EthPort → EthPort) : State := { s with eth := tput s.eth p (f (eth s p)) }

/-- GTIME at a port: ports 0 to 7 lie on X0, the others on X1 (R408). -/
def portTime (s : State) (p : Nat) : BitVec 64 := gtime s (8 + p / 8)

/-- Whether a ring pauses a priority: its own, and that of every valid rule of its port that names it (R322, R409; DEDUCED,
log 29). -/
def pauses (s : State) (i : Nat) (r : IngestRing) (prio : Nat) : Bool :=
  r.enabled && r.paused && (r.prio == prio || (eth s r.port).rules.any (fun q =>
    q.2.getLsbD 63 && (q.2.extractLsb' 0 10).toNat == i && (q.2.extractLsb' 13 3).toNat == prio))

/-- Whether a port pauses a priority (R410). -/
def pausing (s : State) (port prio : Nat) : Bool := s.ingest.any (fun q => q.2.port == port && pauses s q.1 q.2 prio)

/-- A port sends XOFF on a priority (R410). -/
def sendXoff (s : State) (p k : Nat) : State :=
  modEth (emit s (.pfc p k 0xFFFF)) p (fun x => { x with xoff := tput x.xoff k (portTime s p) })

/-- The XOFF and XON frames that a port sends as its paused priorities change (R410). -/
def pauseFrames (old new : State) (port : Nat) : State :=
  (List.range 8).foldl (fun s k =>
    match pausing old port k, pausing new port k with
    | false, true => sendXoff s port k
    | true, false => emit s (.pfc port k 0)
    | _, _ => s) new

/-- The port of an enabled ring reads RP at its home when it has been written: it takes a good value, and counts another one (R323).
A word that meets an uncorrectable error is neither taken nor counted (DESIGN CHOICE, log 53). -/
def ringSee (s : State) (i : Nat) (r : IngestRing) : State :=
  let v : BitVec 64 := BitVec.ofNat 64 (physRead s none (r.rcb + 8) 8)
  if !r.enabled || v == r.rp || failingAt s (r.rcb + 8) 8 then s
  else if v.toNat % 64 = 0 ∧ r.rp.toNat ≤ v.toNat ∧ v.toNat ≤ r.wp.toNat then
    let free := r.rs - (r.wp.toNat - v.toNat)
    let now := gtime s (8 + r.port / 8)
    pauseFrames s { s with ingest := tput s.ingest i { r with
        rp := v, rpTick := now, rpOld := if r.rpTick = now then r.rpOld else r.rp, paused := r.paused && decide (free < r.high + 65536) } }
      r.port
  else { s with ingest := tput s.ingest i { r with rperr := r.rperr + 1 } }

/-- Whether cells hold a byte of a ring's RP. -/
def storesRp (r : IngestRing) (cs : List Host.Cell) : Bool :=
  cs.any (fun x => decide (r.rcb + 8 ≤ x.1) && decide (x.1 < r.rcb + 16))

/-- A software store to the read pointer of a ring, once the port sees it (R323). -/
def ringLook (s : State) (cs : List Host.Cell) : State :=
  s.ingest.foldl (fun s p => if storesRp p.2 cs then ringSee s p.1 p.2 else s) s

/-- A write performed at its home or memory by a core (or an outside agent, by its link or port): the state and W, the
latest of its lines (R220, R241). `d` is the die whose GTIME counts for memories without leases. -/
def performWrite (s : State) (c : Option Nat) (via : Option Nat) (d : Nat) (prop : Bool) (cs : List Host.Cell) :
    State × BitVec 64 :=
  let cs := cs.map (fun x => (match fabricLocal s x.1 with | some off => off | none => x.1, x.2))
  let s := clearErrors s cs
  let dram := cs.filter (fun x => regionOf x.1 == 0)
  let rest := cs.filter (fun x => regionOf x.1 != 0)
  let s := match c with | some k => l1Update s k dram | none => s
  let w0 : BitVec 64 := if rest.isEmpty then 0 else gtime s d -- DESIGN CHOICE (log 53): the die of the writer, wherever the memory lies
  let s := writeCells (sendLines s d rest) rest
  let (s, w) := (distinct (dram.map (·.1 / 64))).foldl
    (fun p line =>
      let (s', w') := lineWrite p.1 c via prop line (dram.filter (fun x => x.1 / 64 == line))
      (s', tmax p.2 w')) (s, w0)
  (if prop then ringLook s cs else s, w)

/-- The hidden writes without one of them, whose bytes are served from now on: writes of these bytes that were performed before it
stand under it (R240, R241). -/
def unhide (h : Hidden) : List Hidden → List Hidden
  | [] => []
  | x :: t =>
    if x = h then t else { x with cells := x.cells.filter (fun y => (cellFind h.cells y.1).isNone) } :: unhide h t

/-- A write whose W is reached stops being hidden (R241). -/
def reveal (s : State) (h : Hidden) : State :=
  ringLook { s with mem := memPuts s.mem h.cells, hidden := unhide h s.hidden } h.cells

/-- The first write of a die whose W is reached stops being hidden (R241). -/
def revealOne (s : State) (d : Nat) : State :=
  match (servedNow s none).find? (fun h => h.1.die == d && h.2) with
  | none => s
  | some h => reveal s h.1

/-- The ports see every store to an RP that is served at the start of a tick, and a landing of the tick uses what they find
(R323). -/
def ringTick (s : State) : State :=
  let s := ((servedNow s none).filter (fun h => h.2 && s.ingest.any (fun p => storesRp p.2 h.1.cells))).foldl (fun s h => reveal s h.1) s
  { s with ingest := s.ingest.map (fun p => (p.1, { p.2 with rpOld := p.2.rp })) }

/-! ### The L1 (R194, R239) -/

/-- Whether a line of a core's L1 is valid (R194). -/
def l1Valid (s : State) (c : Nat) (l : L1Line) : Bool :=
  decide ((coreTime s c).toNat < l.lease.toNat) && decide ((core s c).floor.toNat ≤ l.fill.toNat)

/-- The 64 bytes of a line as its home serves them to a core. -/
def homeLine (s : State) (viewer : Option Nat) (line : Nat) : BitVec 512 :=
  BitVec.ofNat 512 (physRead s viewer (line * 64) 64)

/-- A performance event of a core (R385): code, partition, count. -/
def countEvent (s : State) (c ev : Nat) (p : Option Nat) (n : Nat) : State :=
  modCore s c (fun k => { k with events := (ev, p, n) :: k.events })

/-- A read of n bytes of stacked DRAM through a core's L1 (R194, R239, R241): the state and the value. A line that holds an
uncorrectable error is not kept (R191). -/
def l1Read (s : State) (c : Nat) (p : Option Nat) (attr : Attr) (a n : Nat) : State × Nat :=
  let line := a / 64
  let pick (d : BitVec 512) : Nat := d.toNat / 2 ^ (8 * (a % 64)) % 2 ^ (8 * n)
  let hit := match tfind (core s c).l1 line with | some l => if l1Valid s c l then some l else none | none => none
  match hit with
  | some l => (countEvent s c 7 p 1, pick l.data)
  | none =>
    let s := countEvent s c 8 p 1
    let data := homeLine s (some c) line
    let g := gtime s (homeDie a)
    let full := g + BitVec.ofNat 64 (leaseLen attr.lease)
    let caps := ((unserved s none).filter (fun h => h.cells.any (fun x => x.1 / 64 == line))).map (·.cap)
    let e := caps.foldl (fun x y => if y.toNat < x.toNat then y else x) full
    if attr.lease = 1 || decide (e.toNat ≤ g.toNat) || failingAt s (line * 64) 64 then (l2Fill s line 0, pick data)
    else
      let s := l2Fill s line e
      let (v, s) := choose s (2 ^ 64)
      let fill := coreTime s c
      (modCore s c (fun k =>
        let rest := k.l1.filter (fun q => q.1 != line)
        let full := decide (1024 ≤ rest.length)
        let rest := rest.eraseIdx (if full then v % rest.length else v)
        { k with l1 := tput rest line { data := data, fill := fill, lease := e } }), pick data)

/-! ### Result queues (R79, R108) -/

/-- An entry appended to the queue of a unit. -/
def pushEntry (g : Group) (hand : Bool) (u : Nat) (e : QEntry) : Group :=
  let p := portOf g hand u
  setPort g hand u { p with q := p.q ++ [e] }

/-- The head of a queue removed; its value stays in r (R108). -/
def popHead (g : Group) (u : Nat) : Group :=
  modPort g u (fun p => match p.q with | [] => p | _ :: t => { p with r := headVal u p, q := t })

/-- Entry i of a queue. -/
def entryAt (g : Group) (hand : Bool) (u i : Nat) : Option QEntry := (portOf g hand u).q[i]?

/-- Entry i replaced. -/
def setEntry (g : Group) (hand : Bool) (u i : Nat) (e : QEntry) : Group :=
  let p := portOf g hand u
  setPort g hand u { p with q := p.q.set i e }

/-- Entry i removed (R222, R225). -/
def dropEntry (g : Group) (hand : Bool) (u i : Nat) : Group :=
  let p := portOf g hand u
  setPort g hand u { p with q := p.q.eraseIdx i }

/-- Whether an entry belongs to a waiting operation of sy (R390). -/
def Pend.waits : Pend → Bool
  | .bar _ | .barw _ _ | .cbar | .twait _ _ | .mwait _ _ _ | .wmwait _ _ | .sleep _ => true
  | _ => false

/-- Whether a wait has ended in the very cycle in which the save of its group was asked for: it is saved armed, and fills at the
restore (R28, R390, R400). -/
def staysArmed (g : Group) (cyc : Nat) (e : QEntry) : Bool :=
  e.pend.waits && g.saving && (e.was.isSome || g.stopAt == cyc + 1)

/-- Entry i filled with a value in a core cycle (R79), unless it stays armed for a save. -/
def fillEntry (g : Group) (cyc : Nat) (hand : Bool) (u i : Nat) (v : Row) : Group :=
  match entryAt g hand u i with
  | none => g
  | some e =>
    setEntry g hand u i
      (if staysArmed g cyc e then { e with was := some e.pend }
       else { e with val := v, pend := .full, filled := cyc + 1, was := if e.pend.waits then some e.pend else none })

/-- The entries of a port set whose waits ended in a cycle wait again: a save is asked for in that cycle (R28, R400). -/
def rearmPort (cyc : Nat) (p : Port) : Port :=
  { p with q := p.q.map (fun e => match e.was with
      | some w => if e.pend = .full ∧ e.filled = cyc + 1 then { e with pend := w } else { e with was := none }
      | none => e) }

/-- The save of a group is asked for in a cycle: what ended its waits in this cycle leaves it waiting (R28, R360, R400). -/
def askSave (cyc : Nat) (g : Group) : Group :=
  { g with
    saving := true, stopAt := cyc + 1
    ports := g.ports.map (fun x => (x.1, rearmPort cyc x.2))
    hports := g.hports.map (fun x => (x.1, rearmPort cyc x.2)) }

/-- The entries of all queues of a group: bank, unit, place, entry. -/
def allEntries (g : Group) : List (Bool × Nat × Nat × QEntry) :=
  [false, true].flatMap (fun h => (List.range 23).flatMap (fun u =>
    (portOf g h u).q.zipIdx.map (fun p => (h, u, p.2, p.1))))

/-- Whether an entry is still pending. -/
def isPending (e : QEntry) : Bool := e.pend != .full

/-- Whether the entries of a unit's queue are the vectors of a stream (R17, R230). -/
def isVector (u : Nat) : Bool := decide (13 ≤ u) && decide (u ≤ 16)

/-! ### Counters that a wait names (R391) -/

/-- The counters that a selector names. -/
inductive CtrSel where
  | cseq (ch : Nat)
  | tl | frame | gtime
  | pmc (i : Nat)
  | frag
  | bad
  deriving DecidableEq, Repr

/-- The counter of aux[7:0] (R391). -/
def ctrOf (sel : BitVec 8) : CtrSel :=
  let lo := (sel.extractLsb' 0 4).toNat
  match (sel.extractLsb' 4 4).toNat with
  | 0 => if lo < 8 then .cseq lo else .bad
  | 1 => if lo = 0 then .tl else .bad
  | 2 => if lo = 0 then .frame else .bad
  | 3 => if lo = 0 then .gtime else .bad
  | 4 => .pmc lo
  | 5 => if lo = 0 then .frag else .bad
  | _ => .bad

/-- Whether the counter wraps a channel or a pair, on which twait acquires (R251, R396). -/
def CtrSel.acquires : CtrSel → Bool
  | .cseq _ | .tl => true
  | _ => false

/-! ### Program order and releases (R219, R244) -/

/-- The place in program order of a pending store, atomic or push that a release waits for. -/
def storeSeq (e : QEntry) : Option Nat :=
  match e.pend with
  | .mem a => if a.kind == .store || a.kind == .atomic then some a.seq else none
  | _ => none

/-- Whether every store, atomic and stream push before place n has returned its W. -/
def storesDone (k : Core) (sl : Nat) (g : Group) (n : Nat) : Bool :=
  (allEntries g).all (fun x => match storeSeq x.2.2.2 with | some m => decide (n ≤ m) | none => true) &&
    g.streams.all (fun p => p.2.unwritten.all (fun a => decide (n ≤ a.seq))) &&
    k.mxops.all (fun o => o.slot != sl || o.kind != .save || decide (n ≤ o.seq))

/-- Whether the scope is wide (R217, R238). -/
def wideScope (sc : BitVec 3) : Bool := decide (3 ≤ sc.toNat)

/-- Whether a group waits at a place below n for a counter whose writes its release covers (R247). -/
def awaiting (g : Group) (n : Nat) : Bool :=
  (allEntries g).any (fun x => match x.2.2.2.pend with
    | .twait sel _ => (ctrOf sel).acquires && decide (x.2.2.2.seq < n) && x.2.2.2.was.isNone
    | _ => false)

/-- Whether the wait of R244 and R250 for the writes before place n is over. -/
def released (s : State) (c sl n : Nat) (wide : Bool) : Bool :=
  let g := group s c sl
  storesDone (core s c) sl g n && (!wide || decide (g.pwt.toNat + 2 ≤ (coreTime s c).toNat))

/-- Whether a release of a group at place n is complete: its writes (R244), and for a wide scope the counters awaited before it,
whose writes it covers (R247; DEDUCED, log 49). -/
def releaseDone (s : State) (c sl n : Nat) (wide : Bool) : Bool :=
  released s c sl n wide && !(wide && awaiting (group s c sl) n)

/-- The rel or fence that holds a group from issuing: the handler has its own (R244, R246, R366). -/
def holdOf (g : Group) : Option (Nat × Bool × BitVec 3) := if g.hmode then g.hhold else g.hold

/-- Whether no rel or fence holds a group. -/
def notHeld (g : Group) : Bool := (holdOf g).isNone

/-- The place in its group's program order of the slot that is being carried out: in the order of the slots (R76). -/
def placeOf (s : State) (c sl : Nat) : Nat := (group s c sl).bun.seq + ((group s c sl).bun.now).getD 0

/-- A W returns to a group (R111). -/
def raisePwt (s : State) (c sl : Nat) (w : BitVec 64) : State := modGroup s c sl (fun g => { g with pwt := tmax g.pwt w })

/-! ### Streams (R226 to R231) -/

/-- Whether a stream writes: DIR of wd1 (R227). -/
def streamDir (st : Stream) : Bool := (tget 0 st.words 1).getLsbD 23

/-- The element size of a stream in bytes (R227). -/
def streamEw (st : Stream) : Nat := 2 ^ ((tget 0 st.words 1).extractLsb' 20 3).toNat

/-- Elements of a stream per lane of a vector (R228). -/
def streamPer (st : Stream) : Nat := 16 / streamEw st

/-- Extent of dimension k (R227). -/
def streamXt (st : Stream) (k : Nat) : Nat :=
  let w := tget 0 st.words (2 + k / 2)
  (w.extractLsb' (16 * (k % 2)) 16).toNat + 1

/-- Dimensions in use (R227). -/
def streamNd (st : Stream) : Nat := ((tget 0 st.words 1).extractLsb' 24 2).toNat + 1

/-- The number of elements N (R228). -/
def streamN (st : Stream) : Nat := (List.range (streamNd st)).foldl (fun n k => n * streamXt st k) 1

/-- The base address (R227). -/
def streamBase (st : Stream) : Nat :=
  ((tget 0 st.words 1).extractLsb' 0 20).toNat * 2 ^ 32 + (tget 0 st.words 0).toNat

/-- The address of position j (R228). -/
def streamAddr (st : Stream) (j : Nat) : Nat :=
  let (off, _) := (List.range (streamNd st)).foldl
    (fun (p : Int × Nat) k => (p.1 + (p.2 % streamXt st k : Nat) * (tget 0 st.words (4 + k)).toInt, p.2 / streamXt st k))
    ((0 : Int), j)
  ((streamBase st + off) % 2 ^ 52).toNat

/-- The elements of the vector at a position, in the lanes of a mask (R228). -/
def streamElems (st : Stream) (pos : Nat) (m : Mask) : List Elem :=
  let p := streamPer st
  (lanes32.filter (fun L => m.getLsbD L && st.lanes.getLsbD L)).flatMap (fun L =>
    ((List.range p).filter (fun e => decide (pos + p * L + e < streamN st))).map (fun e =>
      { lane := L, off := 8 * streamEw st * e, len := streamEw st, va := streamAddr st (pos + p * L + e) }))

/-- A read stream keeps up to 8 vectors pending or full while vectors remain (R230). They carry the place of the stream's start, which
is no place of a trigger's result, and the privilege with which it was started (DESIGN CHOICE, log 53; `vectorAccess`). -/
def streamFill (g : Group) (u : Nat) : Group :=
  let st := tget {} g.streams u
  if st.active && !streamDir st then
    let q := (portOf g false u).q
    let more := (List.range 8).filterMap (fun i =>
      let pos := st.pos + 32 * streamPer st * i
      if i < q.length ∨ streamN st ≤ pos then none
      else some ({
        dis := ~~~st.lanes
        pend := .mem { kind := .streamRead, lanes := st.lanes, elems := streamElems st pos (BitVec.allOnes 32)
                       nc := (tget 0 st.words 1).getLsbD 26, seq := st.seq, part := g.part, priv := st.priv } } : QEntry))
    setPort g false u { portOf g false u with q := q ++ more }
  else g

/-- A pop advances the stream (R228, R231). DESIGN CHOICE: a stream that has come to its end stays active until it is stopped, started
anew or meets a fault (log 53). -/
def streamPop (g : Group) (u : Nat) : Group :=
  let st := tget {} g.streams u
  if st.active && !streamDir st then
    { g with streams := tput g.streams u { st with pos := st.pos + 32 * streamPer st } }
  else g

/-- The read streams of a group discard their vectors and refetch (R236). -/
def refetchStreams (g : Group) : Group :=
  g.streams.foldl (fun g p =>
    if p.2.active && !streamDir p.2 then
      streamFill (setPort g false p.1 { portOf g false p.1 with q := [] }) p.1
    else g) g

/-- An acquire of a group at a place is under way: its read streams fetch nothing that was read before it, and later loads come
after it (R217, R245, R247). A place that no pending access stands before is forgotten. -/
def markAcquire (g : Group) (n : Nat) (wide : Bool) : Group :=
  let open_ : List Nat := (allEntries g).filterMap (fun x => match x.2.2.2.pend with
    | .mem a => if a.kind = .streamRead then none else some a.seq
    | _ => none)
  refetchStreams { g with acquires := (g.acquires.filter (fun m => open_.any (fun k => decide (k < m.1)))) ++ [(n, wide)] }

/-- An acquire of a group completes: a wide one raises the core's floor and sets GACQ (R112, R217, R245). -/
def acquire (s : State) (c sl : Nat) (wide : Bool) : State :=
  let t := coreTime s c
  let s := if wide then modCore s c (fun k => { k with floor := tmax k.floor t }) else s
  modGroup s c sl (fun g => refetchStreams (if wide then { g with gacq := t } else g))

/-- A load or atomic at place n has been performed. If a wide acquire of its group stands after it, a line that came into the L1
before now is older than what the load observed, and the acquire covers it (R247; DEDUCED, log 49). -/
def acquireBehind (s : State) (c sl n : Nat) : State :=
  if (group s c sl).acquires.any (fun m => m.2 && decide (n < m.1)) then
    let t := coreTime s c
    modGroup (modCore s c (fun k => { k with floor := tmax k.floor t })) c sl (fun g => { g with gacq := t })
  else s

/-! ### Barriers of a team (R392, R393) -/

/-- The groups of a team that have not ended. -/
def liveGids (t : Team) : List Nat := (List.range t.groups).filter (fun i => !t.endedMask.getLsbD i)

/-- Whether a generation has passed the phase p of a barw (R393). -/
def barPassed (gen p : BitVec 32) : Bool := decide ((gen - p - 1).toNat < 2 ^ 31)

/-- The bar entries of a group on a barrier fill at the end of the phase, and the barw entries that the new generation has passed
(R393). -/
def fillBars (g : Group) (cyc b : Nat) (gen : BitVec 32) : Group :=
  (allEntries g).foldl (fun g x =>
    match x.2.2.2.pend with
    | .bar b' => if b' = b then fillEntry g cyc x.1 x.2.1 x.2.2.1 (splat (lo32 gen)) else g
    | .barw b' p => if b' = b ∧ barPassed gen p then fillEntry g cyc x.1 x.2.1 x.2.2.1 (splat (lo32 gen)) else g
    | _ => g) g

/-- Whether a group has a bar entry on a barrier. -/
def hasBar (g : Group) (b : Nat) : Bool :=
  (allEntries g).any (fun x => match x.2.2.2.pend with | .bar b' => b' == b | _ => false)

/-- A phase of a team's barrier completes if every group that has not ended has arrived (R393). -/
def phaseCheck (s : State) (t b : Nat) : State :=
  let tm := team s t
  let nb := tget {} tm.nb b
  if nb.mask ≠ 0 ∧ (liveGids tm).all (fun i => nb.mask.getLsbD i) then
    let gen := nb.gen + 1
    let s := modTeam s t (fun x => { x with nb := tput x.nb b { mask := 0, gen := gen } })
    tm.slots.foldl (fun s p =>
      let joined := hasBar (group s tm.core p.2) b || nb.mask.getLsbD p.1
      let s := modGroup s tm.core p.2 (fun g => fillBars g (cycleOf s tm.core) b gen)
      if joined then acquire s tm.core p.2 false else s) s
  else s

/-! ### The barrier of a cluster (R394, R296) -/

/-- The teams of a cluster, by number. -/
def clusterTeams (s : State) (g cid : Nat) : List (Nat × Team) :=
  s.teams.filter (fun p => p.2.grid == g && p.2.cluster == cid)

/-- The generation of a cluster's barrier. -/
def clusterGen (s : State) (g cid : Nat) : BitVec 32 :=
  ((s.clusters.find? (fun b => b.grid == g && b.cluster == cid)).map (fun b => b.bar.gen)).getD 0

/-- The generation of a cluster's barrier rises by 1. -/
def bumpCluster (s : State) (g cid : Nat) : State :=
  if s.clusters.any (fun b => b.grid == g && b.cluster == cid) then
    { s with clusters := s.clusters.map (fun b =>
        if b.grid = g ∧ b.cluster = cid then { b with bar := { b.bar with gen := b.bar.gen + 1 } } else b) }
  else { s with clusters := s.clusters ++ [{ grid := g, cluster := cid, bar := { gen := 1 } }] }

/-- A team has arrived: each of its groups that has not ended has (R394). -/
def teamArrived (s : State) (t : Team) : Bool :=
  (liveGids t).all (fun i => match tfind t.slots i with | some sl => (group s t.core sl).cbarIn | none => false)

/-- A halo that the previous barrier released is still running (R296). -/
def haloRunning (s : State) (ts : List (Nat × Team)) : Bool :=
  ts.any (fun p => (core s p.2.core).chans.any (fun q =>
    q.2.own == some p.1 && q.2.halo && q.2.released && (q.2.st == .landing || q.2.st == .frozen)))

/-- The armed halos of a team start reading (R296). -/
def releaseHalos (s : State) (tid : Nat) (t : Team) : State :=
  modCore s t.core (fun k => { k with chans := k.chans.map (fun q =>
    if q.2.own = some tid ∧ q.2.st = .armed then (q.1, { q.2 with st := .landing, released := true }) else q) })

/-- What a group does when the phase of its cluster's barrier completes: its cbar entries fill, and it acquires (R394). -/
def fillCbar (s : State) (c sl : Nat) (gen : BitVec 32) : State :=
  let g := group s c sl
  if g.cbarIn then
    acquire (modGroup s c sl (fun g =>
      (allEntries g).foldl (fun g x =>
        if x.2.2.2.pend = .cbar then fillEntry g (cycleOf s c) x.1 x.2.1 x.2.2.1 (splat (lo32 gen)) else g)
        { g with cbarIn := false })) c sl true
  else s

/-- The phase of the barrier of a team's cluster completes once every team has arrived and no released halo runs. -/
def clusterCheck (s : State) (tid : Nat) : State :=
  let t := team s tid
  let ts := clusterTeams s t.grid t.cluster
  let any := ts.any (fun p => p.2.slots.any (fun q => (group s p.2.core q.2).cbarIn))
  if any && ts.all (fun p => teamArrived s p.2) && !haloRunning s ts then
    let s := bumpCluster s t.grid t.cluster
    let gen := clusterGen s t.grid t.cluster
    let s := ts.foldl (fun s p => p.2.slots.foldl (fun s q => fillCbar s p.2.core q.2 gen) s) s
    ts.foldl (fun s p => releaseHalos s p.1 p.2) s
  else s

/-- A group ends: it issues nothing more, and barriers that waited for it complete (R23, R393, R400). -/
def endGroup (s : State) (c sl : Nat) : State :=
  let g := group s c sl
  let s := modGroup s c sl (fun g => { g with ended := true, busy := false, bun := {}, late := [], redo := false, hold := none, hhold := none })
  let s := modTeam s g.team (fun t => { t with endedMask := t.endedMask ||| BitVec.ofNat 16 (2 ^ g.gid) })
  clusterCheck ((List.range 16).foldl (fun s b => phaseCheck s g.team b) s) g.team

/-! ### Taking an exception and returning (R366 to R371, R375) -/

/-- A double fault: the group ends and PFERR records it (R367, R371). -/
def doubleFault (s : State) (c sl cause : Nat) (at_ : BAddr) : State :=
  let g := group s c sl
  let s := modPart s g.part (fun p =>
    let n := (p.pferr.extractLsb' 56 8).toNat
    { p with pferr := BitVec.ofNat 8 (if n < 255 then n + 1 else 255) ++ BitVec.ofNat 8 cause ++ 0#1 ++ at_ })
  endGroup s c sl

/-- The slots that a bundle uses. -/
def slotsUsed (w : BitVec 256) : Nat := min 6 (w.extractLsb' 253 3).toNat

/-- The 40 bits of slot i (R60). -/
def slotWord (w : BitVec 256) (i : Nat) : BitVec 40 := w.extractLsb' (40 * i) 40

/-- Entering the handler with a record: the double-fault rule, or HMODE := 1 and PC := TVEC (R369, R371). The entry falls in the
cycle after this decision, and the handler's first bundle in the cycle after that. -/
def enterHandler (s : State) (c sl cause : Nat) (at_ : BAddr) (rec_ : Group → Group) : State :=
  let g := group s c sl
  let tvec := (part s g.part).tvec
  if g.hmode ∨ tvec = 0 then doubleFault s c sl cause at_
  else modGroup (countEvent s c 0xD (some g.part) 1) c sl (fun g =>
    { rec_ g with
      hmode := true, pc := tvec.extractLsb' 5 47, busy := false, bun := {}, redo := false, waited := 0
      wake := cycleOf s c + 2 })

/-- FRSTAGE of a precise fault: the uniform word, and per lane which slots enabled it (R368). -/
def stageOf (u : BitVec 64) (en : Nat → Mask) : Row :=
  mkRow (fun L => BitVec.ofNat 6 (maskNat (fun i => (en i).getLsbD L) 6) ++ 0#58 ++ u)

/-- The slot's byte of FRSTAGE[47:0] (R368): DUNIT and state. -/
def stageByte (w : BitVec 256) (i st : Nat) : Nat := ((slotWord w i).extractLsb' 18 5).toNat + 32 * st

/-- A precise fault record (R368, R369): `done` are the slots that completed or completed earlier, `state i` their
states. -/
def preciseRecord (b : Bundle) (f : SlotFault) (fetch : Bool) (notDone : List Nat) (state : Nat → Nat) (lstep : Bool)
    (g : Group) : Group :=
  let used := if fetch then 0 else slotsUsed b.word
  let mask := (List.range 6).foldl (fun m i => if notDone.contains i ∨ fetch then m else m + 2 ^ i) 0
  let bytes := (List.range used).foldl (fun m i => m + stageByte b.word i (state i) * 2 ^ (8 * i)) 0
  let u := bytes + f.lane * 2 ^ 48 + (if lstep then 2 ^ 55 else 0) + (if fetch then 2 ^ 56 else 0)
  { g with
    fraddr := b.addr.setWidth 64
    frmask := BitVec.ofNat 64 mask
    frcause := BitVec.ofNat 64 (f.fva % 2 ^ 52 * 2 ^ 12 + f.slot * 2 ^ 8 + f.cause)
    frstage := stageOf (BitVec.ofNat 64 u) (fun i => if fetch ∨ used ≤ i then 0 else tget 0 b.en i)
    frsv := notDone.foldl (fun t i => match tfind b.val i with | some v => tput t i v | none => t) g.frsv }

/-- The state of a slot that completed (R368): 3 while the result of its trigger is pending, else 1. A stream vector is the result of
no trigger. -/
def doneState (g : Group) (b : Bundle) (i : Nat) : Nat :=
  if (allEntries g).any (fun x => isPending x.2.2.2 && !isVector x.2.1 && tfind b.places i == some x.2.2.2.seq) && tget 0 b.en i != 0
  then 3
  else 1

/-- What the return needs of a bundle stays with its record (R374, R375). -/
def keepBundle (b : Bundle) (g : Group) : Group := { g with kept := some { addr := b.addr, br := b.br, places := b.places } }

/-- A fault of the issue checks: no slot of the bundle completed (R80, R369). A slot that rti re-performs keeps the source
value that its record held, and the br action that waits for the return stays with the record. -/
def issueTrap (s : State) (c sl : Nat) (b : Bundle) (f : SlotFault) : State :=
  enterHandler s c sl f.cause b.addr (fun g =>
    let g := keepBundle b g
    let left := (List.range (slotsUsed b.word)).filter (fun i => !b.done.contains i)
    preciseRecord b f false left
      (fun i => if b.done.contains i then doneState g b i else if (tfind b.val i).isSome then 2 else 0) b.lstep g)

/-- A fetch fault (R341): the bundle was never read. -/
def fetchTrap (s : State) (c sl cause : Nat) : State :=
  let g := group s c sl
  enterHandler s c sl cause g.pc
    (preciseRecord { addr := g.pc } { slot := 0, cause := cause, fva := g.pc.toNat * 32 } true [] (fun _ => 0) false)

/-- Which fault of a bundle is reported: the lowest slot, and in it the lowest code, then the lowest lane (R370). -/
def worstFault (fs : List SlotFault) : Option SlotFault :=
  fs.foldl (fun o f =>
    match o with
    | none => some f
    | some x =>
      if f.slot < x.slot ∨ (f.slot = x.slot ∧ (f.cause < x.cause ∨ (f.cause = x.cause ∧ f.lane < x.lane)))
      then some f else some x) none


/-- The faults against slots of a bundle that ran: every slot that faulted is not completed (R369, R370), and so is an ss.trap
of the bundle that is not the fault reported: the return performs it again (DEDUCED, log 49). -/
def slotTrap (s : State) (c sl : Nat) (f : SlotFault) : State :=
  let g := group s c sl
  let b := g.bun
  let left := distinct (b.faults.map (·.slot) ++ (b.trap.map (·.1)).toList)
  enterHandler s c sl f.cause b.addr (fun g => keepBundle b <|
    preciseRecord b f false left (fun i => if left.contains i then 2 else doneState g b i) b.lstep g)

/-- `ss.trap` (R374): the trap's slot counts as completed, and step 2 of R177 has been performed, unless a higher slot of the
bundle faulted: that slot is not completed, and step 2 is left to the return (R177, R370; log 49). -/
def softTrap (s : State) (c sl i : Nat) (code : BitVec 7) : State :=
  let g := group s c sl
  enterHandler s c sl (0x80 + code.toNat) g.bun.addr (fun g => keepBundle g.bun <|
    let left := distinct (g.bun.faults.map (·.slot))
    preciseRecord g.bun { slot := i, cause := 0x80 + code.toNat } false left
      (fun j => if left.contains j then 2 else doneState g g.bun j) (left.isEmpty || g.bun.lstep) g)

/-- A fault of kind D or B (R369): the resumption point is the next bundle. The enable bits of FRSTAGE are written for precise
kinds only (R368). -/
def lateTrap (s : State) (c sl : Nat) (f : LateFault) : State :=
  let g := group s c sl
  enterHandler s c sl f.cause g.pc (fun g =>
    { g with
      fraddr := g.pc.setWidth 64
      frmask := 0x3F
      frcause := BitVec.ofNat 64 (f.fva % 2 ^ 52 * 2 ^ 12 + (if f.bKind then 0xF else 0xE) * 2 ^ 8 + f.cause)
      frstage := mkRow (fun L => (lane g.frstage L).extractLsb' 122 6 ++ 0#58 ++ f.stage) })

/-- A fault of kind D of a removed entry: FRSTAGE names its unit and the trigger's bundle (R368). -/
def dFault (cause fva u : Nat) (at_ : BAddr) : LateFault :=
  { bKind := false, cause := cause, fva := fva, stage := BitVec.ofNat 64 (u + at_.toNat * 256) }

/-- A fault waits for the group's next bundle boundary outside the handler (R369). -/
def postLate (s : State) (c sl : Nat) (f : LateFault) : State := modGroup s c sl (fun g => { g with late := g.late ++ [f] })

/-- A fault against the slot that is being carried out (R369). -/
def slotFault (s : State) (c sl cause fva ln : Nat) : State :=
  modGroup s c sl (fun g =>
    let i := g.bun.now.getD 0
    { g with bun := { g.bun with faults := { slot := i, cause := cause, fva := fva, lane := ln } :: g.bun.faults } })

/-- `ss.rti` (R375), at the end of its bundle: HMODE := 0, and PC := FRADDR for kinds D and B and for a fetch fault; for every other
kind the slots that did not complete are re-performed from FRADDR. -/
def returnFromTrap (s : State) (c sl : Nat) : State :=
  modGroup s c sl (fun g =>
    let kind := (g.frcause.extractLsb' 8 4).toNat
    let stage := lane g.frstage 0
    { g with
      hmode := false
      pc := g.fraddr.extractLsb' 0 47
      redo := kind != 0xE && kind != 0xF && !stage.getLsbD 56 })

end Sys2Proof.Machine
end

