-- ==== Sys2Proof/Machine/Access.lean ====
section
/-! DEFINITION. Translation, the checks of an access, parking, the watermark compare, and performing accesses. -/

namespace Sys2Proof.Machine

/-! ### Page tables and TLBs (R327 to R334) -/

/-- How a walk ends (R330). -/
inductive WalkOut where
  | leaf (e : TlbEntry)
  | absent (k : Key)
  | malformed
  | bad
  deriving DecidableEq, Repr

/-- The attributes of a page-table entry (R329). -/
def attrOf (e : BitVec 64) : Attr :=
  { lease := e.extractLsb' 57 3, prop := e.getLsbD 56, repl := e.getLsbD 55, priv := e.getLsbD 54, w := e.getLsbD 53
    x := e.getLsbD 52 }

/-- The address field of a page-table entry: bits [51:12]. -/
def pteAddr (e : BitVec 64) : Nat := (e.extractLsb' 12 40).toNat * 4096

/-- The 8-byte entry at an address as the walker reads it at home (R330). -/
def pteAt (s : State) (a : Nat) : BitVec 64 := BitVec.ofNat 64 (physRead s none a 8)

/-- A reserved bit of an entry is nonzero (R329). -/
def pteReserved (e : BitVec 64) : Bool := e.extractLsb' 60 4 != 0 || e.extractLsb' 3 9 != 0

/-- The leaf that an L0 entry gives: a 4 KiB page, or with S64 a 64 KiB page, whose translation is that of some one of its
16 entries (R331). -/
def leafL0 (s : State) (p va table : Nat) (e : BitVec 64) : WalkOut :=
  if e.getLsbD 2 then
    if (e.extractLsb' 12 4).toNat ≠ 0 then .malformed
    else
      let i := va / 4096 % 512 / 16 * 16 + Config.choice s.fresh % 16
      let o := pteAt s (table + i * 8)
      let e := if o.getLsbD 0 ∧ o.getLsbD 1 ∧ o.getLsbD 2 ∧ ¬pteReserved o ∧ (o.extractLsb' 12 4).toNat = 0 then o else e
      if failingAt s (table + i * 8) 8 then .bad
      else .leaf { part := p, vpage := va / 2 ^ 16, size := 16, ppage := pteAddr e / 2 ^ 16, attr := attrOf e }
  else .leaf { part := p, vpage := va / 2 ^ 12, size := 12, ppage := pteAddr e / 2 ^ 12, attr := attrOf e }

/-- The walk from a level down (R328, R330): 3, 2, 1, 0 are L3 to L0. -/
def walkFrom (s : State) (p va : Nat) : Nat → Nat → WalkOut
  | lvl, table =>
    match lvl with
    | 0 =>
      let a := table + va / 2 ^ 12 % 512 * 8
      if failingAt s a 8 then .bad
      else
        let e := pteAt s a
        if !e.getLsbD 0 then
          .absent (if e.getLsbD 2 then ⟨p, va / 2 ^ 16 * 2 ^ 16, 16⟩ else ⟨p, va / 2 ^ 12 * 2 ^ 12, 12⟩)
        else if pteReserved e || !e.getLsbD 1 then .malformed
        else leafL0 s p va table e
    | n + 1 =>
      let sh := if n = 2 then 39 else if n = 1 then 30 else 21
      let ix := if n = 2 then va / 2 ^ 39 % 8192 else va / 2 ^ sh % 512
      let a := table + ix * 8
      if failingAt s a 8 then .bad
      else
        let e := pteAt s a
        if !e.getLsbD 0 then .absent ⟨p, va / 2 ^ sh * 2 ^ sh, sh⟩
        else if pteReserved e || e.getLsbD 2 then .malformed
        else if e.getLsbD 1 then
          if n = 0 ∧ pteAddr e % 2 ^ 21 = 0 then
            .leaf { part := p, vpage := va / 2 ^ 21, size := 21, ppage := pteAddr e / 2 ^ 21, attr := attrOf e }
          else .malformed
        else if !dramOk s (pteAddr e) then .malformed
        else walkFrom s p va n (pteAddr e)

/-- The four-level walk of an address of a partition (R328); with no table every access is absent (R327). -/
def walk (s : State) (p va : Nat) : WalkOut :=
  let root := (part s p).ptroot
  if root = 0 then .absent ⟨p, va / 2 ^ 39 * 2 ^ 39, 39⟩
  else walkFrom s p va 3 ((root.extractLsb' 16 36).toNat * 2 ^ 16)

/-- Whether a TLB entry translates an address of a partition (R332). -/
def tlbMatch (e : TlbEntry) (p va : Nat) : Bool := e.part == p && va / 2 ^ e.size == e.vpage

/-- The physical address that an entry gives. -/
def tlbPhys (e : TlbEntry) (va : Nat) : Nat := e.ppage * 2 ^ e.size + va % 2 ^ e.size

/-- An entry added to a TLB of n entries; the victim is open (R332, log 7). -/
def tlbAdd (v n : Nat) (e : TlbEntry) (l : List TlbEntry) : List TlbEntry :=
  let l := l.filter (fun x => x != e)
  e :: (if l.length < n then l else l.eraseIdx (v % l.length))

/-- A leaf fills the TLBs of a core and its die (R332). -/
def fillTlbs (s : State) (c : Nat) (e : TlbEntry) : State :=
  let (v, s) := choose s (2 ^ 64)
  modDie (modCore { s with past := if s.past.contains e then s.past else s.past ++ [e] } c
      (fun k => { k with tlb := tlbAdd v 96 e k.tlb })) (dieOf c)
    (fun d => { d with l2tlb := tlbAdd v 16384 e d.l2tlb })

/-- The TLB entry for an address: of the L1 TLB, else of the L2 TLB (R332). -/
def tlbNow (s : State) (c p va : Nat) : Option TlbEntry :=
  match (core s c).tlb.find? (fun e => tlbMatch e p va) with
  | some e => some e
  | none => (die s (dieOf c)).l2tlb.find? (fun e => tlbMatch e p va)

/-- What an access may take the translation of an address from: the TLB entry; an older translation that a TLB has held since the
last invalidation that covers it; and, where memory differs from the entry, a walk (R333; DESIGN CHOICE, log 7). With no page
table there is nothing to walk (R327). -/
def tlbChoices (s : State) (c p va : Nat) : List (Option TlbEntry) :=
  let now := tlbNow s c p va
  let leaf := match walk s p va with | .leaf t => some t | _ => none
  now :: (s.past.filter (fun e => tlbMatch e p va && now != some e && leaf != some e)).map some ++
    (if now.isSome && (part s p).ptroot != 0 && leaf != now then [none] else [])

/-- What the TLBs give for an address. While an entry that memory has changed is not invalidated, each access takes the old
translation or the new one, which is open (R11, R333; DESIGN CHOICE, log 7). -/
def tlbFind (s : State) (c p va : Nat) : Option TlbEntry :=
  match tlbChoices s c p va with
  | [o] => o
  | os => (os[Config.choice (s.fresh * 2 ^ 52 + va) % os.length]?).join

/-! ### The checks of one element (R203, R205 to R207, R222) -/

/-- The first address of the local aperture (R205). -/
def apertureBase : Nat := 0xFFFFFFF000000

/-- The number of the team that an aperture slot of a team names (R205). -/
def apertureTeam (s : State) (tid sl : Nat) : Option Nat :=
  if sl = 15 then some tid
  else
    let t := team s tid
    let r := (grid s t.grid).lr
    if sl < r.w * r.h then
      (s.teams.find? (fun p => p.2.grid == t.grid && p.2.cluster == t.cluster && p.2.cy * r.w + p.2.cx == sl)).map (·.1)
    else none

/-- The physical address of a range in the local aperture: the part of the slot, and the address (R205). -/
def aperture (s : State) (tid va n : Nat) : Option (Nat × Nat) :=
  let off := va - apertureBase
  match apertureTeam s tid (off / 2 ^ 20) with
  | none => none
  | some o =>
    let i := off % 2 ^ 20
    let p := if i < 0x80000 then 0 else if i < 0xC0000 then 1 else 2
    let j := if p = 0 then i else if p = 1 then i - 0x80000 else i - 0xC0000
    let r := teamRange (team s o) p
    if j + n ≤ r.2 then some (p, r.1 + j) else none

/-- What the translation and checks of an element find. -/
inductive ElemOut where
  | ok (pa : Nat) (attr : Attr)
  | fault (cause : Nat)
  | absent (k : Key)
  | miss
  deriving DecidableEq, Repr

/-- Whether a kind of access writes. -/
def writes (k : AccKind) : Bool :=
  match k with | .store | .atomic | .streamWrite | .copyDst | .mxsave => true | _ => false

/-- Whether an atomic may be performed at an address: stacked DRAM, scratchpad and fabric windows; in host memory aadd, axch
and acas of 32 or 64 bits (R203, R215). -/
def atomicOk (a : Access) (pa : Nat) : Bool :=
  match regionOf pa with
  | 0 => true
  | 1 => (a.op == 0 || a.op == 7 || a.op == 8)
  | 2 => true
  | 8 => match windowOf pa with | some (_, off) => onchipOf off == .spad | none => false
  | _ => false

/-- The rows of accumulator memory that a range of a core window touches are leased (R274). -/
def touchesLease (s : State) (pa n : Nat) : Bool :=
  match windowOf pa with
  | none => false
  | some (c, off) =>
    onchipOf off == .acc && (core s c).leases.any (fun l =>
      decide (l.1 ≤ (off + n - 1 - 0xC0000) / 512) && decide ((off - 0xC0000) / 512 ≤ l.1))

/-- The checks on the physical side of a translation (R201, R203, R206, R207, R274); every replica that an st.mc writes must exist
(R218, R222). -/
def physCheck (s : State) (c : Nat) (a : Access) (pa : Nat) (attr : Attr) (n : Nat) : ElemOut :=
  if attr.priv && !a.priv then .fault 0x09
  else if writes a.kind && !attr.w then .fault 0x0A
  else if attr.repl && !(decide (pa < 2 ^ 36)) then .fault 0x0A
  else
    let pa := if attr.repl then pa + dieOf c * 2 ^ 36 else pa
    let pages := if attr.repl && a.mc then (List.range 8).filterMap (fun d => if dieUp s d then some (pa % 2 ^ 36 + d * 2 ^ 36) else none)
      else [pa]
    if !pages.all (fun x => physOk s x && physOk s (x + n - 1)) then .fault 0x0A
    else
      let reg := match windowOf pa with | some (_, off) => onchipOf off == .acc || onchipOf off == .gregs | none => false
      if reg && !attr.priv then .fault 0x0A
      else if a.kind == .atomic && !atomicOk a pa then .fault 0x0A
      else if a.kind == .mwait && !(regionOf pa == 0 || regionOf pa == 1) then .fault 0x0A
      else if a.kind != .copySrc && a.kind != .copyDst && !a.again && touchesLease s pa n then .fault 0x0B
      else .ok pa attr

/-- The translation and checks of one element (R222): alignment, the aperture, the TLBs or a walk. `byWalk` walks when the
TLBs miss. -/
def elemCheck (s : State) (c tid : Nat) (a : Access) (byWalk : Bool) (e : Elem) : ElemOut :=
  if e.va % e.len ≠ 0 then .fault 0x08
  else if apertureBase ≤ e.va then
    match aperture s tid e.va e.len with
    | none => .fault 0x0A
    | some (p, pa) =>
      if (a.kind == .atomic && p != 0) || a.kind == .mwait then .fault 0x0A else .ok pa { x := false }
  else
    match tlbFind s c a.part e.va with
    | some t => physCheck s c a (tlbPhys t e.va) t.attr e.len
    | none =>
      if byWalk then
        match walk s a.part e.va with
        | .leaf t => physCheck s c a (tlbPhys t e.va) t.attr e.len
        | .absent k => .absent k
        | .malformed => .fault 0x0A
        | .bad => .fault 0x19
      else .miss

/-- The TLB fills of the walks of an access, and its L1 TLB misses (R332, R385). The next access chooses anew between an old
translation and a new one (R333). -/
def fillWalks (s : State) (c : Nat) (a : Access) : State :=
  let s := a.elems.foldl (fun s e =>
    if apertureBase ≤ e.va then s
    else
      match tlbFind s c a.part e.va with
      | some t =>
        if (core s c).tlb.any (fun x => tlbMatch x a.part e.va) then s else fillTlbs (countEvent s c 9 (some a.part) 1) c t
      | none =>
        let s := countEvent s c 9 (some a.part) 1
        match walk s a.part e.va with | .leaf t => fillTlbs s c t | _ => s) s
  { s with fresh := s.fresh + 1 }

/-- A lease fault counts as an event (R385). -/
def leaseEvent (s : State) (c p cause : Nat) : State := if cause = 0x0B then countEvent s c 0xF (some p) 1 else s

/-- One entry of an L1 TLB and one of its die's L2 TLB may be replaced at any time (R332, R333; log 7). -/
def evictTlbs (s : State) (c : Nat) : State :=
  let (v, s) := choose s (2 ^ 64)
  modDie (modCore s c (fun k => { k with tlb := k.tlb.eraseIdx (v % 2 ^ 32) })) (dieOf c)
    (fun d => { d with l2tlb := d.l2tlb.eraseIdx (v / 2 ^ 32) })

/-- The translation of an address as the TLBs or a walk give it. -/
def translate (s : State) (c p va : Nat) : WalkOut :=
  match tlbFind s c p va with | some t => .leaf t | none => walk s p va

/-- The walk of a fetch fills the TLBs, and the fetch counts an L1 TLB miss, however its translation ends (R332, R385). -/
def fetchWalk (s : State) (c p va : Nat) : State :=
  if apertureBase ≤ va || (core s c).tlb.any (fun x => tlbMatch x p va) then s
  else
    match translate s c p va with
    | .leaf t => fillTlbs (countEvent s c 9 (some p) 1) c t
    | _ => countEvent s c 9 (some p) 1

/-- How the translation of a fetch ends (R341). -/
inductive FetchOut where
  | ok (pa : Nat) (e : TlbEntry)
  | fault (cause : Nat)
  deriving DecidableEq, Repr

/-- The translation of a bundle or code address as fetch on die d makes it, from what the TLBs of core c know (R203, R205 to R207,
R341): it never parks. -/
def fetchOn (s : State) (c d p : Nat) (priv : Bool) (va : Nat) : FetchOut :=
  if apertureBase ≤ va then .fault 0x0A
  else
    match translate s c p va with
    | .leaf t =>
      let pa := tlbPhys t va
      if t.attr.priv && !priv then .fault 0x09
      else if !t.attr.x || (t.attr.repl && !(decide (pa < 2 ^ 36))) then .fault 0x0A
      else
        let pa := if t.attr.repl then pa + d * 2 ^ 36 else pa
        if regionOf pa = 0 ∧ dramOk s pa then .ok pa t else .fault 0x0A
    | .bad => .fault 0x19
    | _ => .fault 0x0A

/-- The translation of a bundle or code address for a core (R341). -/
def fetchTranslate (s : State) (c p : Nat) (priv : Bool) (va : Nat) : FetchOut := fetchOn s c (dieOf c) p priv va

/-! ### Landed bytes (R252) -/

/-- The tick in which a watermark reached a value, by its log, the last first (R252). -/
def logTick (log : List (Nat × BitVec 64)) (v : Nat) : Option (BitVec 64) :=
  ((log.filter (fun x => decide (v ≤ x.1))).getLast?).map (·.2)

/-- The tick in which the last byte of an element landed through a channel whose guarded range holds a byte of it (R252). A ring's
byte counts by its place in the stream of the write pointer. -/
def landTick (p : Nat) (q : Chan) (e : Elem) : Option (BitVec 64) :=
  match q.ring with
  | some _ =>
    if q.rdst < e.pa + e.len ∧ e.pa < q.gend then
      let rs := q.gend - q.rdst
      let off := min (e.pa + e.len) q.gend - 1 - q.rdst
      let top := q.wp0.toNat - 1
      logTick q.landLog (top - (top + rs - off % rs) % rs + 1)
    else none
  | none =>
    if q.phys.isNone ∧ q.part = p ∧ q.rdst < e.va + e.len ∧ e.va < q.gend then logTick q.landLog (min (e.va + e.len) q.gend) else none

/-- The later of two ticks, where there are any. -/
def laterTick : Option (BitVec 64) → Option (BitVec 64) → Option (BitVec 64)
  | some a, some b => some (tmax a b)
  | some a, none => some a
  | none, b => b

/-- The tick in which the bytes of an element had landed, as its issue or its release found it and as the channels tell it now
(R252). -/
def pastTick (s : State) (c p : Nat) (e : Elem) : Option (BitVec 64) :=
  (core s c).chans.foldl (fun o q => laterTick o (landTick p q.2 e)) e.past

/-- What is decided of an access when all of its elements have been checked (R222, R335, R370). -/
inductive Decision where
  | ready (a : Access)
  | fault (cause fva ln : Nat)
  | park (k : Key) (fva : Nat)
  | walks
  deriving DecidableEq, Repr

/-- The decision over all enabled lanes: a trapping fault (the lowest code, then the lowest lane) before an absent page (the
lowest lane). -/
def decideAccess (s : State) (c tid : Nat) (a : Access) (byWalk : Bool) : Decision :=
  let os := a.elems.map (fun e => (e, elemCheck s c tid a byWalk e))
  let worst := os.foldl (fun (o : Option (Nat × Nat × Nat)) p =>
    match p.2, o with
    | .fault k, none => some (k, p.1.va, p.1.lane)
    | .fault k, some (k', v', l') => if k < k' then some (k, p.1.va, p.1.lane) else some (k', v', l')
    | _, o => o) none
  if os.any (fun p => p.2 == .miss) then .walks
  else
    match worst with
    | some (k, v, l) => .fault k v l
    | none =>
      match os.findSome? (fun p => match p.2 with | .absent k => some (k, p.1.va) | _ => none) with
      | some (k, v) => .park k v
      | none => .ready { a with
          stat := .ready, sent := coreTime s c
          elems := os.map (fun p => match p.2 with
            | .ok pa at_ =>
              let e : Elem := { p.1 with pa := (homePa s pa).1, home := (homePa s pa).2, attr := at_ }
              { e with past := pastTick s c a.part e }
            | _ => p.1) }

/-! ### The fault buffer and the parked set (R324, R335 to R338) -/

/-- The code of an access kind in a fault-buffer entry (R336). -/
def kindCode (k : AccKind) : Nat :=
  match k with
  | .load | .wmwait | .mwait => 0 | .store => 1 | .atomic => 2 | .streamRead => 3 | .streamWrite => 4 | .copySrc => 5
  | .copyDst => 6 | .mxsave | .mxload => 7

/-- The code of a key's size (R336). -/
def keySize (n : Nat) : Nat := match n with | 12 => 0 | 16 => 1 | 21 => 2 | 30 => 3 | _ => 4

/-- The core of the origin of a fault-buffer entry. -/
def FbEntry.core (e : FbEntry) : Nat := e.origin % 2 ^ 10

/-- The order of the faults of one cycle: by core, slots before copy channels, then by number (R340). -/
def FbEntry.rank (e : FbEntry) : Nat := e.core * 64 + (if e.origin.testBit 14 then 32 + e.chan else e.origin / 2 ^ 10 % 16)

/-- The count of an entry, which saturates (R324). -/
def FbEntry.shown (e : FbEntry) : Nat := min e.count (2 ^ 32 - 1)

/-- The 32 bytes of a fault-buffer entry (R324, R336). -/
def FbEntry.word (e : FbEntry) : BitVec 256 :=
  BitVec.ofNat 256 (e.cause % 2 ^ 8 + e.kind % 2 ^ 8 * 2 ^ 8 + keySize e.key.size * 2 ^ 16 + e.part % 2 ^ 8 * 2 ^ 64 + e.chan % 2 ^ 8 * 2 ^ 72 +
    e.origin % 2 ^ 16 * 2 ^ 80 + e.shown * 2 ^ 96 + e.va % 2 ^ 52 * 2 ^ 128 + e.gtime.toNat * 2 ^ 192)

/-- FBENT0 to FBENT7 of a die: the entries, oldest first; an absent one reads 0 (R423). -/
def fbEnt (x : Die) (i : Nat) : BitVec 256 := ((x.fb[i]?).map FbEntry.word).getD 0

/-- FBCNT of a die (R423). -/
def fbCnt (x : Die) : Nat := x.fb.length + x.drop.toNat * 2 ^ 8

/-- Whether a fault arrived in the current cycle of its core. -/
def inThisCycle (s : State) (e : FbEntry) : Bool := e.stamp == cycleOf s e.core + 1

/-- The last in order of the entries that came after a fault in its cycle (R340). -/
def lastAfter (s : State) (e : FbEntry) (fb : List FbEntry) : Option FbEntry :=
  (fb.filter (fun y => inThisCycle s y && decide (e.rank < y.rank))).foldl (fun o y =>
    match o with | some z => if z.rank < y.rank then some y else some z | none => some y) none

/-- A fault enters a die's fault buffer: a not-present fault coalesces by key; the ninth distinct fault sets DROP. Of the faults
of one cycle those first in order take the free entries, and the others are remembered for that cycle (R340). -/
def faultBuffer (s : State) (d : Nat) (e : FbEntry) : State :=
  let e := { e with stamp := cycleOf s e.core + 1 }
  modDie s d (fun x =>
    if e.cause = 1 ∧ x.fb.any (fun y => y.cause == 1 && y.key == e.key) then
      { x with
        fb := x.fb.map (fun y => if y.cause = 1 ∧ y.key = e.key then { y with count := y.count + 1 } else y)
        joined := x.joined.filter (inThisCycle s) ++ [e] }
    else if x.fb.length < 8 then { x with fb := x.fb ++ [e] }
    else
      let lose (y : FbEntry) (fb : List FbEntry) : Die :=
        { x with fb := fb, drop := true, dropBy := if x.drop then x.dropBy else some y, lost := x.lost.filter (inThisCycle s) ++ [y] }
      match lastAfter s e x.fb with
      | some y => lose y (x.fb.erase y ++ [e])
      | none => lose e x.fb)

/-- DROP of a die as its faults before this cycle leave it (R340). -/
def dropBefore (s : State) (x : Die) : Bool := x.drop && !x.dropBy.any (inThisCycle s)

/-- An entry as its removal finds it: faults that join it in the same cycle come after the removal (R340). -/
def asRemoved (s : State) (d : Nat) (e : FbEntry) : FbEntry :=
  if e.cause = 1 then { e with count := e.count - ((die s d).joined.filter (fun y => inThisCycle s y && y.key == e.key)).length }
  else e

/-- Entries leave the fault buffer of a die. A fault of this cycle that had joined one of them takes an entry of its own, as a
removal comes before a new fault of its cycle (R340). -/
def removeFaults (s : State) (d : Nat) (gone : FbEntry → Bool) : State :=
  let x := die s d
  let out := x.fb.filter gone
  let own (e : FbEntry) : Bool := out.any (fun y => y.key == e.key)
  let back := x.joined.filter (fun e => inThisCycle s e && own e)
  let s := modDie s d (fun x => { x with fb := x.fb.filter (fun y => !gone y), joined := x.joined.filter (fun e => !own e) })
  back.foldl (fun s e => faultBuffer s d e) s

/-- The oldest entry leaves the fault buffer of a die. -/
def popFault (s : State) (d : Nat) : State :=
  match (die s d).fb with
  | [] => s
  | e :: rest =>
    let back := (die s d).joined.filter (fun y => inThisCycle s y && y.key == e.key)
    back.foldl (fun s y => faultBuffer s d y) (modDie s d (fun x => { x with fb := rest, joined := x.joined.filter (fun y => y.key != e.key) }))

/-- The group, or the team of the channel, whose access parks. -/
def originOfRef (s : State) (ref : ParkRef) : Nat × Nat :=
  match ref with
  | .entry c sl _ _ _ => ((group s c sl).team, (group s c sl).gid)
  | .chan c ch => ((tget {} (core s c).chans ch).own.getD 0, 0)

/-- An access joins the parked set and its fault the fault buffer (R222, R337). -/
def parkAccess (s : State) (c : Nat) (ref : ParkRef) (k : Key) (fva origin chan : Nat) (kind : AccKind) : State :=
  let d := dieOf c
  let (tid, gid) := originOfRef s ref
  let s := { s with
    parked := s.parked.filter (fun p => p.ref != ref) ++ [{ id := s.nextPark, die := d, key := k, ref := ref, stamp := cycleOf s c + 1 }]
    nextPark := s.nextPark + 1 }
  faultBuffer s d
    { cause := 1, kind := kindCode kind, key := k, part := k.part, chan := chan, origin := origin, team := tid, gid := gid
      count := 1, va := fva, gtime := gtime s d }

/-! ### The watermark compare (R224, R291, R297) -/

/-- How an access stands to a channel. -/
inductive Compare where
  | pass | held | abandoned
  deriving DecidableEq, Repr

/-- The offsets of a ring that are free: from WP mod RS up to RP mod RS, the whole ring when WP = RP (R297). -/
def inFree (off from_ len rs : Nat) : Bool := decide ((off + rs - from_ % rs) % rs < len)

/-- The free region of a ring of rs bytes with given pointers: start and length. -/
def ringFree (wp rp : BitVec 64) (rs : Nat) : Nat × Nat := (wp.toNat % rs, rs - (wp.toNat - rp.toNat))

/-- Whether a channel is bound to a ring (R297). -/
def ringBound (q : Chan) : Bool := q.ring.isSome && q.st == .landing

/-- CWM, GEND and CLEN: of a ring-bound channel by the pointers at the start of the cycle (R283, R297). -/
def chanView (q : Chan) : Nat × Nat × Nat :=
  if ringBound q then
    (q.rdst + q.wp0.toNat % (q.gend - q.rdst), q.gend, q.wp0.toNat - q.rp0.toNat)
  else (q.cwm, q.gend, q.clen)

/-- One element against one channel of its core. A ring is compared by its pointers at the start of the cycle (R297); CWM moves
only after the compares of its cycle. -/
def compare1 (p : Nat) (ch : Chan) (e : Elem) : Compare :=
  match ch.ring with
  | some _ =>
    let hit (f : Nat × Nat) : Bool := (List.range e.len).any (fun j =>
      decide (ch.rdst ≤ e.pa + j) && decide (e.pa + j < ch.gend) && inFree (e.pa + j - ch.rdst) f.1 f.2 (ch.gend - ch.rdst))
    match ch.st, ch.freeAt with
    | .abandoned, some f => if hit f then .abandoned else .pass
    | .abandoned, none => .pass
    | .idle, _ => .pass
    | _, _ => if hit (ringFree ch.wp0 ch.rp0 (ch.gend - ch.rdst)) then .held else .pass
  | none =>
    let x : Option Nat := match ch.phys with
      | some ps => (ps.find? (fun r => decide (r.1 < e.pa + e.len) && decide (e.pa < r.1 + r.2.2))).map
          (fun r => e.pa + r.2.1 - r.1)
      | none => if ch.part = p ∧ ch.rdst < e.va + e.len ∧ e.va < ch.gend ∧ e.va < apertureBase then some e.va else none
    match x with
    | none => .pass
    | some v =>
      if min (v + e.len) ch.gend ≤ ch.cwm then .pass
      else match ch.st with
        | .idle => .pass
        | .abandoned => .abandoned
        | _ => .held

/-- A channel as the compares of the core's cycle see it: once an element has landed in the cycle, with CWM as it stood at the
start of the cycle (R291, R300). -/
def asCompared (k : Core) (q : Chan) : Chan :=
  if k.landed && q.st != .abandoned then { q with cwm := min q.cwm q.cwm0 } else q

/-- An access against every channel of its core (R224, R225): abandoned if any channel found it abandoned, else held if any
holds it. -/
def compareAccess (s : State) (c p : Nat) (es : List Elem) : Compare :=
  let rs := es.flatMap (fun e => (core s c).chans.map (fun q => compare1 p (asCompared (core s c) q.2) e))
  if rs.contains .abandoned then .abandoned else if rs.contains .held then .held else .pass

/-- The first element of an access that an abandoned channel covers (R225, R368). -/
def abandonedElem (s : State) (c p : Nat) (es : List Elem) : Option Elem :=
  es.find? (fun e => (core s c).chans.any (fun q => compare1 p q.2 e == .abandoned))

/-- The first element of an access that an abandoned channel covers, or else its first element: address and lane. -/
def abandonedAt (s : State) (c : Nat) (a : Access) : Nat × Nat :=
  match abandonedElem s c a.part a.elems with
  | some e => (e.va, e.lane)
  | none => ((a.elems.head?).map (fun e => (e.va, e.lane))).getD (0, 0)

/-- The elements of an access whose page is absent, as the compare reads them: by physical address where the translation of
the element found one, and by virtual address always (R224, R291). -/
def absentElems (s : State) (c tid : Nat) (a : Access) : List Elem :=
  a.elems.map (fun e => match elemCheck s c tid a true e with
    | .ok pa at_ => { e with pa := (homePa s pa).1, attr := at_ }
    | _ => { e with pa := 2 ^ 60 })

/-- The compare of an access that its walk has not made ready: loads, atomics and stream reads are compared (R224). -/
def compareAbsent (s : State) (c tid : Nat) (a : Access) : Compare :=
  match a.kind with
  | .load | .atomic | .streamRead => compareAccess s c a.part (absentElems s c tid a)
  | _ => .pass

/-- The elements of an access as far as their translation is known: done, or by the tables as they stand (R219, R224). -/
def located (s : State) (c tid : Nat) (a : Access) : List Elem :=
  if a.stat = .ready then a.elems else absentElems s c tid a

/-- The elements that an access writes or reads for an element: an st.mc reaches the replica of every die in service on a page with
REPL 1 (R207, R218, R249). -/
def replicas (s : State) (a : Access) (e : Elem) : List Elem :=
  if a.mc && e.attr.repl && !a.begun then
    ((List.range 8).filter (dieUp s)).map (fun d => { e with pa := e.pa % 2 ^ 36 + d * 2 ^ 36 })
  else [e]

/-- What an access reaches, as far as its translation is known: every replica of an st.mc (R218, R219). -/
def touched (s : State) (c tid : Nat) (a : Access) : List Elem := (located s c tid a).flatMap (replicas s a)

/-- An access at its issue, with the ticks in which its bytes had landed under a watermark (R252). -/
def stampPast (s : State) (c tid : Nat) (a : Access) : Access :=
  { a with elems := (a.elems.zip (located s c tid a)).map (fun x => { x.1 with past := pastTick s c a.part x.2 }) }

/-! ### Performing an access -/

/-- The width in bytes that an ls TYPE selects for loads and stores (R210). -/
def lsWidth (t : BitVec 3) : Nat :=
  match t.toNat with | 1 | 2 => 1 | 3 | 4 => 2 | 5 => 8 | 6 => 16 | _ => 4

/-- The width in bytes of an atomic's TYPE (R210). -/
def atWidth (t : BitVec 3) : Nat := match t.toNat with | 3 | 4 => 8 | _ => 4

/-- A loaded value extended by TYPE (R211). -/
def extendLoad (t : BitVec 3) (v : Nat) : Slice :=
  match t.toNat with
  | 1 => lo32 ((BitVec.ofNat 8 v).signExtend 32)
  | 3 => lo32 ((BitVec.ofNat 16 v).signExtend 32)
  | _ => BitVec.ofNat 128 v

/-- Whether a load goes past a line that its L1 filled before bytes of it landed under a watermark (R252). -/
def pastL1 (s : State) (c p : Nat) (e : Elem) : Bool :=
  match tfind (core s c).l1 (e.pa / 64) with
  | some l => (match pastTick s c p e with | some t => decide (l.fill.toNat ≤ t.toNat) | none => false)
  | none => false

/-- Whether a load of an element uses the L1 (R194, R214, R252, R405). -/
def usesL1 (s : State) (c : Nat) (a : Access) (e : Elem) : Bool :=
  regionOf e.pa == 0 && !a.nc && !e.home && !pastL1 s c a.part e

/-- The bytes of one element as a load reads them (R194, R214, R249, R252). -/
def readElem (s : State) (c : Nat) (a : Access) (e : Elem) : State × Nat :=
  let s := if remoteAt s e.pa then { s with fresh := s.fresh + 1 } else s
  let s := sendOut s (dieOf c) false e.pa e.len
  if usesL1 s c a e then l1Read s c (some a.part) e.attr e.pa e.len
  else (if regionOf e.pa == 0 then l2Fill s (e.pa / 64) 0 else s, physRead s (some c) e.pa e.len)

/-- Whether an access asks another package and has waited 2^24 ticks: it is answered no more (R407). -/
def timedOut (s : State) (c : Nat) (sent : BitVec 64) (pas : List Nat) : Bool :=
  pas.any (remoteAt s) && decide (sent.toNat + 2 ^ 24 ≤ (coreTime s c).toNat)

/-- Whether an access gets no answer now: its plane is down, or its time is over (R407). -/
def unanswered (s : State) (c : Nat) (sent : BitVec 64) (pas : List Nat) : Bool :=
  pas.any (planeDown s) || timedOut s c sent pas

/-- The values of all elements, placed in their lanes at their bits; lanes with no element read 0. -/
def readElems (s : State) (c : Nat) (a : Access) (ext : Nat → Slice) : State × Row :=
  let (s, vs) := a.elems.foldl (fun (p : State × List (Elem × Nat)) e =>
    let (s', v) := readElem p.1 c a e; (s', p.2 ++ [(e, v)])) (s, [])
  (s, mkRow (fun L => (vs.filter (fun p => p.1.lane == L)).foldl (fun x p => x ||| (ext p.2) <<< p.1.off) 0))

/-- The bytes that a store writes, in increasing lane number, so that the higher lane's value stands (R212). -/
def storeCells (a : Access) : List (Elem × List Host.Cell) :=
  a.elems.map (fun e => (e, leCells e.pa e.len (((lane a.data e.lane) >>> e.off).toNat % 2 ^ (8 * e.len))))

/-- The bytes of the lanes of a store without those that a higher lane writes (R212). -/
def standing : List (Elem × List Host.Cell) → List (Elem × List Host.Cell)
  | [] => []
  | x :: t => (x.1, x.2.filter (fun b => t.all (fun y => (cellFind y.2 b.1).isNone))) :: standing t

/-- The W of a lane of a store whose bytes a higher lane overwrites (R220, R241). -/
def laneW (s : State) (c : Nat) (e : Elem) : BitVec 64 :=
  if regionOf e.pa = 0 then
    tmax (gtime s (homeDie e.pa)) (leaseOf s (e.pa / 64)) + (if e.attr.prop then 0 else 2)
  else coreTime s c

/-- The elements of a store written: the state and W, the latest of all lanes (R212, R220, R241). -/
def writeElems (s : State) (c : Nat) (a : Access) : State × BitVec 64 :=
  let cells := standing (storeCells a)
  let go (prop : Bool) (p : State × BitVec 64) : State × BitVec 64 :=
    let cs := (cells.filter (fun x => x.1.attr.prop == prop)).flatMap (·.2)
    if cs.isEmpty then p
    else
      let (s', w) := performWrite p.1 (some c) none (dieOf c) prop cs
      (s', tmax p.2 w)
  go true (go false (s, (cells.filter (fun x => x.2.isEmpty)).foldl (fun w x => tmax w (laneW s c x.1)) 0))

/-- A 16-byte element outside the core windows as its two aligned 8-byte halves: each stands alone there (R253). -/
def halves (e : Elem) : List Elem :=
  if e.len = 16 ∧ regionOf e.pa ≠ 8 then
    [{ e with len := 8 }, { e with off := e.off + 64, len := 8, va := e.va + 8, pa := e.pa + 8 }]
  else [e]

/-- The parts of a store that are still to be written: a replica of a die that has left service is none (R218, R249, R253). -/
def storeParts (s : State) (a : Access) : List Elem :=
  (a.elems.flatMap (fun e => (replicas s a e).flatMap halves)).filter (fun e =>
    !(a.mc && e.attr.repl) || dieUp s (homeDie e.pa))

/-- Parts of a store with one key are written together: those that reach the same bytes, and those of an aligned 128-bit unit of a
core window that the store covers whole (R208, R253). -/
def partKey (ps : List Elem) (e : Elem) : Nat × Nat :=
  let u := e.pa / 16 * 16
  if regionOf e.pa = 8 ∧ (List.range 16).all (fun i => ps.any (fun x => decide (x.pa ≤ u + i) && decide (u + i < x.pa + x.len))) then (u, 16)
  else (e.pa, e.len)

/-- Whether a part is left for a later step: by the bit of the first part with its key. -/
def leftLater (ps : List Elem) (later : Nat) (e : Elem) : Bool :=
  later.testBit ((ps.findIdx? (fun x => partKey ps x == partKey ps e)).getD 0)

/-- Parts of a store performed, but for those whose bit of `later` is 1: of two stores to the same bytes either may stand on each
part, and the replicas of an st.mc are written in no stated order (R11, R208, R218, R249, R253). The state, and the store with what
is left of it and its W so far. -/
def performStore (s : State) (c later : Nat) (a : Access) : State × Access :=
  let ps := storeParts s a
  let (s', w) := writeElems s c { a with elems := ps.filter (fun e => !leftLater ps later e) }
  (s', { a with begun := true, elems := ps.filter (leftLater ps later), w := tmax a.w w })

end Sys2Proof.Machine
end

