-- ==== Sys2Proof/Machine/Flags.lean ====
section
/-! DEFINITION. Saturation, the binary formats, Round, and the exception flags (R34 to R44). -/

namespace Sys2Proof.Machine

/-! ### Integers (R34, R35) -/

/-- Sat to the range of a w-bit type (R35). -/
def sat (signed : Bool) (w : Nat) (x : Int) : Int :=
  let hi : Int := if signed then 2 ^ (w - 1) - 1 else 2 ^ w - 1
  let lo : Int := if signed then -(2 ^ (w - 1)) else 0
  if x > hi then hi else if x < lo then lo else x

/-- The value of a w-bit pattern as a signed or unsigned type. -/
def intVal {w : Nat} (signed : Bool) (x : BitVec w) : Int := if signed then x.toInt else x.toNat

/-! ### The binary formats (R36) -/

/-- Exponent and fraction widths of a format. -/
structure Fmt where
  ebits : Nat
  fbits : Nat
  deriving DecidableEq, Repr

/-- binary32 -/
def f32 : Fmt := ⟨8, 23⟩
/-- binary16 -/
def f16 : Fmt := ⟨5, 10⟩
/-- bf16 -/
def bf16 : Fmt := ⟨8, 7⟩

/-- The bias of a format. -/
def Fmt.bias (f : Fmt) : Int := 2 ^ (f.ebits - 1) - 1
/-- The total width of a format. -/
def Fmt.width (f : Fmt) : Nat := 1 + f.ebits + f.fbits
/-- The canonical quiet NaN (R36, R37). -/
def Fmt.qnan (f : Fmt) : Nat := (2 ^ f.ebits - 1) * 2 ^ f.fbits + 2 ^ (f.fbits - 1)
/-- Infinity. -/
def Fmt.inf (f : Fmt) (neg : Bool) : Nat := (if neg then 2 ^ (f.ebits + f.fbits) else 0) + (2 ^ f.ebits - 1) * 2 ^ f.fbits
/-- The largest finite value. -/
def Fmt.maxFin (f : Fmt) (neg : Bool) : Nat := f.inf neg - 1
/-- Zero. -/
def Fmt.zero (f : Fmt) (neg : Bool) : Nat := if neg then 2 ^ (f.ebits + f.fbits) else 0

/-- A datum: NaN (signalling or quiet), infinity, or (−1)^neg × m × 2^e. -/
inductive FVal where
  | nan (signalling : Bool)
  | inf (neg : Bool)
  | fin (neg : Bool) (m : Nat) (e : Int)
  deriving DecidableEq, Repr

/-- The datum of a bit pattern (R36). -/
def decodeF (f : Fmt) (b : Nat) : FVal :=
  let fr := b % 2 ^ f.fbits
  let ex := b / 2 ^ f.fbits % 2 ^ f.ebits
  let neg := b / 2 ^ (f.ebits + f.fbits) % 2 == 1
  if ex = 2 ^ f.ebits - 1 then
    if fr = 0 then .inf neg else .nan (decide (fr < 2 ^ (f.fbits - 1)))
  else if ex = 0 then .fin neg fr (1 - f.bias - f.fbits)
  else .fin neg (2 ^ f.fbits + fr) (ex - f.bias - f.fbits)

/-! ### Flags (R41): bit 0 invalid, 1 divide-by-zero, 2 overflow, 3 underflow, 4 inexact -/

/-- invalid -/
def fNV : BitVec 5 := 1
/-- divide-by-zero -/
def fDZ : BitVec 5 := 2
/-- overflow -/
def fOF : BitVec 5 := 4
/-- underflow -/
def fUF : BitVec 5 := 8
/-- inexact -/
def fNX : BitVec 5 := 16

/-- The rounding modes (R38). -/
inductive RMode where
  | rne | rz | ru | rd
  deriving DecidableEq, Repr

/-- The mode that a rounding field selects (R38). -/
def rmodeOf (b : BitVec 2) : RMode :=
  match b.toNat with | 0 => .rne | 1 => .rz | 2 => .ru | _ => .rd

/-- Whether a magnitude is rounded away from zero: `odd` last kept bit, `cmp` the discarded part against one half
(0 none, 1 below, 2 equal, 3 above). -/
def roundUp (mode : RMode) (neg odd : Bool) (cmp : Nat) : Bool :=
  match mode with
  | .rne => decide (cmp = 3) || (decide (cmp = 2) && odd)
  | .rz => false
  | .ru => !neg && decide (cmp ≠ 0)
  | .rd => neg && decide (cmp ≠ 0)

/-- m × 2^e, plus a nonzero amount below one unit of m when `sticky`, in units of 2^q: the part kept and how the rest
compares with one half. -/
def cut (m : Nat) (e : Int) (sticky : Bool) (q : Int) : Nat × Nat :=
  let sh := q - e
  if sh ≤ 0 then (m * 2 ^ (-sh).toNat, if sticky then 1 else 0)
  else
    let k := sh.toNat
    let rem := m % 2 ^ k
    (m / 2 ^ k,
      if rem = 0 ∧ !sticky then 0 else if rem < 2 ^ (k - 1) then 1 else if rem = 2 ^ (k - 1) ∧ !sticky then 2 else 3)

/-- Round of (−1)^neg × (m × 2^e), exact unless `sticky` (R39): the bits and the flags. -/
def roundF (f : Fmt) (mode : RMode) (neg : Bool) (m : Nat) (e : Int) (sticky : Bool) : Nat × BitVec 5 :=
  if m = 0 then (f.zero neg, 0)
  else
    let emin : Int := 1 - f.bias
    let top : Int := e + Nat.log2 m
    let q : Int := max (top - f.fbits) (emin - f.fbits)
    let (k, cmp) := cut m e sticky q
    let k := if roundUp mode neg (k % 2 == 1) cmp then k + 1 else k
    let nx : BitVec 5 := if cmp = 0 then 0 else fNX
    if k = 0 then (f.zero neg, nx ||| (if cmp = 0 then 0 else fUF))
    else
      let top : Int := q + Nat.log2 k
      if top > f.bias then
        (if mode = .rne ∨ (mode = .ru ∧ !neg) ∨ (mode = .rd ∧ neg) then f.inf neg else f.maxFin neg, fOF ||| fNX)
      else if k < 2 ^ f.fbits then (f.zero neg + k, nx ||| (if cmp = 0 then 0 else fUF))
      else (f.zero neg + (top + f.bias).toNat * 2 ^ f.fbits + (k / 2 ^ (Nat.log2 k - f.fbits) - 2 ^ f.fbits), nx)

/-- Round to an integer in a mode: the integer of the sign and whether it is inexact. -/
def roundInt (mode : RMode) (neg : Bool) (m : Nat) (e : Int) : Int × Bool :=
  let (k, cmp) := cut m e false 0
  let k := if roundUp mode neg (k % 2 == 1) cmp then k + 1 else k
  (if neg then -(k : Int) else k, cmp != 0)

/-- A signed dyadic s × 2^e rounded, with the sign that an exact zero takes. -/
def roundDyadic (f : Fmt) (mode : RMode) (s : Int) (e : Int) (zeroNeg : Bool) : Nat × BitVec 5 :=
  if s = 0 then (f.zero zeroNeg, 0) else roundF f mode (decide (s < 0)) s.natAbs e false

/-- The sign of a zero sum (R37): that of addends that are all zeros of one sign; else + except under RD. -/
def zeroSumNeg (mode : RMode) (addends : List (Bool × Bool)) : Bool :=
  -- each addend: (is zero, negative)
  if addends.all (fun a => a.1 && a.2) then true
  else if addends.all (fun a => a.1 && !a.2) then false
  else mode == .rd

/-- (−1)^neg × m as an integer. -/
def signed (neg : Bool) (m : Nat) : Int := if neg then -(m : Int) else m

/-- The exact sum of two dyadics, as s × 2^e. -/
def dyadicAdd (s1 : Int) (e1 : Int) (s2 : Int) (e2 : Int) : Int × Int :=
  let e := min e1 e2
  (s1 * 2 ^ (e1 - e).toNat + s2 * 2 ^ (e2 - e).toNat, e)

/-- invalid for each signalling NaN (R37). -/
def sigFlag (vs : List FVal) : BitVec 5 := if vs.contains (.nan true) then fNV else 0

/-- Whether a datum is a NaN. -/
def FVal.isNan : FVal → Bool
  | .nan _ => true
  | _ => false

/-- The opposite datum. -/
def FVal.neg : FVal → FVal
  | .nan s => .nan s
  | .inf n => .inf (!n)
  | .fin n m e => .fin (!n) m e

/-- Addition, rounded once (R37, R39). -/
def fadd (f : Fmt) (mode : RMode) (x y : FVal) : Nat × BitVec 5 :=
  match x, y with
  | .nan a, y => (f.qnan, sigFlag [.nan a, y])
  | x, .nan b => (f.qnan, sigFlag [x, .nan b])
  | .inf a, .inf b => if a = b then (f.inf a, 0) else (f.qnan, fNV)
  | .inf a, _ => (f.inf a, 0)
  | _, .inf b => (f.inf b, 0)
  | .fin n1 m1 e1, .fin n2 m2 e2 =>
    let (s, e) := dyadicAdd (signed n1 m1) e1 (signed n2 m2) e2
    roundDyadic f mode s e (zeroSumNeg mode [(m1 == 0, n1), (m2 == 0, n2)])

/-- The exact product of two data: the datum, and invalid for zero times infinity. -/
def fprod (x y : FVal) : FVal × BitVec 5 :=
  match x, y with
  | .nan a, y => (.nan false, sigFlag [.nan a, y])
  | x, .nan b => (.nan false, sigFlag [x, .nan b])
  | .inf a, .inf b => (.inf (a != b), 0)
  | .inf a, .fin n m _ => if m = 0 then (.nan false, fNV) else (.inf (a != n), 0)
  | .fin n m _, .inf b => if m = 0 then (.nan false, fNV) else (.inf (n != b), 0)
  | .fin n1 m1 e1, .fin n2 m2 e2 => (.fin (n1 != n2) (m1 * m2) (e1 + e2), 0)

/-- A datum rounded to a format. -/
def roundVal (f : Fmt) (mode : RMode) (x : FVal) : Nat × BitVec 5 :=
  match x with
  | .nan s => (f.qnan, if s then fNV else 0)
  | .inf n => (f.inf n, 0)
  | .fin n m e => roundF f mode n m e false

/-- Multiplication, rounded once. -/
def fmul (f : Fmt) (mode : RMode) (x y : FVal) : Nat × BitVec 5 :=
  let (p, fl) := fprod x y
  let (r, fl') := roundVal f mode p
  (r, fl ||| fl')

/-- x × y + z, rounded once; the product counts as one addend (R37). -/
def ffma (f : Fmt) (mode : RMode) (x y z : FVal) : Nat × BitVec 5 :=
  let (p, fl) := fprod x y
  let (r, fl') := fadd f mode p z
  (r, fl ||| fl')

/-- The exact sum of products and addends, rounded once (R143, R150, R151): each term with the flags of its product. DESIGN CHOICE
(log 52): infinities of both signs beside a quiet NaN raise no invalid. -/
def fsum (f : Fmt) (mode : RMode) (ts : List (FVal × BitVec 5)) : Nat × BitVec 5 :=
  let fl := ts.foldl (fun x t => x ||| t.2) 0
  let vs := ts.map (·.1)
  if vs.any FVal.isNan then (f.qnan, fl ||| sigFlag vs)
  else if vs.contains (.inf true) && vs.contains (.inf false) then (f.qnan, fl ||| fNV)
  else if vs.contains (.inf true) then (f.inf true, fl)
  else if vs.contains (.inf false) then (f.inf false, fl)
  else
    let (s, e) := vs.foldl (fun (p : Int × Int) v =>
      match v with | .fin n m e => dyadicAdd p.1 p.2 (signed n m) e | _ => p) (0, 0)
    let (r, fl') := roundDyadic f mode s e
      (zeroSumNeg mode (vs.map (fun v => match v with | .fin n m _ => (m == 0, n) | _ => (false, false))))
    (r, fl ||| fl')

/-- The quotient, rounded once (R37, R39). -/
def fdiv (f : Fmt) (mode : RMode) (x y : FVal) : Nat × BitVec 5 :=
  match x, y with
  | .nan a, y => (f.qnan, sigFlag [.nan a, y])
  | x, .nan b => (f.qnan, sigFlag [x, .nan b])
  | .inf _, .inf _ => (f.qnan, fNV)
  | .inf a, .fin n _ _ => (f.inf (a != n), 0)
  | .fin n _ _, .inf b => (f.zero (n != b), 0)
  | .fin n1 m1 e1, .fin n2 m2 e2 =>
    if m2 = 0 then (if m1 = 0 then (f.qnan, fNV) else (f.inf (n1 != n2), fDZ))
    else
      let k := f.fbits + 4 + Nat.log2 m2
      roundF f mode (n1 != n2) (m1 * 2 ^ k / m2) (e1 - e2 - k) (m1 * 2 ^ k % m2 != 0)

/-- The largest r below 2^n, on top of r0, with r² ≤ m. -/
def sqrtBits (m : Nat) : Nat → Nat → Nat
  | 0, r => r
  | n + 1, r => let x := r + 2 ^ n; sqrtBits m n (if x * x ≤ m then x else r)

/-- The integer square root. -/
def isqrt (m : Nat) : Nat := sqrtBits m (Nat.log2 m / 2 + 1) 0

/-- The square root of m × 2^e, rounded once. -/
def fsqrtPos (f : Fmt) (mode : RMode) (m : Nat) (e : Int) : Nat × BitVec 5 :=
  let odd := e % 2 = 1
  let m' := (if odd then 2 * m else m) * 2 ^ 64
  let e' := (if odd then e - 1 else e) - 64
  let r := isqrt m'
  roundF f mode false r (e' / 2) (r * r != m')

/-- Whether x is below y: both finite or infinite, +0 and −0 equal. -/
def flt (x y : FVal) : Bool :=
  match x, y with
  | .inf a, .inf b => a && !b
  | .inf a, .fin _ _ _ => a
  | .fin _ _ _, .inf b => !b
  | .fin n1 m1 e1, .fin n2 m2 e2 => decide ((dyadicAdd (signed n1 m1) e1 (-(signed n2 m2)) e2).1 < 0)
  | _, _ => false

/-- A total order of the bits of a format's non-NaN values, −0 below +0. -/
def Fmt.key (f : Fmt) (b : Nat) : Int :=
  let m := b % 2 ^ (f.ebits + f.fbits)
  if b / 2 ^ (f.ebits + f.fbits) % 2 = 1 then -(m : Int) - 1 else m

/-- The bits that have a key. -/
def Fmt.unkey (f : Fmt) (k : Int) : Nat := if k < 0 then f.zero true + (-k - 1).toNat else k.toNat

/-- The smaller or larger of two values (R144): the bits and the flags. -/
def fminmax (f : Fmt) (mx : Bool) (x y : Nat) : Nat × BitVec 5 :=
  let a := decodeF f x
  let b := decodeF f y
  if a.isNan || b.isNan then (if a.isNan && b.isNan then f.qnan else if a.isNan then y else x, sigFlag [a, b])
  else (if decide (f.key x < f.key y) != mx then x else y, 0)

/-! ### Raising flags (R42, R43) -/

/-- The flags of an operation set in FPSTAT against its slot, and the first one recorded in FEREC when V is 0. -/
def raiseFlags (g : Group) (slot : Nat) (at_ : BAddr) (fl : BitVec 5) : Group :=
  if fl = 0 then g
  else
    let g := { g with fpstat := g.fpstat ||| ((fl.setWidth 32) <<< (5 * slot)) }
    if g.ferec.getLsbD 63 then g
    else
      let i := ((List.range 5).find? (fun i => fl.getLsbD i)).getD 0
      { g with ferec := 1#1 ++ 0#10 ++ BitVec.ofNat 3 slot ++ BitVec.ofNat 3 i ++ at_ }

end Sys2Proof.Machine
end

