-- ==== Sys2Proof/Machine/Formats.lean ====
section
/-! DEFINITION. The number formats that conversions name, and the pairs they accept (R154, R155). -/

namespace Sys2Proof.Machine

/-- The formats of R154. -/
inductive NumFmt where
  | f32 | bf16 | f16 | i32 | n32 | i16 | n16 | i8 | n8 | b4 | b8 | b12 | ci32 | c4 | c8
  deriving DecidableEq, Repr

/-- The kinds of formats (R155). -/
inductive FmtKind where
  | real | block | complex
  deriving DecidableEq, Repr

/-- The kind of a format (R155). -/
def NumFmt.kind : NumFmt → FmtKind
  | .b4 | .b8 | .b12 => .block
  | .ci32 | .c4 | .c8 => .complex
  | _ => .real

/-- The width of an element in bits: codes for a block format (R46, R156). -/
def NumFmt.width : NumFmt → Nat
  | .f32 | .i32 | .n32 => 32
  | .bf16 | .f16 | .i16 | .n16 | .c8 => 16
  | .i8 | .n8 | .c4 | .b8 => 8
  | .b4 => 4
  | .b12 => 12
  | .ci32 => 64

/-- The binary format, for f32, bf16 and f16. -/
def NumFmt.float? : NumFmt → Option Fmt
  | .f32 => some Machine.f32
  | .bf16 => some Machine.bf16
  | .f16 => some Machine.f16
  | _ => none

/-- Whether an integer format (or the part of a complex one) is signed. -/
def NumFmt.signed : NumFmt → Bool
  | .n32 | .n16 | .n8 => false
  | _ => true

/-- The destination of a conversion (R154). -/
def cvtDest (op : Nat) : NumFmt :=
  match op with
  | 0x30 => .f32 | 0x31 => .bf16 | 0x32 => .f16 | 0x33 => .i32 | 0x34 => .n32 | 0x35 => .i16 | 0x36 => .n16
  | 0x37 => .i8 | 0x38 => .n8 | 0x39 => .b4 | 0x3A => .b8 | 0x3B => .b12 | 0x3C => .c4 | 0x3D => .c8 | _ => .ci32

/-- The source of a conversion, by TYPE and XSRC (R154). -/
def cvtSource (typ xsrc : Nat) : Option NumFmt :=
  match typ with
  | 0 => some .f32 | 1 => some .bf16 | 2 => some .f16 | 3 => some .i32 | 4 => some .i16 | 5 => some .i8 | 6 => some .ci32
  | _ =>
    match xsrc with
    | 0 => some .n32 | 1 => some .n16 | 2 => some .n8 | 3 => some .b4 | 4 => some .b8 | 5 => some .b12 | 6 => some .c4
    | 7 => some .c8
    | _ => none

/-- Whether a pair of formats is accepted (R155). -/
def cvtPair (src dst : NumFmt) : Bool :=
  let byteWide (f : NumFmt) : Bool := f == .i8 || f == .n8
  let fine (real blk : NumFmt) : Bool := !(byteWide real && (blk == .b8 || blk == .b12))
  match src.kind, dst.kind with
  | .real, .real => true
  | .real, .block => fine src dst
  | .block, .real => fine dst src
  | .complex, .complex => true
  | .real, .complex => src == .f32
  | .complex, .real => dst == .f32
  | _, _ => false

end Sys2Proof.Machine
end

