-- ==== Sys2Proof/Machine/Types.lean ====
section
/-! DEFINITION. Which TYPE codes and CAPMASK bits each operation accepts (R33, R81 to R84). -/

namespace Sys2Proof.Machine

/-- A list of CAPMASK.FMT bits, counted from bit 40, that must all be set (R33). -/
def needFmt (s : State) (bs : List Nat) : Bool := bs.all (fun b => fmtBit s b)

/-- ia (R119, R122). -/
def iaTypeOk (op typ : Nat) : Bool :=
  decide (typ < 6) && (!(op == 0x0C || op == 0x0D || op == 0x24 || op == 0x25) || decide (typ < 2))

/-- The CAPMASK.FMT bits of a number format, counted from bit 40 (R140). -/
def NumFmt.bit : NumFmt → Nat
  | .f32 => 0
  | .bf16 | .f16 => 1
  | .i32 | .n32 | .i16 | .n16 | .i8 | .n8 | .ci32 => 2
  | .b4 => 3 | .b8 => 4 | .b12 => 5
  | .c4 | .c8 => 6

/-- The lane formats of the fv TYPE codes (R139). -/
def fvFmt (typ : Nat) : NumFmt :=
  match typ with | 0 => .f32 | 1 => .bf16 | 2 => .f16 | 3 => .i32 | 4 => .i16 | 5 => .i8 | _ => .ci32

/-- XSRC: bits [3:0] of the b value of the lowest enabled lane (R154). -/
def xsrcOf (p : Port) (en : Mask) : Nat := ((uniform en p.b).extractLsb' 0 4).toNat

/-- A conversion (R154, R155): source and destination format, if the pair is accepted. With no enabled lane XSRC is not checked;
the destination's FMT bit is (R140). -/
def cvtOk (s : State) (p : Port) (en : Mask) (op typ : Nat) : Bool :=
  let d := cvtDest op
  if typ = 7 ∧ en = 0 then needFmt s [d.bit]
  else
    match cvtSource typ (xsrcOf p en) with
    | none => false
    | some f => cvtPair f d && needFmt s [f.bit, d.bit]

/-- fv (R140 to R142, R154). -/
def fvTypeOk (s : State) (p : Port) (en : Mask) (op typ : Nat) : Bool :=
  let fmt := needFmt s [(fvFmt typ).bit]
  if 0x30 ≤ op then cvtOk s p en op typ
  else if typ = 7 then false
  else if op < 0x10 then decide (typ < 3) && fmt
  else if op = 0x10 ∨ op = 0x11 then decide (3 ≤ typ) && fmt
  else if op < 0x16 then decide (3 ≤ typ ∧ typ < 6) && fmt
  else if op < 0x1C then true
  else if op = 0x1C ∨ op = 0x1D then (typ == 0 || typ == 6) && fmt
  else if op = 0x1E then (typ == 0 || typ == 5) && fmt
  else if op = 0x1F then decide (typ < 6) && fmt
  else true

/-- sf (R160 to R162). -/
def sfTypeOk (s : State) (op typ : Nat) : Bool :=
  if 0x10 ≤ op then typ == 0 && needFmt s [0]
  else decide (typ < 3) && needFmt s (if typ = 0 then [0] else [0, 1])

/-- xl (R187). -/
def xlTypeOk (s : State) (op typ : Nat) : Bool :=
  if op < 0x10 then typ == 0 else typ == 0 || typ == 1 || (typ == 2 && fmtBit s 0)

/-- ls (R210, R221): TYPE, and the scope of the scoped operations. -/
def lsTypeOk (op typ mod : Nat) : Bool :=
  if op = 2 ∨ op = 3 ∨ op = 6 then typ == 0
  else if op < 0x10 then decide (typ < 7) && (!(op == 4 || op == 5) || mod != 7)
  else
    let k := op % 16
    (if k = 9 then typ == 2 else decide (typ < 5) && typ != 2) && mod != 7

/-- The FMT bits of a source format of mx (R258, R262). -/
def mxFmts (t : Nat) : List Nat := match t with | 0 | 5 => [3] | 1 | 6 => [4] | 2 => [5] | 3 | 4 => [6] | _ => [5, 1]

/-- The FMT bits of a drain mode of mx (R258, R272). -/
def drainFmts (t : Nat) : List Nat := match t with | 0 => [0] | 1 => [1] | 2 => [2] | 3 => [7] | _ => []

/-- mx (R258). -/
def mxTypeOk (s : State) (op typ : Nat) : Bool :=
  match op with
  | 0 => needFmt s (mxFmts typ)
  | 4 => decide (typ < 5) && needFmt s (drainFmts typ)
  | 7 => decide (typ < 3)
  | 8 => (typ == 0 || typ == 2 || typ == 3) && needFmt s (drainFmts typ)
  | _ => typ == 0

/-- The system registers: none where R373 omits the number, else whether an unprivileged group may read and write it, and
whether a privileged one may write it. -/
def sysReg (n : Nat) : Option (Bool × Bool × Bool) :=
  if n ≤ 1 then some (true, true, true)
  else if n ≤ 3 then some (true, false, false)
  else if 0x10 ≤ n ∧ n ≤ 0x19 then some (false, false, true)
  else if 0x20 ≤ n ∧ n ≤ 0x22 then some (false, false, false)
  else if 0x30 ≤ n ∧ n ≤ 0x32 then some (false, false, false)
  else none

/-- TYPE, FMT and scope of a trigger (check 4 of R80), with the port set and the lanes that it has; br's loop operations
also need the rotation enable and HMODE 0 (R183, R366), rdsys and wrsys the register number and its access (R373), a
conversion from an external format its XSRC (R154). -/
def opOk (s : State) (g : Group) (p : Port) (en : Mask) (cls : UnitCls) (op : Nat) (t : Trig) : Bool :=
  let typ := t.typ.toNat
  let mod := t.mod.toNat
  match cls with
  | .ia => iaTypeOk op typ
  | .fv => fvTypeOk s p en op typ
  | .sf => sfTypeOk s op typ
  | .xl => xlTypeOk s op typ
  | .ls => lsTypeOk op typ mod
  | .sp => op == 0 || typ == 0
  | .cp => if op = 2 then decide (typ < 6) else typ == 0
  | .mx => mxTypeOk s op typ
  | .br => (if op ≤ 4 then decide (typ ≤ 1) else typ == 0) && !((op == 6 || op == 7) && g.hmode) &&
      !(op == 7 && !g.rotate)
  | .sy => typ == 0 && !((op == 4 || op == 5 || op == 6) && mod == 7)
  | .ss =>
    if op ≤ 1 then
      let n := (p.aux.extractLsb' 0 8).toNat
      typ == 0 &&
        (match sysReg n with
          | none => false
          | some (ur, uw, pw) => op == 0 || (if g.hmode then pw else uw || !ur))
    else if op = 4 ∨ op = 5 then decide (typ ≤ 1)
    else typ == 0 && !(op == 6 && mod == 7)
  | .ln => typ == 0

/-- Privilege of a trigger (check 2 of R80): ss operations other than trap, and the registers marked "—" (R84, R373). -/
def privOk (g : Group) (p : Port) (cls : UnitCls) (op : Nat) : Bool :=
  g.hmode ||
    (match cls with
      | .ss =>
        if op = 2 ∨ 0x0A < op then true
        else if op ≤ 1 then
          (match sysReg (p.aux.extractLsb' 0 8).toNat with | some (ur, _, _) => ur | none => true)
        else false
      | _ => true)

/-- Whether a trigger's operation appends a result entry (R79). -/
def returnsEntry (cls : UnitCls) (op : Nat) : Bool :=
  match cls with
  | .ls => op != 6
  | .cp => decide (3 ≤ op)
  | .mx | .ln => true
  | .sy => !(op == 4 || op == 5 || op == 6)
  | .ss => !(op == 2 || op == 3)
  | _ => false

end Sys2Proof.Machine
end

