-- ==== Sys2Proof/Machine/Bundle.lean ====
section
/-! DEFINITION. Issuing a bundle: eligibility and choice (R26, R27), the issue checks (R80), reading the sources, the frame
in which every move runs, and the end of a bundle (R177). -/

namespace Sys2Proof.Machine

/-! ### The moves of a bundle -/

/-- The slots of a bundle that hold moves. -/
def usedSlots (w : BitVec 256) : List Nat := List.range (slotsUsed w)

/-- The fields of slot i. -/
def slotFields (w : BitVec 256) (i : Nat) : Move40 := fieldsOf (slotWord w i)

/-- Destination of a move for R74 and R75: the unit code, and the port or register. -/
def destKey (m : Move40) : Option (Nat × Nat) :=
  let u := m.dunit.toNat
  if u < 4 then some (u, (m.dport ++ m.op).toNat) else if u = 31 then none else some (u, m.dport.toNat)

/-- The class of R75 that a unit code counts in, and its limit. -/
def limitClass (u : Nat) : Option (Nat × Nat) :=
  match unitOfCode u with
  | some (.ia, _) => some (0, 2)
  | some (.fv, _) => some (1, 3)
  | some (.sf, _) => some (2, 1)
  | some (.xl, _) => some (3, 1)
  | some (.ls, _) | some (.sp, _) | some (.cp, _) | some (.mx, _) | some (.ln, _) => some (4, 2)
  | some (.br, _) => some (5, 1)
  | some (.sy, _) => some (6, 1)
  | some (.ss, _) => some (7, 1)
  | none => none

/-- Whether slot i goes over a limit of R75. Which slot of a bundle over a limit fails the check is open: the model blames the
slot that goes over it (DESIGN CHOICE, log 49). -/
def overLimit (w : BitVec 256) (i : Nat) : Bool :=
  match limitClass (slotFields w i).dunit.toNat with
  | none => false
  | some (k, n) =>
    decide (n < ((List.range (i + 1)).filter (fun j =>
      (limitClass (slotFields w j).dunit.toNat).map (·.1) == some k)).length)

/-- Check 1 of R80 (R61, R63, R65, R75): the lowest slot that breaks it. A fault of the whole bundle (MCNT 7, or bits 247:240)
names no slot: the record shows slot 0 (DESIGN CHOICE, log 49). -/
def checkBundleFields (w : BitVec 256) : Option Nat :=
  if w.extractLsb' 253 3 = 7 ∨ w.extractLsb' 240 8 ≠ 0 then some 0
  else
    (List.range 6).find? (fun i =>
      if slotsUsed w ≤ i then slotWord w i != 0
      else (slotFields w i).rsv != 0 || !(slotFields w i).src.wf || overLimit w i)

/-- Whether a register-file source or destination is one of k112 to k127 (R65, R71). -/
def handlerK (m : Move40) : Bool :=
  (m.src.scls == 0 && m.src.ssel.extractLsb' 8 2 == 2 && decide (112 ≤ (m.src.ssel.extractLsb' 0 8).toNat) &&
      decide ((m.src.ssel.extractLsb' 0 8).toNat < 128)) ||
    (m.dunit == 2 && decide (112 ≤ (m.dport ++ m.op).toNat) && decide ((m.dport ++ m.op).toNat < 128))

/-- The class and operation code of a trigger move. -/
def trigFieldsOf (m : Move40) : Option (UnitCls × Nat × Trig) :=
  match unitOfCode m.dunit.toNat with
  | some (c, n) => if m.dport = 2 then some (c, m.op.toNat, ⟨m.src, n, m.typ, m.mod⟩) else none
  | none => none

/-- The lanes enabled for slot i of a bundle: those of the record for a re-performed slot, else its guard's (R64, R375). -/
def slotMask (g : Group) (b : Bundle) (i : Nat) : Mask :=
  match tfind b.en i with | some m => m | none => guardMask g (slotFields b.word i).src

/-- Whether slot i reads its source now (a re-performed slot whose value the record holds does not). -/
def readsNow (b : Bundle) (i : Nat) : Bool := (tfind b.val i).isNone

/-- The slots of a bundle that are still to be performed. -/
def openSlots (b : Bundle) : List Nat := (usedSlots b.word).filter (fun i => !b.done.contains i)

/-- A port latches the enabled lanes; aux the value of the lowest-numbered one (R72). -/
def latchPort (x : Port) (p : PortName) (m : Mask) (v : Row) : Port :=
  if m = 0 then x
  else
    match p with
    | .a => { x with a := merge m v x.a }
    | .b => { x with b := merge m v x.b }
    | .aux => { x with aux := uniform m v }

/-- The port that a DPORT code names. -/
def portOfCode (d : BitVec 2) : PortName := if d = 0 then .a else if d = 1 then .b else .aux

/-- The port set of a unit as a trigger of the bundle reads it: with the bundle's own latches (R73). -/
def latched (s : State) (c sl : Nat) (g : Group) (b : Bundle) (u : Nat) : Port :=
  (openSlots b).foldl (fun p i =>
    let m := slotFields b.word i
    if m.dunit.toNat = u ∧ m.dport ≠ 2 then
      latchPort p (portOfCode m.dport) (slotMask g b i)
        (match tfind b.val i with | some v => v | none => readSrc s c sl g b.addr m.src)
    else p) (port g u)

/-- Check 2 of R80: privilege. -/
def checkPriv (s : State) (c sl : Nat) (g : Group) (b : Bundle) (i : Nat) : Bool :=
  let m := slotFields b.word i
  (g.hmode || !handlerK m) &&
    (match trigFieldsOf m with | some (cls, op, _) => privOk g (latched s c sl g b m.dunit.toNat) cls op | none => true)

/-- The number of registers of a file that a group may name (R65). -/
def fileLimit (g : Group) (f : Nat) : Nat :=
  match f with | 0 => g.gcount | 1 => g.vrows | 2 => 128 | _ => 16

/-- Whether the source of a move is legal (R65, R67, R68). -/
def srcOk (g : Group) (src : Src) : Bool :=
  let peekOk := !src.peek || (readsQueue src).isSome
  peekOk &&
    (match src.scls.toNat with
      | 0 => decide ((src.ssel.extractLsb' 0 8).toNat < fileLimit g (src.ssel.extractLsb' 8 2).toNat)
      | 1 =>
        let u := (src.ssel.extractLsb' 5 5).toNat
        decide (4 ≤ u ∧ u ≤ 22 ∧ u ≠ 19) && (src.ssel.extractLsb' 3 2 != 3 || varUnit u)
      | 2 => true
      | _ => decide (src.ssel.toNat < 0x11))

/-- Whether the destination of a move is legal (R70 to R72). -/
def dstOk (g : Group) (m : Move40) : Bool :=
  let u := m.dunit.toNat
  if u < 4 then
    m.typ == 0 && m.mod == 0 && decide ((m.dport ++ m.op).toNat < fileLimit g u) && !(u == 3 && m.dport ++ m.op == 0)
  else if u = 31 then m.dport == 0 && m.op == 0 && m.typ == 0 && m.mod == 0
  else if 22 < u then false
  else if m.dport = 2 then true
  else
    m.op == 0 && m.typ == 0 && m.mod == 0 && portExists u (if m.dport = 0 then .a else if m.dport = 1 then .b else .aux)

/-- Check 4 of R80: the operation code is assigned, and its TYPE, FMT and scope are accepted. -/
def checkOp (s : State) (c sl : Nat) (g : Group) (b : Bundle) (i : Nat) : Bool :=
  let m := slotFields b.word i
  match trigFieldsOf m with
  | some (cls, op, t) =>
    (opOf cls op t).isSome && opOk s g (latched s c sl g b m.dunit.toNat) (slotMask g b i) cls op t
  | none => true

/-- The units whose queue heads a bundle removes (R67). -/
def popped (g : Group) (b : Bundle) : List Nat :=
  distinct ((openSlots b).filterMap (fun i =>
    let src := (slotFields b.word i).src
    match readsQueue src with
    | some u => if readsNow b i && slotMask g b i != 0 && !src.peek then some u else none
    | none => none))

/-- Check 5 of R80: R74 and the ninth entry of R79. Every move of a clashing pair fails it. -/
def checkConflict (g : Group) (b : Bundle) (i : Nat) : Bool :=
  let m := slotFields b.word i
  let clash := (openSlots b).any (fun j => j != i && (destKey m).isSome && destKey (slotFields b.word j) == destKey m)
  let ninth := match trigFieldsOf m with
    | some (c, op, _) =>
      let u := m.dunit.toNat
      slotMask g b i != 0 && returnsEntry c op && decide (8 ≤ (port g u).q.length) && !(popped g b).contains u
    | none => false
  !clash && !ninth

/-- Check 6 of R80: the read of a port that has no entry. -/
def checkEmpty (g : Group) (b : Bundle) (i : Nat) : Bool :=
  match readsQueue (slotFields b.word i).src with
  | some u => !(readsNow b i && slotMask g b i != 0 && (port g u).q.isEmpty)
  | none => true

/-- The slices of a v row of the group that a move reads, as accesses of a core window (R106, R291). -/
def vRowElems (c : Nat) (g : Group) (src : Src) (m : Mask) : List Elem :=
  if src.scls = 0 ∧ src.ssel.extractLsb' 8 2 = 1 ∧ (src.ssel.extractLsb' 0 8).toNat < g.vrows then
    let row := g.vbase + (src.ssel.extractLsb' 0 8).toNat
    (lanes32.filter (fun L => m.getLsbD L)).map (fun L =>
      { lane := L, off := 0, len := 16, va := 0, pa := windowBase c + 0xC0000 + row * 512 + L * 16 })
  else []

/-- How one slice of a v row stands to physically keyed channels (R106, R291). -/
def sliceCompare (s : State) (c : Nat) (g : Group) (e : Elem) : Compare :=
  let rs := ((core s c).chans.filter (fun q => q.2.phys.isSome || q.2.ring.isSome)).map (fun q => compare1 g.part q.2 e)
  if rs.contains .abandoned then .abandoned else if rs.contains .held then .held else .pass

/-- The slices that slot i reads now (R106). -/
def slicesOf (c : Nat) (g : Group) (b : Bundle) (i : Nat) : List Elem :=
  if readsNow b i then vRowElems c g (slotFields b.word i).src (slotMask g b i) else []

/-- How the v-row reads of slot i stand to physically keyed channels (R106). -/
def vRowCompare (s : State) (c : Nat) (g : Group) (b : Bundle) (i : Nat) : Compare :=
  let rs := (slicesOf c g b i).map (sliceCompare s c g)
  if rs.contains .abandoned then .abandoned else if rs.contains .held then .held else .pass

/-- The lowest lane whose slice lies above the final watermark of an abandoned channel (R368). -/
def abandonedLane (s : State) (c : Nat) (g : Group) (b : Bundle) (i : Nat) : Nat :=
  (((slicesOf c g b i).find? (fun e => sliceCompare s c g e == .abandoned)).map (·.lane)).getD 0

/-- The first issue check that fails, in the order of R80, and the copy-abandoned fault of R106. -/
def issueFault (s : State) (c sl : Nat) (g : Group) (b : Bundle) : Option SlotFault :=
  let mk (cause : Nat) (i : Nat) : SlotFault := { slot := i, cause := cause }
  match checkBundleFields b.word with
  | some i => some (mk 0x01 i)
  | none =>
    let os := openSlots b
    let f (i : Nat) := slotFields b.word i
    match os.find? (fun i => !checkPriv s c sl g b i) with
    | some i => some (mk 0x02 i)
    | none =>
      match os.find? (fun i => !(srcOk g (f i).src && dstOk g (f i))) with
      | some i => some (mk 0x03 i)
      | none =>
        match os.find? (fun i => !checkOp s c sl g b i) with
        | some i => some (mk 0x04 i)
        | none =>
          match os.find? (fun i => !checkConflict g b i) with
          | some i => some (mk 0x05 i)
          | none =>
            match os.find? (fun i => !checkEmpty g b i) with
            | some i => some (mk 0x06 i)
            | none => (os.find? (fun i => vRowCompare s c g b i == .abandoned)).map (fun i =>
                { mk 0x18 i with lane := abandonedLane s c g b i })

/-! ### What keeps a bundle from issuing (R26) -/

/-- Passes and mxloads of a pair, and its drains and mxsaves, issued and not retired (R257, R266). -/
def mxCount (k : Core) (engine : Bool) : Nat :=
  (k.mxops.filter (fun o => (o.kind == .pass || o.kind == .load) == engine)).length

/-- Whether the follower of a pair is slaved (R265). -/
def slaved (s : State) (c : Nat) : Bool := decide (0 < mxCount (core s (leaderOf c)) true)

/-- Whether a running channel makes cpgo, cphalo or cpring wait (R288, R297). -/
def channelBusy (s : State) (c : Nat) (g : Group) (ch : Nat) : Bool :=
  let k := tget {} (core s c).chans ch
  k.own == some g.team && k.ring.isNone && (k.st == .armed || k.st == .landing || k.st == .frozen)

/-- Whether a trigger counts as a move that reads a pending port (R265, R266, R288, R297, R393, R394). -/
def trigStalls (s : State) (c : Nat) (g : Group) (p : Port) (cls : UnitCls) (op : Nat) : Bool :=
  match cls with
  | .cp => (op == 3 || op == 7 || op == 8) && channelBusy s c g (p.aux.extractLsb' 0 3).toNat
  | .mx =>
    (leaderOf c != c && slaved s c) ||
      (leaderOf c == c &&
        (((op == 3 || op == 6) && decide (4 ≤ mxCount (core s c) true)) ||
          ((op == 4 || op == 5 || op == 8) && decide (4 ≤ mxCount (core s c) false))))
  | .sy =>
    let b := (p.aux.extractLsb' 0 4).toNat
    if op = 0 ∨ op = 2 then
      (tget {} (team s g.team).nb b).mask.getLsbD g.gid || g.arrive.any (fun p => p.1 == b)
    else op == 3 && (g.cbarIn || g.arrive.any (fun p => p.1 == 16))
  | _ => false

/-- Whether a move keeps its bundle from issuing now. -/
def slotStalls (s : State) (c sl : Nat) (g : Group) (b : Bundle) (i : Nat) : Bool :=
  let m := slotFields b.word i
  let en := slotMask g b i
  en != 0 &&
    ((match readsQueue m.src with
        | some u => readsNow b i &&
          (match (port g u).q with
            | [] => false
            | e :: _ => isPending e || decide ((core s c).cycle < e.filled))
        | none => false) ||
      vRowCompare s c g b i == .held ||
      (match trigFieldsOf m with | some (cls, op, _) => trigStalls s c g (latched s c sl g b m.dunit.toNat) cls op | none => false) ||
      (m.dport == 0 && decide (13 ≤ m.dunit.toNat ∧ m.dunit.toNat ≤ 16) &&
        (let st := tget {} g.streams m.dunit.toNat
         st.active && (tget 0 st.words 1).getLsbD 23 && decide (8 ≤ st.unwritten.length))))

/-- What the fault record kept of the bundle at an address: nothing if the handler has written another one's address into FRADDR. -/
def keptAt (g : Group) (at_ : BAddr) : Option Kept :=
  match g.kept with | some k => if k.addr = at_ then some k else none | none => none

/-- Whether slot i of a bundle is a br move. -/
def isBr (w : BitVec 256) (i : Nat) : Bool := (slotFields w i).dunit == 0x13

/-- The slots that a return does not perform again: those that FRMASK names. A br slot of another bundle than the record's is worked
out at the return, since step 3 needs what it does (R375; DEDUCED, log 49). -/
def redoDone (g : Group) (w : BitVec 256) : List Nat :=
  (List.range 6).filter (fun i => g.frmask.getLsbD i &&
    ((keptAt g g.pc).isSome || !decide (i < slotsUsed w) || !isBr w i))

/-- What a return re-performs of the bundle at FRADDR (R375): the br action of its record stands only if its br slot completed. -/
def redoBundle (g : Group) (w : BitVec 256) : Bundle :=
  let done := redoDone g w
  let left := (usedSlots w).filter (fun i => !done.contains i)
  { addr := g.pc, word := w, done := done
    en := (usedSlots w).map (fun i => (i, mkMask (fun L => (lane g.frstage L).getLsbD (122 + i))))
    val := (left.filter (fun i => (lane g.frstage 0).extractLsb' (8 * i + 5) 2 == 2)).map (fun i => (i, tget 0 g.frsv i))
    places := match keptAt g g.pc with | some k => k.places | none => []
    lstep := (lane g.frstage 0).getLsbD 55
    br := if left.any (isBr w) then none else (keptAt g g.pc).bind (·.br) }

/-- The bundle that a group would issue next, if the fetch buffer holds it (R26), with what a return has left of it. -/
def nextBundle (g : Group) : Option Bundle :=
  (tfind g.fetch (g.pc.toNat / 2)).map (fun d =>
    let w : BitVec 256 := d.extractLsb' (256 * (g.pc.toNat % 2)) 256
    if g.redo then redoBundle g w else { addr := g.pc, word := w })

/-- Whether a group runs too far ahead of the slowest group of its team (R29). -/
def farAhead (s : State) (c : Nat) (g : Group) : Bool :=
  (team s g.team).slots.any (fun p =>
    let o := group s c p.2
    !o.ended && decide (o.pc.toNat + 128 < g.pc.toNat))

/-- Whether a group may issue in this cycle (R26, R181, R369). The checks of R80 come when it is chosen. -/
def eligible (s : State) (c sl : Nat) (g : Group) : Bool :=
  !g.ended && !g.saving && !g.busy && !(g.yielding && decide (0 < g.yieldLeft)) && notHeld g && !farAhead s c g &&
    (g.hmode || g.redo || g.late.isEmpty) && decide (g.wake ≤ (core s c).cycle) &&
    (match nextBundle g with
      | none => false
      | some b => !(openSlots b).any (fun i => slotStalls s c sl g b i))

/-- The slots of a core whose groups may issue: those that were eligible when the cycle began (R28) and still are. -/
def eligibleSlots (s : State) (c : Nat) : List Nat :=
  ((core s c).groups.filter (fun p => (core s c).ready.contains p.1 && eligible s c p.1 p.2)).map (·.1)

/-- Whether slot x goes before slot y (R27). -/
def before (s : State) (c x y : Nat) : Bool :=
  let a := group s c x
  let b := group s c y
  let la := decide (64 ≤ a.waited)
  let lb := decide (64 ≤ b.waited)
  if la != lb then la
  else if la && a.waited != b.waited then decide (b.waited < a.waited)
  else if a.cls != b.cls then decide (b.cls < a.cls)
  else if a.age != b.age then decide (a.age < b.age)
  else decide (x < y)

/-- The slot that a core chooses (R27). -/
def chosen (s : State) (c : Nat) : Option Nat :=
  (eligibleSlots s c).foldl (fun o x => match o with | none => some x | some y => if before s c x y then some x else some y) none

/-! ### Issue (R73) -/

/-- Whether slot i triggers a drain, which reads no port but t (R272, R274). -/
def forDrain (b : Bundle) (i : Nat) : Bool :=
  match trigFieldsOf (slotFields b.word i) with
  | some (.mx, op, _) => op == 4 || op == 8
  | _ => false

/-- The order in which the slots of a bundle are carried out: latches, triggers, then the other destinations (R73, R76). A drain
comes first: its rows are leased in all of its issue cycle (R274). -/
def planOf (b : Bundle) : List Nat :=
  let os := (openSlots b).filter (fun i => !forDrain b i)
  let first := (openSlots b).filter (forDrain b)
  let u (i : Nat) := (slotFields b.word i).dunit.toNat
  let unit (i : Nat) : Bool := decide (4 ≤ u i ∧ u i ≤ 22)
  let trig (i : Nat) : Bool := (slotFields b.word i).dport == 2
  first ++ os.filter (fun i => unit i && !trig i) ++ os.filter (fun i => unit i && trig i) ++ os.filter (fun i => !unit i)

/-- Whether an accumulator row is leased to the matrix engine (R274). -/
def rowLeased (s : State) (c row : Nat) : Bool := (core s c).leases.any (fun l => l.1 == row)

/-- The lanes enabled for each slot at issue (R64, R368). -/
def enabledAt (g : Group) (b : Bundle) : Tbl Mask := (openSlots b).foldl (fun t i => tput t i (slotMask g b i)) b.en

/-- The words of a g register of the group that slot i reads now, as accesses of the core window (R71, R202). -/
def gregsOf (c : Nat) (g : Group) (b : Bundle) (i : Nat) : List Elem :=
  let src := (slotFields b.word i).src
  if readsNow b i ∧ src.scls = 0 ∧ src.ssel.extractLsb' 8 2 = 0 then
    (lanes32.filter (fun L => (slotMask g b i).getLsbD L)).map (fun L =>
      { lane := L, off := 0, len := 4, va := 0, pa := gregAddr c g.gbase (src.ssel.extractLsb' 0 8).toNat + 4 * L })
  else []

/-- The fault of a slot that reads a v row or a g register whose data holds an uncorrectable error (R191). A leased row faults as
such. -/
def rowError (s : State) (c : Nat) (g : Group) (b : Bundle) (i : Nat) : Option SlotFault :=
  let rows := if rowLeased s c (g.vbase + ((slotFields b.word i).src.ssel.extractLsb' 0 8).toNat) then [] else slicesOf c g b i
  ((rows ++ gregsOf c g b i).find? (fun e => failingAt s e.pa e.len)).map (fun e => { slot := i, cause := 0x19, lane := e.lane })

/-- Step 1 of R73: every source is read and every head removed. A stream vector that met a fault raises it against the slot
that pops it, and its stream stops (R234). DESIGN CHOICE: a peek of such a vector reads what its entry holds, and raises nothing
(log 53). -/
def capture (s : State) (c sl : Nat) (b : Bundle) : State :=
  let g := group s c sl
  let os := openSlots b
  let val := os.foldl (fun t i =>
    if readsNow b i then tput t i (readSrc s c sl g b.addr (slotFields b.word i).src) else t) b.val
  let pops := popped g b
  let errs := os.filterMap (fun i =>
    match readsQueue (slotFields b.word i).src with
    | some u =>
      if readsNow b i && slotMask g b i != 0 && pops.contains u then
        (match (port g u).q with
          | e :: _ => e.err.map (fun x => ({ slot := i, cause := x.1, fva := x.2.1, lane := x.2.2 } : SlotFault))
          | [] => none)
      else none
    | none => none) ++ os.filterMap (rowError s c g b)
  let plan := (planOf b).filter (fun i => !(errs.any (fun f => f.slot == i)))
  modGroup s c sl (fun g =>
    let g := pops.foldl (fun g u =>
      match (port g u).q with
      | e :: _ =>
        if e.err.isSome then
          { modPort g u (fun p => { p with q := [] }) with
            streams := tput g.streams u { tget {} g.streams u with active := false, flt := true } }
        else streamPop (popHead g u) u
      | [] => g) g
    let g := pops.foldl streamFill g
    { g with
      busy := true, redo := false, waited := 0, nseq := g.nseq + 6
      bun := { b with
        at_ := cycleOf s c, seq := g.nseq, en := enabledAt g b, val := val, plan := plan, faults := errs ++ b.faults
        places := os.foldl (fun t i => tput t i (g.nseq + i)) b.places } })

/-- A group issues a bundle: a failed check traps, else its sources are read (R73, R80). -/
def issueBundle (s : State) (c sl : Nat) (b : Bundle) : State :=
  let g := group s c sl
  match issueFault s c sl g b with
  | some f => issueTrap (modGroup s c sl (fun g => { g with bun := b })) c sl { b with en := enabledAt g b } f
  | none => countEvent (capture s c sl b) c 1 (some g.part) 1

/-! ### The frame in which a move runs -/

/-- The bundle that holds one move, for a move that is carried out by itself (log 3). -/
def soloWord (i : Instr) : BitVec 256 := 1#3 ++ 0#213 ++ BitVec.ofNat 40 (encode i)

/-- A move carried out by itself is issued as a bundle of its own at the group's program counter. -/
def openSolo (s : State) (c sl : Nat) (i : Instr) : State :=
  let g := group s c sl
  let b : Bundle := { addr := g.pc, word := soloWord i }
  if slotStalls s c sl g b 0 then s
  else
    modGroup (issueBundle s c sl b) c sl (fun g =>
      if g.bun.plan = [0] then { g with bun := { g.bun with plan := [], now := some 0 } } else g)

/-- Whether the source of a move that enables a lane names a leased v row (R71, R106, R274). -/
def readsLeased (s : State) (c sl k : Nat) (src : Src) : Bool :=
  let g := group s c sl
  src.scls == 0 && src.ssel.extractLsb' 8 2 == 1 && tget 0 g.bun.en k != 0 &&
    rowLeased s c (g.vbase + (src.ssel.extractLsb' 0 8).toNat)

/-- A move runs: in the slot of the bundle that the current group is carrying out, or as a bundle of its own. f gets the
core, the slot of the group and the slot of the bundle. A source that names a leased row faults (R106). -/
def runMove (i : Instr) (s : State) (f : State → Nat → Nat → Nat → State) : State :=
  match s.cur with
  | none => s
  | some (c, sl) =>
    let s := if (group s c sl).bun.now.isSome then s else openSolo s c sl i
    match (group s c sl).bun.now with
    | none => s
    | some k =>
      if readsLeased s c sl k (fieldsOf (BitVec.ofNat 40 (encode i))).src then
        slotFault (countEvent s c 0xF (some (group s c sl).part) 1) c sl 0x0B 0
          ((lowest (tget 0 (group s c sl).bun.en k)).getD 0)
      else f s c sl k

/-- The operands of a trigger: lanes, T, a, b and aux (R72). -/
structure Opnd where
  en : Mask
  t : Row
  a : Row
  b : Row
  aux : BitVec 128
  deriving DecidableEq, Repr

/-- The operands of the trigger in slot k for a unit (R72, R73). -/
def operands (s : State) (c sl k u : Nat) : Opnd :=
  let g := group s c sl
  let p := port g u
  { en := tget 0 g.bun.en k, t := tget 0 g.bun.val k, a := p.a, b := p.b, aux := p.aux }

/-- The unit code of a trigger. -/
def unitCode (cls : UnitCls) (t : Trig) : Nat := cls.base + t.inst.toNat

/-- A trigger runs with its operands; one with no enabled lane starts nothing (R77). -/
def runTrig (i : Instr) (cls : UnitCls) (t : Trig) (s : State) (f : State → Nat → Nat → Nat → Opnd → State) : State :=
  runMove i s (fun s c sl k =>
    let o := operands s c sl k (unitCode cls t)
    if o.en = 0 then s else f s c sl k o)

/-- What a fixed-latency operation computes: r, b if it writes b too, and the flags. -/
structure FixedRes where
  r : Row
  b : Option Row := none
  fl : BitVec 5 := 0
  deriving DecidableEq, Repr

/-- A fixed-latency operation of latency n: its result is written at the end of cycle c + n − 1 (R78). -/
def runFixed (i : Instr) (cls : UnitCls) (t : Trig) (n : Nat) (s : State) (f : Opnd → FixedRes) : State :=
  runTrig i cls t s (fun s c sl k o =>
    let u := unitCode cls t
    let x := f o
    let cyc := cycleOf s c
    modGroup s c sl (fun g =>
      { g with pipe := g.pipe ++ [{ unit := u, hand := inHand g u, due := cyc + n - 1, lanes := o.en, val := x.r, bval := x.b
                                    flags := x.fl, addr := g.bun.addr, slot := k, issued := cyc }] }))

/-- An entry appended for the trigger in slot k (R79). -/
def addEntry (s : State) (c sl k u : Nat) (o : Opnd) (v : Row) (p : Pend) : State :=
  modGroup s c sl (fun g =>
    pushEntry g (inHand g u) u { val := v, dis := ~~~o.en, pend := p, addr := g.bun.addr, slot := k, seq := g.bun.seq + k })

/-- An entry of a non-waiting operation that fills n cycles after its issue cycle (R84). -/
def addTimed (s : State) (c sl k u : Nat) (o : Opnd) (n : Nat) (v : Slice) : State :=
  addEntry s c sl k u o (splat v) (.timed (cycleOf s c + n))

/-! ### The end of a bundle (R177) -/

/-- Physical predicate i of a group set. -/
def putQ (g : Group) (i : Nat) (m : Mask) : Group := { g with q := tput g.q i m }

/-- REM, STG and ROT of LCNT (R182). -/
def remOf (x : BitVec 32) : Nat := (x.extractLsb' 0 28).toNat

/-- Whether a br action takes the group away from the next bundle (R185). -/
def takenBranch (a : Option BrAct) : Bool :=
  match a with | some (.goto _) | some (.call _) | some .ret => true | _ => false

/-- Whether a bundle holds a loopi or loop trigger, whatever its lanes (R184). -/
def holdsLoop (w : BitVec 256) : Bool :=
  (usedSlots w).any (fun i => match trigFieldsOf (slotFields w i) with
    | some (.br, op, _) => op == 6 || op == 7
    | _ => false)

/-- Step 2 of R177: the loop start, or else the closing step (R182 to R185). -/
def loopStep (g : Group) (b : Bundle) : Group :=
  match b.br with
  | some (.loopi n) =>
    if n = 0 then { g with lcnt := 0 } else { g with ltop := b.addr + 1, lcnt := 0#4 ++ n }
  | some (.loop n stg ls) =>
    if n = 0 then { g with lcnt := 0 }
    else
      let rem := min (n.toNat + stg.toNat) (2 ^ 28 - 1)
      let g := { g with ltop := b.addr + 1, lcnt := 1#1 ++ stg ++ BitVec.ofNat 28 rem, qrot := 0 }
      (List.range 7).foldl (fun g j => putQ g (9 + j) 0) (putQ g 8 ls)
  | br =>
    if !b.word.getLsbD 251 || g.hmode || remOf g.lcnt = 0 || holdsLoop b.word then g
    else if takenBranch br then { g with lcnt := g.lcnt.extractLsb' 28 4 ++ 0#28 }
    else
      let rem := remOf g.lcnt - 1
      let g' := { g with lcnt := g.lcnt.extractLsb' 28 4 ++ BitVec.ofNat 28 rem }
      if g.lcnt.getLsbD 31 then
        let old8 := readPhysQ g (8 + g.qrot.toNat)
        let rot : BitVec 3 := BitVec.ofNat 3 ((g.qrot.toNat + 7) % 8)
        putQ { g' with qrot := rot } (8 + rot.toNat)
          (if (g.lcnt.extractLsb' 28 3).toNat + 1 ≤ rem then old8 else 0)
      else g'

/-- Whether the bundle goes back to LTOP: it closes a loop that has executions left, and no branch was taken (R184). -/
def backEdge (g : Group) (b : Bundle) : Bool :=
  b.word.getLsbD 251 && !g.hmode && decide (0 < remOf g.lcnt) && !takenBranch b.br && !holdsLoop b.word

/-- Step 3 of R177: the new program counter; a call at depth 8 and a ret at depth 0 raise a return-stack fault (R179). -/
def pcStep (s : State) (c sl : Nat) : State :=
  let g := group s c sl
  let b := g.bun
  let i := ((usedSlots b.word).find? (fun i => (slotFields b.word i).dunit == 0x13)).getD 0
  let done (f : Group → Group) : State := modGroup s c sl (fun g => { f g with busy := false, bun := {} })
  let stackFault : State :=
    slotTrap (modGroup s c sl (fun g => { g with bun := { g.bun with
      lstep := true, faults := [{ slot := i, cause := 0x0D }] } })) c sl { slot := i, cause := 0x0D }
  match b.br with
  | some (.goto t) => done (fun g => { g with pc := t })
  | some (.call t) =>
    if g.rsd = 8 then stackFault
    else done (fun g => { g with rstk := tput g.rstk g.rsd (b.addr + 1), rsd := g.rsd + 1, pc := t })
  | some .ret =>
    if g.rsd = 0 then stackFault
    else done (fun g => { g with rsd := g.rsd - 1, pc := tget 0 g.rstk (g.rsd - 1) })
  | some (.yield n) =>
    let left := b.at_ + n.toNat + 2 - cycleOf s c
    done (fun g => { g with
      pc := if backEdge g b then g.ltop else b.addr + 1, yielding := decide (0 < left), yieldLeft := left })
  | _ => done (fun g => { g with pc := if backEdge g b then g.ltop else b.addr + 1 })

/-- The slots of a bundle that were performed now with an enabled lane (R385): not those that faulted or completed before. -/
def performedSlots (b : Bundle) : List Nat :=
  (openSlots b).filter (fun i => tget 0 b.en i != 0 && !b.faults.any (fun f => f.slot == i))

/-- A group that has left the handler keeps no line in its fetch buffer that it may not fetch now (R12, R206). -/
def dropPrivate (s : State) (c sl : Nat) : State :=
  modGroup s c sl (fun g => { g with fetch := g.fetch.filter (fun l => match fetchTranslate s c g.part false (l.1 * 64) with
    | .fault cz => cz != 0x09
    | .ok _ _ => true) })

/-- The end of a bundle whose slots have all been carried out and decided (R177, R369, R374, R375, R385). -/
def finishBundle (s : State) (c sl : Nat) : State :=
  let g := group s c sl
  let b := g.bun
  let s := countEvent s c 2 (some g.part) (performedSlots b).length
  let looped (s : State) : State := if b.lstep then s else modGroup s c sl (fun g => loopStep g b)
  match worstFault b.faults, b.trap with
  | some f, some (i, code) => if i < f.slot then softTrap s c sl i code else slotTrap s c sl f
  | some f, none => slotTrap s c sl f
  | none, some (i, code) => softTrap (looped s) c sl i code
  | none, none =>
      let stop := b.word.getLsbD 252
      if b.rti then
        if stop then endGroup s c sl
        else dropPrivate (returnFromTrap (modGroup s c sl (fun g => { g with busy := false, bun := {} })) c sl) c sl
      else if stop || b.br == some .halt then endGroup s c sl
      else pcStep (looped s) c sl

/-- The bundle of a group ends if nothing of it is left. -/
def settle (s : State) (c sl : Nat) : State :=
  let g := group s c sl
  if g.busy && g.bun.plan.isEmpty && g.bun.undecided.isEmpty then finishBundle s c sl else s

end Sys2Proof.Machine
end

