-- ==== Sys2Proof/Machine/Ls.lean ====
section
/-! DEFINITION. The ls operations (R209 to R225): starting an access, and performing one. -/

namespace Sys2Proof.Machine

/-! ### The access of a pending entry -/

/-- The access that an entry waits for. -/
def accOf (p : Pend) : Option Access :=
  match p with | .mem a => some a | .mwait a _ _ => some a | .wmwait _ a => some a | _ => none

/-- The entry's wait with its access replaced. -/
def setAcc (p : Pend) (a : Access) : Pend :=
  match p with | .mem _ => .mem a | .mwait _ n t => .mwait a n t | .wmwait ch _ => .wmwait ch a | p => p

/-- The place of the entry whose access has a place in program order. -/
def entryOfSeq (g : Group) (hand : Bool) (u seq : Nat) : Option Nat :=
  (portOf g hand u).q.findIdx? (fun e => match accOf e.pend with | some a => a.seq == seq | none => false)

/-- The access of a group with a place in program order: in a queue, among unwritten pushes, or of the matrix engine. -/
def findAccess (s : State) (c sl u : Nat) (hand : Bool) (seq : Nat) : Option Access :=
  let g := group s c sl
  match entryOfSeq g hand u seq with
  | some i => (entryAt g hand u i).bind (fun e => accOf e.pend)
  | none =>
    match (tget {} g.streams u).unwritten.find? (fun a => a.seq == seq) with
    | some a => some a
    | none =>
      if u = 18 then ((core s c).mxops.find? (fun o => o.slot == sl && o.seq == seq)).bind (fun o => o.access) else none

/-- The same access replaced. -/
def putAccess (s : State) (c sl u : Nat) (hand : Bool) (a : Access) : State :=
  let g := group s c sl
  match entryOfSeq g hand u a.seq with
  | some i =>
    modGroup s c sl (fun g => match entryAt g hand u i with
      | some e => setEntry g hand u i { e with pend := setAcc e.pend a }
      | none => g)
  | none =>
    if u = 18 then
      modCore s c (fun k => { k with mxops := k.mxops.map (fun o =>
        if o.slot = sl ∧ o.seq = a.seq then { o with access := some a } else o) })
    else
      modGroup s c sl (fun g =>
        let st := tget {} g.streams u
        { g with streams := tput g.streams u { st with
            unwritten := st.unwritten.map (fun x => if x.seq = a.seq then a else x) } })

/-- The access and its entry removed (R222). -/
def dropAccess (s : State) (c sl u : Nat) (hand : Bool) (seq : Nat) : State :=
  let g := group s c sl
  match entryOfSeq g hand u seq with
  | some i => modGroup s c sl (fun g => dropEntry g hand u i)
  | none =>
    if u = 18 then
      let ids := ((core s c).mxops.filter (fun o => o.slot == sl && o.seq == seq)).map (·.id)
      let s := modCore s c (fun k => { k with mxops := k.mxops.filter (fun o => !(ids.contains o.id)) })
      modGroup s c sl (fun g =>
        match (portOf g false 18).q.findIdx? (fun e => match e.pend with | .mx id => ids.contains id | _ => false) with
        | some i => dropEntry g false 18 i
        | none => g)
    else
      modGroup s c sl (fun g =>
        let st := tget {} g.streams u
        { g with streams := tput g.streams u { st with unwritten := st.unwritten.filter (fun x => x.seq != seq) } })

/-! ### Starting an access (R222, R369) -/

/-- The origin field of a fault-buffer entry for a group slot (R324). -/
def originOf (c sl : Nat) : Nat := c + sl * 1024

/-- An access whose walk finds an absent page: one that the compare holds waits for the watermark and is translated when it is
let go (R224; DEDUCED, log 31); any other is parked (R222, R337). -/
def parkOrHold (s : State) (c sl u : Nat) (hand : Bool) (a : Access) (key : Key) (v : Nat) : State :=
  match compareAbsent s c (group s c sl).team a with
  | .pass =>
    parkAccess (putAccess s c sl u hand { a with stat := .parked key v, held := false }) c (.entry c sl u hand a.seq) key v
      (originOf c sl) 0 a.kind
  | _ => putAccess s c sl u hand { a with stat := .walking, held := true }

/-- A page walk starts for an access, and the slot waits for it (R330, R369). -/
def startWalk (s : State) (c sl k u : Nat) (hand : Bool) (a : Access) : State :=
  let d := die s (dieOf c)
  let s := modDie s (dieOf c) (fun x => { x with
    nextWalk := d.nextWalk + 1
    walks := x.walks ++ [{ id := d.nextWalk, part := a.part, core := c, slot := sl, unit := u, hand := hand, seq := a.seq, bslot := k }] })
  modGroup s c sl (fun g => { g with bun := { g.bun with undecided := g.bun.undecided ++ [k] } })

/-- An access whose translation is decided at its trigger, or whose walk starts; `add` appends what waits for it. -/
def beginAccess (s : State) (c sl k u : Nat) (a : Access) (add : State → Access → State) : State :=
  let hand := inHand (group s c sl) u
  match decideAccess s c (group s c sl).team a false with
  | .ready a' => add (fillWalks s c a) a'
  | .fault cz v l => slotFault (leaseEvent (fillWalks s c a) c a.part cz) c sl cz v l
  | .park key v =>
    parkAccess (add (fillWalks s c a) { a with stat := .parked key v }) c (.entry c sl u hand a.seq) key v (originOf c sl) 0 a.kind
  | .walks => startWalk (add s (stampPast s c (group s c sl).team a)) c sl k u hand a

/-- An access with an entry of its unit's queue. -/
def entryAccess (s : State) (c sl k u : Nat) (o : Opnd) (a : Access) (mk : Access → Pend) : State :=
  beginAccess s c sl k u a (fun s a => addEntry s c sl k u o 0 (mk a))

/-- One element per enabled lane at the lane's own address T (R209). -/
def laneElems (o : Opnd) (w : Nat) : List Elem :=
  (lanes32.filter (fun L => o.en.getLsbD L)).map (fun L =>
    { lane := L, off := 0, len := w, va := (lane o.t L).toNat % 2 ^ 52 })

/-- 16 bytes per enabled lane from a uniform base (R209, R211). -/
def rowElems (o : Opnd) : List Elem :=
  let b := (uniform o.en o.t).toNat % 2 ^ 52
  (lanes32.filter (fun L => o.en.getLsbD L)).map (fun L => { lane := L, off := 0, len := 16, va := (b + 16 * L) % 2 ^ 52 })

/-- An ls operation that returns an entry. -/
def runLs (i : Instr) (t : Trig) (s : State) (mk : Opnd → Access) : State :=
  runTrig i .ls t s (fun s c sl k o =>
    let g := group s c sl
    let a := { mk o with typ := t.typ, lanes := o.en, seq := placeOf s c sl, part := g.part, priv := g.hmode }
    let s := entryAccess s c sl k (unitCode .ls t) o a .mem
    if a.acq then modGroup s c sl (fun g => markAcquire g a.seq a.wide) else s)

/-- ld, ldacq and ldnc (R211, R214, R217). -/
def loadOf (t : Trig) (acq nc : Bool) (o : Opnd) : Access :=
  { kind := .load, elems := laneElems o (lsWidth t.typ), acq := acq, wide := wideScope t.mod, nc := nc }

/-- st, strel and st.mc (R212, R217, R218): a 128-bit store takes its data from aux (R209). -/
def storeOf (t : Trig) (rel mc : Bool) (o : Opnd) : Access :=
  { kind := .store, elems := laneElems o (lsWidth t.typ), data := if t.typ = 6 then splat o.aux else o.a
    rel := rel, wide := wideScope t.mod, mc := mc }

/-- An atomic (R215): its number in the order of R84, and the ordering of its form (R217). -/
def atomicOf (t : Trig) (op : Nat) (acq rel : Bool) (o : Opnd) : Access :=
  { kind := .atomic, op := op, elems := laneElems o (atWidth t.typ), data := o.a, cmp := o.aux
    acq := acq, rel := rel, wide := wideScope t.mod }

/-- pf (R213): the lines are brought into the L1; it returns nothing and never faults. Its translations fill the TLBs, and their
misses count (R332, R385). -/
def prefetch (s : State) (c sl : Nat) (o : Opnd) : State :=
  let g := group s c sl
  let a : Access := { kind := .load, elems := (laneElems o 1), part := g.part, priv := g.hmode }
  match decideAccess s c g.team a true with
  | .ready a' =>
    a'.elems.foldl (fun s e => if regionOf e.pa = 0 && !e.home then (l1Read s c (some g.part) e.attr e.pa e.len).1 else s)
      (fillWalks s c a)
  | _ => fillWalks s c a

/-! ### Performing an access -/

/-- The accesses of a group that are not performed yet. -/
def pendingAccesses (s : State) (c sl : Nat) : List Access :=
  let g := group s c sl
  (allEntries g).filterMap (fun x => match x.2.2.2.pend with | .mem a => some a | _ => none) ++
    g.streams.flatMap (fun p => p.2.unwritten) ++
    ((core s c).mxops.filter (fun o => o.slot == sl && o.kind == .save)).filterMap (fun o => o.access)

/-- Whether two elements share a byte: by physical address, or by virtual address where the page of one is absent (log 31). -/
def share (x y : Elem) : Bool :=
  if x.pa = 2 ^ 60 ∨ y.pa = 2 ^ 60 then decide (x.va < y.va + y.len) && decide (y.va < x.va + x.len)
  else decide (x.pa < y.pa + y.len) && decide (y.pa < x.pa + x.len)

/-- Whether two accesses of a team's group on a core touch a common byte. -/
def overlap (s : State) (c tid : Nat) (a b : Access) : Bool :=
  (touched s c tid a).any (fun x => (touched s c tid b).any (fun y => share x y))

/-- Whether the bytes that two elements share all lie in a guarded range at or above its watermark, so that a store takes effect
under a held load and the landing overwrites it (R224). -/
def underWatermark (s : State) (c p : Nat) (x y : Elem) : Bool :=
  (List.range y.len).all (fun i =>
    !(decide (x.pa ≤ y.pa + i) && decide (y.pa + i < x.pa + x.len)) ||
      compareAccess s c p [{ y with va := y.va + i, pa := y.pa + i, len := 1 }] == .held)

/-- Whether program order keeps an access behind an earlier one of its group (R219, R224, R235, R243): they share a byte. A stream
read holds none. -/
def behind (s : State) (c tid : Nat) (a b : Access) : Bool :=
  overlap s c tid a b && b.kind != .streamRead &&
    !((a.kind == .store || a.kind == .streamWrite) && b.held &&
      (touched s c tid a).all (fun x => (touched s c tid b).all (fun y => underWatermark s c b.part x y)))

/-- Whether two accesses of a group go to one 64-byte line of another package: they arrive in program order (R406). -/
def sameRemoteLine (s : State) (c tid : Nat) (a b : Access) : Bool :=
  (located s c tid a).any (fun x => remoteAt s x.pa && (located s c tid b).any (fun y => x.pa / 64 == y.pa / 64))

/-- The places of the acquires of a group that have not completed (R217, R245, R393, R394, R397). -/
def openAcquires (g : Group) : List Nat :=
  (allEntries g).filterMap (fun x => match x.2.2.2.pend with
    | .mem a => if a.acq then some a.seq else none
    | .twait sel _ => if (ctrOf sel).acquires then some x.2.2.2.seq else none
    | .mwait _ _ _ | .bar _ | .cbar => some x.2.2.2.seq
    | _ => none)

/-- Whether a load or stream read may go as far as the acquires before it say: each has completed, and every load before it has
been performed (R217, R236, R245, R247; DEDUCED, log 49). A stream fetches nothing while an acquire is open. -/
def acquiresDone (s : State) (c sl : Nat) (a : Access) : Bool :=
  let g := group s c sl
  let before (m : Nat) : Bool := a.kind == .streamRead || decide (m < a.seq)
  !((openAcquires g).any before) &&
    (pendingAccesses s c sl).all (fun b => !(b.kind == .load || b.kind == .atomic) ||
      !(g.acquires.any (fun m => before m.1 && decide (b.seq < m.1))))

/-- Whether every access before a fence that an access follows has been performed (R246). Stream vectors were discarded at the
fence. -/
def fencesDone (s : State) (c sl : Nat) (a : Access) : Bool :=
  (pendingAccesses s c sl).all (fun b => b.kind == .streamRead ||
    !((group s c sl).fences.any (fun m => (a.kind == .streamRead || decide (m < a.seq)) && decide (b.seq < m))))

/-- Whether program order and the orderings of R217, R245 and R246 let an access be performed now (R219, R241, R274, R406). -/
def orderOk (s : State) (c sl : Nat) (a : Access) : Bool :=
  let tid := (group s c sl).team
  (pendingAccesses s c sl).all (fun b => decide (a.seq ≤ b.seq) || !(behind s c tid a b || sameRemoteLine s c tid a b)) &&
    fencesDone s c sl a &&
    (!(a.kind == .load || a.kind == .streamRead) || acquiresDone s c sl a) &&
    (!a.rel || releaseDone s c sl a.seq a.wide) &&
    !a.elems.any (fun e => touchesLease s e.pa e.len) &&
    (a.kind != .atomic || !a.elems.any (fun e => (List.range e.len).any (fun i => hiddenAt s (e.pa + i))))


/-- Whether a read of bytes fails: they hold an uncorrectable error, or the host's or another package's answer reports one
(R191). -/
def readFails (s : State) (pa n : Nat) : Bool :=
  failingAt s pa n || ((remoteAt s pa || regionOf pa == 1) && Config.remoteError s.fresh)

/-- The element of an access whose data holds an uncorrectable error, if the access needs it (R191, R223). -/
def badElem (s : State) (c : Nat) (a : Access) : Option Elem :=
  if a.kind == .store || a.kind == .streamWrite then none
  else
    a.elems.find? (fun e =>
      let cached := usesL1 s c a e && a.kind != .atomic &&
        (match tfind (core s c).l1 (e.pa / 64) with | some l => l1Valid s c l | none => false)
      !cached && readFails s e.pa e.len)

/-- The new value of an atomic (R215): sg signed, w bits. -/
def atomicNew (op w : Nat) (sg : Bool) (old x cmp : Nat) : Nat :=
  let v (n : Nat) : Int := if sg then (BitVec.ofNat w n).toInt else n
  match op with
  | 0 => (old + x) % 2 ^ w
  | 1 => (old + 2 ^ w - x) % 2 ^ w
  | 2 => if v x < v old then x else old
  | 3 => if v old < v x then x else old
  | 4 => old &&& x
  | 5 => old ||| x
  | 6 => old ^^^ x
  | 7 => x
  | 8 => if old = cmp then x else old
  | _ => (fadd f32 .rne (decodeF f32 old) (decodeF f32 x)).1

/-- The old value that a lane of an atomic reads: bytes that a lower lane wrote to another package's memory stand in `mine`, all
other memory already holds them (R215). -/
def atomicOld (s : State) (c : Nat) (e : Elem) (mine : List Host.Cell) : Nat :=
  leNat ((List.range e.len).map (fun i => (cellFind mine (e.pa + i)).getD (physByte s (some c) (e.pa + i))))

/-- One lane of an atomic (R215): the state, the old value, W, and the bytes written to another package's memory. -/
def atomicLane (s : State) (c : Nat) (a : Access) (e : Elem) (mine : List Host.Cell) :
    State × Nat × BitVec 64 × List Host.Cell :=
  let w := 8 * e.len
  let old := atomicOld s c e mine
  let x := (lane a.data e.lane).toNat % 2 ^ w
  let cmp := a.cmp.toNat % 2 ^ w
  if a.op = 8 ∧ old ≠ cmp then
    (s, old, if regionOf e.pa = 0 then gtime s (homeDie e.pa) else coreTime s c, mine)
  else
    let cs := leCells e.pa e.len (atomicNew a.op w (a.typ == 0 || a.typ == 3) old x cmp)
    let (s', t) := performWrite s (some c) none (dieOf c) e.attr.prop cs
    (s', old, t, if remoteAt s e.pa then mine ++ cs else mine)

/-- Lanes of an atomic performed, in increasing lane number, but for the last `later` of those left: the state, the old values, and
the atomic with what is left of it and its W so far. -/
def performAtomic (s : State) (c later : Nat) (a : Access) : State × Row × Access :=
  let n := a.elems.length - later
  let (s, olds, w, _) := (a.elems.take n).foldl (fun (p : State × List (Nat × Nat) × BitVec 64 × List Host.Cell) e =>
    let (s', o, t, m) := atomicLane p.1 c a e p.2.2.2; (s', p.2.1 ++ [(e.lane, o)], tmax p.2.2.1 t, m)) (s, [], a.w, [])
  ({ s with fresh := s.fresh + 1 }, mkRow (fun L => BitVec.ofNat 128 (tget 0 olds L)), { a with elems := a.elems.drop n, w := w })

/-- Elements of a load read, but for those whose bit of `later` is 1: the state, the values, and the load with what is left of it. -/
def performLoad (s : State) (c later : Nat) (ext : Nat → Slice) (a : Access) : State × Row × Access :=
  let of (left : Bool) : List Elem := (a.elems.zipIdx.filter (fun x => later.testBit x.2 == left)).map (·.1)
  let (s, v) := readElems s c { a with elems := of false } ext
  (s, v, { a with elems := of true })

/-- An ls access performed, or a part of it, as accesses to disjoint bytes take effect in any order (R211, R215, R219): the state, what
its entry gains, and what is left of the access. -/
def performLs (s : State) (c later : Nat) (a : Access) : State × Row × Access :=
  match a.kind with
  | .store => let (s, a) := performStore s c later a; (s, 0, a)
  | .atomic => performAtomic s c later a
  | _ => performLoad s c later (extendLoad a.typ) a

/-- The value of the entry of an access whose parts have all been performed, from what they gave (R211, R215, R220). -/
def lsResult (a : Access) (v : Row) : Row :=
  match a.kind with
  | .store => splat (lo64 a.w)
  | .atomic => mkRow (fun L => a.w ++ (lane v L).setWidth 64)
  | _ => v

/-- What an access whose parts have all been performed does to its group (R111, R217, R247). -/
def lsDone (s : State) (c sl : Nat) (a : Access) : State :=
  let s := if writes a.kind then raisePwt s c sl a.w else s
  let s := if a.kind = .store then s else acquireBehind s c sl a.seq
  if a.acq then acquire s c sl a.wide else s

/-- The entry of an access is removed and its group takes a fault of kind D (R223, R225). -/
def accessFault (s : State) (c sl u : Nat) (hand : Bool) (i cause fva : Nat) : State :=
  let at_ := ((entryAt (group s c sl) hand u i).map (·.addr)).getD 0
  postLate (modGroup s c sl (fun g => dropEntry g hand u i)) c sl (dFault cause fva u at_)

/-- An ls access at place i of a queue is performed, but for the parts left for later; its entry fills once none is left (R79, R220). -/
def fillParts (s : State) (c sl u : Nat) (hand : Bool) (i later : Nat) (a : Access) : State :=
  let (s, v, a) := performLs s c later a
  let s := if a.elems.isEmpty then lsDone s c sl a else if a.kind = .load then acquireBehind s c sl a.seq else s
  modGroup s c sl (fun g => match entryAt g hand u i with
    | some e =>
      if a.elems.isEmpty then fillEntry g (cycleOf s c) hand u i (lsResult a (e.val ||| v))
      else setEntry g hand u i { e with val := e.val ||| v, pend := .mem a }
    | none => g)

/-- A pending ls access at place i of a queue: it is compared (R224), and performed when order allows (R219). After a copy element
has landed in a core's cycle, its accesses wait for the next one (R291, R300). -/
def fillAccess (s : State) (c sl u : Nat) (hand : Bool) (i : Nat) (a : Access) : State :=
  if a.stat != .ready || a.held || (core s c).landed || unanswered s c a.sent (a.elems.map (·.pa)) then s
  else
    match (if a.kind == .store then .pass else compareAccess s c a.part a.elems) with
    | .held => putAccess s c sl u hand { a with held := true }
    | .abandoned => accessFault s c sl u hand i 0x18 (abandonedAt s c a).1
    | .pass =>
      if !orderOk s c sl a then s
      else
        match badElem s c a with
        | some e => { accessFault s c sl u hand i 0x19 e.va with fresh := s.fresh + 1 }
        | none => fillParts s c sl u hand i (selAt s 5) a

/-! ### The meanings -/

/-- ld (R211) -/
def execLsLd (t : Trig) (s : State) : Host.Outcome State Fault Refusal :=
  .next (runLs (.lsLd t) t s (loadOf t false false))

/-- st (R212) -/
def execLsSt (t : Trig) (s : State) : Host.Outcome State Fault Refusal :=
  .next (runLs (.lsSt t) t s (storeOf t false false))

/-- ldv (R211) -/
def execLsLdv (t : Trig) (s : State) : Host.Outcome State Fault Refusal :=
  .next (runLs (.lsLdv t) t s (fun o => { kind := .load, elems := rowElems o }))

/-- stv (R212) -/
def execLsStv (t : Trig) (s : State) : Host.Outcome State Fault Refusal :=
  .next (runLs (.lsStv t) t s (fun o => { kind := .store, elems := rowElems o, data := o.a }))

/-- ldacq (R217) -/
def execLsLdacq (t : Trig) (s : State) : Host.Outcome State Fault Refusal :=
  .next (runLs (.lsLdacq t) t s (loadOf t true false))

/-- strel (R217) -/
def execLsStrel (t : Trig) (s : State) : Host.Outcome State Fault Refusal :=
  .next (runLs (.lsStrel t) t s (storeOf t true false))

/-- pf (R213) -/
def execLsPf (t : Trig) (s : State) : Host.Outcome State Fault Refusal :=
  .next (runTrig (.lsPf t) .ls t s (fun s c sl _ o => prefetch s c sl o))

/-- ldnc (R214) -/
def execLsLdnc (t : Trig) (s : State) : Host.Outcome State Fault Refusal :=
  .next (runLs (.lsLdnc t) t s (loadOf t false true))

/-- st.mc (R218) -/
def execLsStMc (t : Trig) (s : State) : Host.Outcome State Fault Refusal :=
  .next (runLs (.lsStMc t) t s (storeOf t false true))

/-- aadd (R215, R217) -/
def execLsAadd (t : Trig) (s : State) : Host.Outcome State Fault Refusal :=
  .next (runLs (.lsAadd t) t s (atomicOf t 0 false false))

/-- asub (R215, R217) -/
def execLsAsub (t : Trig) (s : State) : Host.Outcome State Fault Refusal :=
  .next (runLs (.lsAsub t) t s (atomicOf t 1 false false))

/-- amin (R215, R217) -/
def execLsAmin (t : Trig) (s : State) : Host.Outcome State Fault Refusal :=
  .next (runLs (.lsAmin t) t s (atomicOf t 2 false false))

/-- amax (R215, R217) -/
def execLsAmax (t : Trig) (s : State) : Host.Outcome State Fault Refusal :=
  .next (runLs (.lsAmax t) t s (atomicOf t 3 false false))

/-- aand (R215, R217) -/
def execLsAand (t : Trig) (s : State) : Host.Outcome State Fault Refusal :=
  .next (runLs (.lsAand t) t s (atomicOf t 4 false false))

/-- aor (R215, R217) -/
def execLsAor (t : Trig) (s : State) : Host.Outcome State Fault Refusal :=
  .next (runLs (.lsAor t) t s (atomicOf t 5 false false))

/-- axor (R215, R217) -/
def execLsAxor (t : Trig) (s : State) : Host.Outcome State Fault Refusal :=
  .next (runLs (.lsAxor t) t s (atomicOf t 6 false false))

/-- axch (R215, R217) -/
def execLsAxch (t : Trig) (s : State) : Host.Outcome State Fault Refusal :=
  .next (runLs (.lsAxch t) t s (atomicOf t 7 false false))

/-- acas (R215, R217) -/
def execLsAcas (t : Trig) (s : State) : Host.Outcome State Fault Refusal :=
  .next (runLs (.lsAcas t) t s (atomicOf t 8 false false))

/-- aaddf (R215, R217) -/
def execLsAaddf (t : Trig) (s : State) : Host.Outcome State Fault Refusal :=
  .next (runLs (.lsAaddf t) t s (atomicOf t 9 false false))

/-- aadd, acquire form (R215, R217) -/
def execLsAaddAcq (t : Trig) (s : State) : Host.Outcome State Fault Refusal :=
  .next (runLs (.lsAaddAcq t) t s (atomicOf t 0 true false))

/-- asub, acquire form (R215, R217) -/
def execLsAsubAcq (t : Trig) (s : State) : Host.Outcome State Fault Refusal :=
  .next (runLs (.lsAsubAcq t) t s (atomicOf t 1 true false))

/-- amin, acquire form (R215, R217) -/
def execLsAminAcq (t : Trig) (s : State) : Host.Outcome State Fault Refusal :=
  .next (runLs (.lsAminAcq t) t s (atomicOf t 2 true false))

/-- amax, acquire form (R215, R217) -/
def execLsAmaxAcq (t : Trig) (s : State) : Host.Outcome State Fault Refusal :=
  .next (runLs (.lsAmaxAcq t) t s (atomicOf t 3 true false))

/-- aand, acquire form (R215, R217) -/
def execLsAandAcq (t : Trig) (s : State) : Host.Outcome State Fault Refusal :=
  .next (runLs (.lsAandAcq t) t s (atomicOf t 4 true false))

/-- aor, acquire form (R215, R217) -/
def execLsAorAcq (t : Trig) (s : State) : Host.Outcome State Fault Refusal :=
  .next (runLs (.lsAorAcq t) t s (atomicOf t 5 true false))

/-- axor, acquire form (R215, R217) -/
def execLsAxorAcq (t : Trig) (s : State) : Host.Outcome State Fault Refusal :=
  .next (runLs (.lsAxorAcq t) t s (atomicOf t 6 true false))

/-- axch, acquire form (R215, R217) -/
def execLsAxchAcq (t : Trig) (s : State) : Host.Outcome State Fault Refusal :=
  .next (runLs (.lsAxchAcq t) t s (atomicOf t 7 true false))

/-- acas, acquire form (R215, R217) -/
def execLsAcasAcq (t : Trig) (s : State) : Host.Outcome State Fault Refusal :=
  .next (runLs (.lsAcasAcq t) t s (atomicOf t 8 true false))

/-- aaddf, acquire form (R215, R217) -/
def execLsAaddfAcq (t : Trig) (s : State) : Host.Outcome State Fault Refusal :=
  .next (runLs (.lsAaddfAcq t) t s (atomicOf t 9 true false))

/-- aadd, release form (R215, R217) -/
def execLsAaddRel (t : Trig) (s : State) : Host.Outcome State Fault Refusal :=
  .next (runLs (.lsAaddRel t) t s (atomicOf t 0 false true))

/-- asub, release form (R215, R217) -/
def execLsAsubRel (t : Trig) (s : State) : Host.Outcome State Fault Refusal :=
  .next (runLs (.lsAsubRel t) t s (atomicOf t 1 false true))

/-- amin, release form (R215, R217) -/
def execLsAminRel (t : Trig) (s : State) : Host.Outcome State Fault Refusal :=
  .next (runLs (.lsAminRel t) t s (atomicOf t 2 false true))

/-- amax, release form (R215, R217) -/
def execLsAmaxRel (t : Trig) (s : State) : Host.Outcome State Fault Refusal :=
  .next (runLs (.lsAmaxRel t) t s (atomicOf t 3 false true))

/-- aand, release form (R215, R217) -/
def execLsAandRel (t : Trig) (s : State) : Host.Outcome State Fault Refusal :=
  .next (runLs (.lsAandRel t) t s (atomicOf t 4 false true))

/-- aor, release form (R215, R217) -/
def execLsAorRel (t : Trig) (s : State) : Host.Outcome State Fault Refusal :=
  .next (runLs (.lsAorRel t) t s (atomicOf t 5 false true))

/-- axor, release form (R215, R217) -/
def execLsAxorRel (t : Trig) (s : State) : Host.Outcome State Fault Refusal :=
  .next (runLs (.lsAxorRel t) t s (atomicOf t 6 false true))

/-- axch, release form (R215, R217) -/
def execLsAxchRel (t : Trig) (s : State) : Host.Outcome State Fault Refusal :=
  .next (runLs (.lsAxchRel t) t s (atomicOf t 7 false true))

/-- acas, release form (R215, R217) -/
def execLsAcasRel (t : Trig) (s : State) : Host.Outcome State Fault Refusal :=
  .next (runLs (.lsAcasRel t) t s (atomicOf t 8 false true))

/-- aaddf, release form (R215, R217) -/
def execLsAaddfRel (t : Trig) (s : State) : Host.Outcome State Fault Refusal :=
  .next (runLs (.lsAaddfRel t) t s (atomicOf t 9 false true))

/-- aadd, acquire-release form (R215, R217) -/
def execLsAaddAr (t : Trig) (s : State) : Host.Outcome State Fault Refusal :=
  .next (runLs (.lsAaddAr t) t s (atomicOf t 0 true true))

/-- asub, acquire-release form (R215, R217) -/
def execLsAsubAr (t : Trig) (s : State) : Host.Outcome State Fault Refusal :=
  .next (runLs (.lsAsubAr t) t s (atomicOf t 1 true true))

/-- amin, acquire-release form (R215, R217) -/
def execLsAminAr (t : Trig) (s : State) : Host.Outcome State Fault Refusal :=
  .next (runLs (.lsAminAr t) t s (atomicOf t 2 true true))

/-- amax, acquire-release form (R215, R217) -/
def execLsAmaxAr (t : Trig) (s : State) : Host.Outcome State Fault Refusal :=
  .next (runLs (.lsAmaxAr t) t s (atomicOf t 3 true true))

/-- aand, acquire-release form (R215, R217) -/
def execLsAandAr (t : Trig) (s : State) : Host.Outcome State Fault Refusal :=
  .next (runLs (.lsAandAr t) t s (atomicOf t 4 true true))

/-- aor, acquire-release form (R215, R217) -/
def execLsAorAr (t : Trig) (s : State) : Host.Outcome State Fault Refusal :=
  .next (runLs (.lsAorAr t) t s (atomicOf t 5 true true))

/-- axor, acquire-release form (R215, R217) -/
def execLsAxorAr (t : Trig) (s : State) : Host.Outcome State Fault Refusal :=
  .next (runLs (.lsAxorAr t) t s (atomicOf t 6 true true))

/-- axch, acquire-release form (R215, R217) -/
def execLsAxchAr (t : Trig) (s : State) : Host.Outcome State Fault Refusal :=
  .next (runLs (.lsAxchAr t) t s (atomicOf t 7 true true))

/-- acas, acquire-release form (R215, R217) -/
def execLsAcasAr (t : Trig) (s : State) : Host.Outcome State Fault Refusal :=
  .next (runLs (.lsAcasAr t) t s (atomicOf t 8 true true))

/-- aaddf, acquire-release form (R215, R217) -/
def execLsAaddfAr (t : Trig) (s : State) : Host.Outcome State Fault Refusal :=
  .next (runLs (.lsAaddfAr t) t s (atomicOf t 9 true true))

/-! ### Stream vectors -/

/-- The access of a vector as its group may make it now: a stream started in handler mode has that privilege only while the group is
in it (R12, R222, R366; DESIGN CHOICE, log 53). One that was translated with it is translated anew. -/
def vectorAccess (g : Group) (a : Access) : Access :=
  if a.priv && !g.hmode then { a with priv := false, stat := if a.stat = .ready then .walking else a.stat } else a

end Sys2Proof.Machine
end

