-- ==== Sys2Proof/Machine/Sy.lean ====
section
/-! DEFINITION. The sy operations and the steps that end their waits (R389 to R400). -/

namespace Sys2Proof.Machine

/-! ### Counters (R391) -/

/-- A copy channel of a core. -/
def chanOf (s : State) (c ch : Nat) : Chan := tget {} (core s c).chans ch

/-- The value of a counter as a core reads it; an unowned channel reads 0. -/
def ctrValue (s : State) (c : Nat) (k : CtrSel) : BitVec 64 :=
  match k with
  | .cseq ch => if (chanOf s c ch).own.isSome then (chanOf s c ch).cseq else 0
  | .tl => (core s (leaderOf c)).tl
  | .frame => s.pkg.frame
  | .gtime => coreTime s c
  | .pmc i => tget 0 (core s c).pmc i
  | .frag => ((core s c).frag).setWidth 64
  | .bad => 0

/-- Whether twait takes the counter (R391). -/
def twaitOk (s : State) (c : Nat) (g : Group) (k : CtrSel) : Bool :=
  match k with
  | .cseq ch => (chanOf s c ch).own == some g.team
  | .tl | .frame => true
  | _ => false

/-- The fault of a tread, if it is refused: a cause (R391). -/
def treadFault (s : State) (c : Nat) (g : Group) (k : CtrSel) : Option Nat :=
  match k with
  | .cseq ch =>
    (match (chanOf s c ch).own with
      | none => none
      | some t => if (team s t).part = g.part then none else some 0x04)
  | .pmc _ => if g.hmode then none else some 0x02
  | .bad => some 0x04
  | _ => none

/-! ### Operations (R389 to R399) -/

/-- A twait whose counter the start of a cycle finds at the awaited value: it ends in the cycle after it, with the counter's value
(R396, R400). -/
def meetTwait (s : State) (c cyc : Nat) (e : QEntry) : QEntry :=
  match e.pend with
  | .twait sel n =>
    let v := ctrValue s c (ctrOf sel)
    if e.met.isNone && decide (n.toNat ≤ v.toNat) then { e with met := some (cyc + 1, false), val := splat (lo64 v) } else e
  | _ => e

/-- How a wmwait stands to its channel as the cycle starts; one that waits for a translation is held (R398). -/
def wmwaitStands (k : Core) (e : QEntry) : Compare :=
  match e.pend with
  | .wmwait ch a =>
    (match a.elems with
      | x :: _ => if a.stat == .ready then compare1 a.part (tget {} k.chans ch) x else .held
      | [] => .held)
  | _ => .held

/-- A wmwait that the start of a cycle finds passed, or abandoned, ends in the cycle after it (R398). -/
def meetWmwait (k : Core) (e : QEntry) : QEntry :=
  match wmwaitStands k e, e.met with
  | .pass, none => { e with met := some (k.cycle + 1, false) }
  | .abandoned, none => { e with met := some (k.cycle + 1, true) }
  | _, _ => e

/-- Whether a wait is on an address outside the ring of its channel: it ends at once (R398). -/
def outsideRing (s : State) (c ch : Nat) (a : Access) : Bool :=
  let q := chanOf s c ch
  ringBound q && a.stat == .ready && a.elems.all (fun e => decide (e.pa < q.rdst) || decide (q.gend ≤ e.pa))

/-- The entry that the trigger in hand has just appended to sy, changed (R396, R398: its counter or channel is compared as the cycle
of its issue began). -/
def lastSy (s : State) (c sl : Nat) (f : QEntry → QEntry) : State :=
  modGroup s c sl (fun g =>
    let i := (portOf g false 20).q.length - 1
    match entryAt g false 20 i with
    | some e => if e.seq = placeOf s c sl then setEntry g false 20 i (f e) else g
    | none => g)

/-- A fault against the trigger's slot. -/
def syFault (s : State) (c sl cause : Nat) (o : Opnd) : State := slotFault s c sl cause 0 ((lowest o.en).getD 0)

/-- An entry of sy. -/
def syEntry (s : State) (c sl k : Nat) (o : Opnd) (p : Pend) : State := addEntry s c sl k 20 o 0 p

/-- An arrival whose release is still to complete (R393, R394). -/
def addArrival (s : State) (c sl b : Nat) : State :=
  let n := placeOf s c sl
  modGroup s c sl (fun g => { g with arrive := g.arrive ++ [(b, n)] })

/-- Whether rel or the release half of fence at a place is complete (R244, R246). -/
def holdDone (s : State) (c sl : Nat) (h : Nat × Bool × BitVec 3) : Bool := releaseDone s c sl h.1 (wideScope h.2.2)

/-- A fence of a group at a place: accesses that follow come after those before it (R246). A place that no pending access stands
before is forgotten. -/
def markFence (s : State) (c sl : Nat) (wide : Bool) : State :=
  let n := placeOf s c sl
  let open_ := (pendingAccesses s c sl).filter (fun b => b.kind != .streamRead)
  modGroup s c sl (fun g =>
    markAcquire { g with fences := g.fences.filter (fun m => open_.any (fun b => decide (b.seq < m))) ++ [n] } n wide)

/-- The hold of a group's mode set (R366). -/
def setHold (g : Group) (hand : Bool) (h : Option (Nat × Bool × BitVec 3)) : Group :=
  if hand then { g with hhold := h } else { g with hold := h }

/-- rel and fence: they complete at once, or hold the group (R244, R246, R395). -/
def holdRelease (s : State) (c sl : Nat) (fence : Bool) (scope : BitVec 3) : State :=
  let h := (placeOf s c sl, fence, scope)
  let s := if fence then markFence s c sl (wideScope scope) else s
  if holdDone s c sl h then (if fence then acquire s c sl (wideScope scope) else s)
  else modGroup s c sl (fun g => setHold g g.hmode (some h))

/-- The state after the trigger of an acquire that completes later. -/
def marked (s : State) (c sl : Nat) (wide : Bool) : State := modGroup s c sl (fun g => markAcquire g (placeOf s c sl) wide)

/-- The barrier that aux names (R393). -/
def barNo (o : Opnd) : Nat := (o.aux.extractLsb' 0 4).toNat

/-- bar (R393) -/
def execSyBar (t : Trig) (s : State) : Host.Outcome State Fault Refusal :=
  .next (runTrig (.syBar t) .sy t s (fun s c sl k o =>
    addArrival (marked (syEntry s c sl k o (.bar (barNo o))) c sl false) c sl (barNo o)))

/-- barw (R393) -/
def execSyBarw (t : Trig) (s : State) : Host.Outcome State Fault Refusal :=
  .next (runTrig (.syBarw t) .sy t s (fun s c sl k o =>
    let p : BitVec 32 := (uniform o.en o.t).setWidth 32
    let gen := (tget {} (team s (group s c sl).team).nb (barNo o)).gen
    let s := syEntry s c sl k o (.barw (barNo o) p)
    if barPassed gen p then
      modGroup s c sl (fun g => fillEntry g (cycleOf s c) false 20 ((portOf g false 20).q.length - 1) (splat (lo32 gen)))
    else s))

/-- barar (R393): the generation at its issue. -/
def execSyBarar (t : Trig) (s : State) : Host.Outcome State Fault Refusal :=
  .next (runTrig (.syBarar t) .sy t s (fun s c sl k o =>
    let gen := (tget {} (team s (group s c sl).team).nb (barNo o)).gen
    addArrival (addTimed s c sl k 20 o 0 (lo32 gen)) c sl (barNo o)))

/-- cbar (R394) -/
def execSyCbar (t : Trig) (s : State) : Host.Outcome State Fault Refusal :=
  .next (runTrig (.syCbar t) .sy t s (fun s c sl k o => addArrival (marked (syEntry s c sl k o .cbar) c sl true) c sl 16))

/-- fence (R246, R395) -/
def execSyFence (t : Trig) (s : State) : Host.Outcome State Fault Refusal :=
  .next (runTrig (.syFence t) .sy t s (fun s c sl _ _ => holdRelease s c sl true t.mod))

/-- acq (R245, R395) -/
def execSyAcq (t : Trig) (s : State) : Host.Outcome State Fault Refusal :=
  .next (runTrig (.syAcq t) .sy t s (fun s c sl _ _ => acquire (marked s c sl (wideScope t.mod)) c sl (wideScope t.mod)))

/-- rel (R244, R395) -/
def execSyRel (t : Trig) (s : State) : Host.Outcome State Fault Refusal :=
  .next (runTrig (.syRel t) .sy t s (fun s c sl _ _ => holdRelease s c sl false t.mod))

/-- twait (R391, R396) -/
def execSyTwait (t : Trig) (s : State) : Host.Outcome State Fault Refusal :=
  .next (runTrig (.syTwait t) .sy t s (fun s c sl k o =>
    let sel : BitVec 8 := o.aux.extractLsb' 0 8
    if twaitOk s c (group s c sl) (ctrOf sel) then
      let s' := lastSy (syEntry s c sl k o (.twait sel ((uniform o.en o.a).setWidth 64))) c sl (meetTwait s c (cycleOf s c))
      if (ctrOf sel).acquires then marked s' c sl true else s'
    else syFault s c sl 0x04 o))

/-- tread (R391, R396) -/
def execSyTread (t : Trig) (s : State) : Host.Outcome State Fault Refusal :=
  .next (runTrig (.syTread t) .sy t s (fun s c sl k o =>
    let x := ctrOf (o.aux.extractLsb' 0 8)
    match treadFault s c (group s c sl) x with
    | some cz => syFault s c sl cz o
    | none => addTimed s c sl k 20 o 1 (lo64 (ctrValue s c x))))

/-- The one element of a uniform address (R209). -/
def uniformElem (o : Opnd) (len : Nat) : List Elem :=
  [{ lane := (lowest o.en).getD 0, off := 0, len := len, va := (uniform o.en o.t).toNat % 2 ^ 52 }]

/-- mwait (R397) -/
def execSyMwait (t : Trig) (s : State) : Host.Outcome State Fault Refusal :=
  .next (runTrig (.syMwait t) .sy t s (fun s c sl k o =>
    let g := group s c sl
    marked (entryAccess s c sl k 20 o
      { kind := .mwait, lanes := o.en, elems := uniformElem o 8, seq := placeOf s c sl, part := g.part, priv := g.hmode }
      (fun a => .mwait a ((uniform o.en o.a).setWidth 64) 0)) c sl true))

/-- wmwait (R398) -/
def execSyWmwait (t : Trig) (s : State) : Host.Outcome State Fault Refusal :=
  .next (runTrig (.syWmwait t) .sy t s (fun s c sl k o =>
    let ch := (o.aux.extractLsb' 0 3).toNat
    let g := group s c sl
    match (chanOf s c ch).own with
    | some tm => if tm = g.team then go s c sl k o ch else syFault s c sl 0x04 o
    | none => go s c sl k o ch))
where
  /-- The access of one byte that the wait compares. -/
  go (s : State) (c sl k : Nat) (o : Opnd) (ch : Nat) : State :=
    let n := placeOf s c sl
    let g := group s c sl
    lastSy (entryAccess s c sl k 20 o
      { kind := .wmwait, lanes := o.en, elems := uniformElem o 1, seq := n, part := g.part, priv := g.hmode }
      (fun a => .wmwait ch a)) c sl (meetWmwait (core s c))

/-- sleep (R399): the end tick is absolute. -/
def execSySleep (t : Trig) (s : State) : Host.Outcome State Fault Refusal :=
  .next (runTrig (.sySleep t) .sy t s (fun s c sl k o =>
    let d : BitVec 32 := (uniform o.en o.t).setWidth 32
    syEntry s c sl k o (.sleep (coreTime s c + d.setWidth 64))))

/-- tick (R399) -/
def execSyTick (t : Trig) (s : State) : Host.Outcome State Fault Refusal :=
  .next (runTrig (.syTick t) .sy t s (fun s c sl k o => addTimed s c sl k 20 o 0 (lo64 (coreTime s c))))

/-! ### The ends of waits -/

/-- RELEASE_COMPLETE: rel or fence lets the group go on (R244, R246; selection: core, slot, 1 for the handler's). -/
def execReleaseComplete (s : State) : Host.Outcome State Fault Refusal :=
  let c := selAt s 0
  let sl := selAt s 1
  let hand := selAt s 2 == 1
  match (if hand then (group s c sl).hhold else (group s c sl).hold) with
  | none => .next s
  | some h =>
    if holdDone s c sl h then
      let s := modGroup s c sl (fun g => setHold g hand none)
      .next (if h.2.1 then acquire s c sl (wideScope h.2.2) else s)
    else .next s

/-- Whether an arrival of a group at a barrier takes effect now: its release is complete (R393, R394). -/
def arrives (s : State) (c sl : Nat) (p : Nat × Nat) : Bool :=
  if p.1 = 16 then !(group s c sl).cbarIn && releaseDone s c sl p.2 true else releaseDone s c sl p.2 false

/-- Whether something of a group takes effect in this cycle because its release is complete: an arrival at a barrier, or the end of
a rel or fence (R244, R393, R395). -/
def releaseFalls (s : State) (c sl : Nat) : Bool :=
  let g := group s c sl
  g.arrive.any (arrives s c sl) || g.hold.any (holdDone s c sl) || g.hhold.any (holdDone s c sl)

/-- BARRIER_ARRIVAL: the first arrival at a named barrier whose team-scope release is complete (R393; core, slot). -/
def execBarrierArrival (s : State) : Host.Outcome State Fault Refusal :=
  let c := selAt s 0
  let sl := selAt s 1
  let g := group s c sl
  match g.arrive.find? (fun p => p.1 != 16 && releaseDone s c sl p.2 false) with
  | none => .next s
  | some (b, n) =>
    let s := modGroup s c sl (fun g => { g with arrive := g.arrive.erase (b, n) })
    let s := modTeam s g.team (fun t =>
      let nb := tget {} t.nb b
      { t with nb := tput t.nb b { nb with mask := nb.mask ||| BitVec.ofNat 16 (2 ^ g.gid) } })
    .next (phaseCheck s g.team b)

/-- CLUSTER_BARRIER_ARRIVAL: the group's cluster-scope release is complete (R394; core, slot). -/
def execClusterBarrierArrival (s : State) : Host.Outcome State Fault Refusal :=
  let c := selAt s 0
  let sl := selAt s 1
  let g := group s c sl
  match g.arrive.find? (fun p => p.1 == 16 && releaseDone s c sl p.2 true) with
  | none => .next s
  | some (b, n) =>
    if g.cbarIn then .next s
    else
      .next (clusterCheck (modGroup s c sl (fun g => { g with arrive := g.arrive.erase (b, n), cbarIn := true })) g.team)

/-- Entry idx of sy fills with a value. -/
def fillSy (s : State) (c sl i : Nat) (v : Slice) : State :=
  modGroup s c sl (fun g => fillEntry g (cycleOf s c) false 20 i (splat v))

/-- What entry idx of the group's sy queue waits for (selection: core, slot, place). -/
def syWait (s : State) : Option Pend := (entryAt (group s (selAt s 0) (selAt s 1)) false 20 (selAt s 2)).map (·.pend)

/-- TWAIT_FILL: the cycle after the one whose start found the awaited value (R251, R396). -/
def execTwaitFill (s : State) : Host.Outcome State Fault Refusal :=
  let c := selAt s 0
  let sl := selAt s 1
  match entryAt (group s c sl) false 20 (selAt s 2) with
  | none => .next s
  | some e =>
    match e.pend, e.met with
    | .twait sel _, some m =>
      if m.1 ≤ cycleOf s c then
        let s := modGroup s c sl (fun g => fillEntry g (cycleOf s c) false 20 (selAt s 2) e.val)
        .next (if (ctrOf sel).acquires then acquire s c sl true else s)
      else .next s
    | _, _ => .next s

/-- The read of an mwait at its home (R397): it fills and acquires, or the wait ends with a fault, or it goes on. -/
def mwaitRead (s : State) (c sl i : Nat) (a : Access) (n : BitVec 64) (again : State → State) : State :=
  match a.elems with
  | e :: _ =>
    if failingAt s e.pa 8 || (regionOf e.pa == 1 && Config.remoteError s.fresh) then
      { accessFault s c sl 20 false i 0x19 e.va with fresh := s.fresh + 1 }
    else
      let v := physRead s (some c) e.pa 8
      if n.toNat ≤ v then acquire (fillSy s c sl i (BitVec.ofNat 128 v)) c sl true else again s
  | [] => s

/-- Whether the home of an mwait's word serves a value that ends it (R397). -/
def mwaitServed (s : State) (c : Nat) (a : Access) (n : BitVec 64) : Bool :=
  a.stat == .ready && a.elems.all (fun e =>
    regionOf e.pa == 0 && !failingAt s e.pa 8 && decide (n.toNat ≤ physRead s (some c) e.pa 8))

/-- An mwait whose word was read once: from now on it sees every value that the home serves (R397). -/
def armMwait (s : State) (c sl i : Nat) : State :=
  modGroup s c sl (fun g => match entryAt g false 20 i with
    | some e => setEntry g false 20 i { e with met := some (0, false) }
    | none => g)

/-- MWAIT_FILL: the word in stacked DRAM is read, after the earlier accesses of the group to its bytes (R219, R397). -/
def execMwaitFill (s : State) : Host.Outcome State Fault Refusal :=
  match syWait s with
  | some (.mwait a n _) =>
    if a.stat == .ready && a.elems.all (fun e => regionOf e.pa == 0) && orderOk s (selAt s 0) (selAt s 1) a then
      .next (mwaitRead s (selAt s 0) (selAt s 1) (selAt s 2) a n (fun s => armMwait s (selAt s 0) (selAt s 1) (selAt s 2)))
    else .next s
  | _ => .next s

/-- Bytes of host memory that the host changed, as address and byte pairs from argument i of the selection on (log 15). -/
def hostBytes (s : State) (i : Nat) : State :=
  let rec go : List Nat → List Host.Cell → List Host.Cell
    | a :: b :: t, m => go t (if regionOf a = 1 then memPut m a (BitVec.ofNat 8 b) else m)
    | _, m => m
  { s with mem := go (s.sel.drop i) s.mem }

/-- MWAIT_HOST_POLL: the word in host memory is polled every 1,024 ticks (R397). -/
def execMwaitHostPoll (s : State) : Host.Outcome State Fault Refusal :=
  let c := selAt s 0
  match syWait s with
  | some (.mwait a n poll) =>
    if a.stat == .ready && a.elems.all (fun e => regionOf e.pa == 1) && orderOk s c (selAt s 1) a && decide (poll.toNat ≤ (coreTime s c).toNat) then
      .next (mwaitRead (hostBytes s 3) c (selAt s 1) (selAt s 2) a n (fun s =>
        modGroup s c (selAt s 1) (fun g => match entryAt g false 20 (selAt s 2) with
          | some e => setEntry g false 20 (selAt s 2) { e with pend := .mwait a n (coreTime s c + 1024) }
          | none => g)))
    else .next s
  | _ => .next s

/-- Whether a twait or wmwait ends in a cycle; one that stays armed for a save does not (R28). -/
def waitDue (cyc : Nat) (e : QEntry) : Bool :=
  match e.pend, e.met with
  | .wmwait _ _, some m | .twait _ _, some m => decide (m.1 ≤ cyc) && e.was.isNone
  | _, _ => false

/-- Whether a wait of a group must end before the cycle does: a barw whose phase has passed, and a wmwait outside its ring (R393,
R398). -/
def passedWait (s : State) (c sl : Nat) : Bool :=
  let g := group s c sl
  (allEntries g).any (fun x => x.2.2.2.was.isNone && match x.2.2.2.pend with
    | .barw b p => barPassed (tget {} (team s g.team).nb b).gen p
    | .wmwait ch a => outsideRing s c ch a
    | _ => false)

/-- Whether something of a group falls in this cycle: what its releases let go, or a wait that has ended. -/
def fallsNow (s : State) (c sl : Nat) : Bool := releaseFalls s c sl || passedWait s c sl

/-- Whether a sleep of a group ends in this tick: GTIME of its die does not rise before it has filled (R399). -/
def sleepDue (now : BitVec 64) (g : Group) : Bool :=
  (allEntries g).any (fun x => match x.2.2.2.pend with
    | .sleep tick => decide (tick.toNat ≤ now.toNat) && x.2.2.2.was.isNone
    | _ => false)

/-- WMWAIT_FILL: the watermark has passed the address (R398). -/
def execWmwaitFill (s : State) : Host.Outcome State Fault Refusal :=
  let c := selAt s 0
  let sl := selAt s 1
  match entryAt (group s c sl) false 20 (selAt s 2) with
  | none => .next s
  | some e =>
    match e.pend, e.met with
    | .wmwait ch a, m =>
      if outsideRing s c ch a then .next (fillSy s c sl (selAt s 2) (BitVec.ofNat 128 ((chanView (chanOf s c ch)).1 % 2 ^ 52)))
      else if m.all (fun m => decide (cycleOf s c < m.1)) then .next s
      else if m.any (·.2) then .next (accessFault s c sl 20 false (selAt s 2) 0x18 (((a.elems.head?).map (·.va)).getD 0))
      else .next (fillSy s c sl (selAt s 2) (BitVec.ofNat 128 ((chanView (chanOf s c ch)).1 % 2 ^ 52)))
    | _, _ => .next s

/-- SLEEP_EXPIRY (R399) -/
def execSleepExpiry (s : State) : Host.Outcome State Fault Refusal :=
  let c := selAt s 0
  match syWait s with
  | some (.sleep tick) =>
    if tick.toNat ≤ (coreTime s c).toNat then .next (fillSy s c (selAt s 1) (selAt s 2) (lo64 (coreTime s c))) else .next s
  | _ => .next s

end Sys2Proof.Machine
end

