-- ==== Sys2Proof/Machine/Agenda.lean ====
section
/-! DEFINITION. Which step the part takes next (logs 2, 3): the slots of the bundle that is being carried out, then the head
of the agenda, then a free choice. -/

namespace Sys2Proof.Machine

/-- The slot of the bundle that is being carried out, and the slots after it (R73). -/
def planHead (s : State) : Option (Nat × Nat × Nat × List Nat) :=
  match s.cur with
  | none => none
  | some (c, sl) => match (group s c sl).bun.plan with | [] => none | k :: rest => some (c, sl, k, rest)

/-- The word of the next step, and the state in which it is carried out. -/
def pickWord (s : State) : Nat × State :=
  match planHead s with
  | some (c, sl, k, rest) =>
    ((slotWord (group s c sl).bun.word k).toNat,
      modGroup s c sl (fun g => { g with bun := { g.bun with plan := rest, now := some k } }))
  | none =>
    match s.agenda with
    | (w, sel) :: rest => (w, { s with agenda := rest, sel := sel })
    | [] => ((Config.nextEvent s.fresh).1, { s with sel := (Config.nextEvent s.fresh).2, fresh := s.fresh + 1 })

/-- The bundle that was being carried out ends once none of its slots is left (R177). -/
def closeSlot (s : State) : State :=
  match s.cur with
  | none => s
  | some (c, sl) =>
    if (group s c sl).bun.plan.isEmpty then
      settle { (if (group s c sl).bun.now.isSome then
          modGroup s c sl (fun g => { g with bun := { g.bun with now := none } }) else s) with cur := none } c sl
    else if (group s c sl).bun.now.isSome then
      modGroup s c sl (fun g => { g with bun := { g.bun with now := none } })
    else s

/-- The mwaits of a group that have read their word once and whose home now serves a value that ends them (R397). -/
def serveGroup (s : State) (c sl : Nat) : State :=
  (List.range 8).foldl (fun s i =>
    match entryAt (group s c sl) false 20 i with
    | some e =>
      (match e.pend, e.met with
        | .mwait a n _, some _ => if mwaitServed s c a n && orderOk s c sl a then mwaitRead s c sl i a n id else s
        | _, _ => s)
    | none => s) s

/-- An mwait reads again after every write of its line and every reveal, so that it sees each value that its home serves (R397). -/
def serveWaits (s : State) : State :=
  s.cores.foldl (fun s k => k.2.groups.foldl (fun s g => serveGroup s k.1 g.1) s) s

/-- An access that is discarded leaves the parked set: of a stopped stream, a faulted operation, a channel (R232, R339). -/
def dropStale (s : State) : State :=
  { s with parked := s.parked.filter (fun p => match p.ref with
      | .entry c sl u hand seq => (findAccess s c sl u hand seq).isSome
      | .chan c ch => (chanOf s c ch).st == .frozen) }

/-- After a step: a bundle may end, waits on memory see what is served, and the parked set holds the accesses that exist. -/
def afterStep (s : State) : State := dropStale (serveWaits (closeSlot s))

/-- The word placed at the head of the agenda, with a group at hand that carries out a move (log 9). -/
def placeWord (s : State) (w : Nat) : State :=
  let s := modGroup s 0 0 (fun g => { g with bun := {}, busy := false })
  { s with cur := some (0, 0), agenda := (w, []) :: s.agenda }

end Sys2Proof.Machine
end

