-- ==== Sys2Proof/Machine/Br.lean ====
section
/-! DEFINITION. The br operations (R174 to R183). Each says what its bundle does at its end (R177). -/

namespace Sys2Proof.Machine

/-- The target of a br trigger (R176): V is the trigger value of the lowest enabled lane, B the bundle's address. -/
def brTarget (t : Trig) (at_ : BAddr) (v : BitVec 32) : BAddr :=
  if t.typ = 0 then at_ + v.signExtend 47 else at_.extractLsb' 32 15 ++ v

/-- V: bits [31:0] of the uniform trigger value (R174). -/
def brValue (o : Opnd) : BitVec 32 := (uniform o.en o.t).setWidth 32

/-- Lane L's condition: a[31:0] nonzero (R174). -/
def brCond (o : Opnd) (L : Nat) : Bool := (lane o.a L).setWidth 32 != (0 : BitVec 32)

/-- The enabled lanes, over which every reduction runs. -/
def brLanes (o : Opnd) : List Nat := lanes32.filter (fun L => o.en.getLsbD L)

/-- A br trigger: what f gives becomes the bundle's action; none leaves the group to go on. -/
def runBr (i : Instr) (t : Trig) (s : State) (f : BAddr → Opnd → Option BrAct) : State :=
  runTrig i .br t s (fun s c sl _ o =>
    modGroup s c sl (fun g => { g with bun := { g.bun with br := f g.bun.addr o } }))

/-- jmp (R175) -/
def execBrJmp (t : Trig) (s : State) : Host.Outcome State Fault Refusal :=
  .next (runBr (.brJmp t) t s (fun at_ o => some (.goto (brTarget t at_ (brValue o)))))

/-- bra (R175) -/
def execBrBra (t : Trig) (s : State) : Host.Outcome State Fault Refusal :=
  .next (runBr (.brBra t) t s (fun at_ o =>
    if (brLanes o).any (brCond o) then some (.goto (brTarget t at_ (brValue o))) else none))

/-- brz (R175) -/
def execBrBrz (t : Trig) (s : State) : Host.Outcome State Fault Refusal :=
  .next (runBr (.brBrz t) t s (fun at_ o =>
    if (brLanes o).any (brCond o) then none else some (.goto (brTarget t at_ (brValue o)))))

/-- brall (R175) -/
def execBrBrall (t : Trig) (s : State) : Host.Outcome State Fault Refusal :=
  .next (runBr (.brBrall t) t s (fun at_ o =>
    if (brLanes o).all (brCond o) then some (.goto (brTarget t at_ (brValue o))) else none))

/-- call (R179) -/
def execBrCall (t : Trig) (s : State) : Host.Outcome State Fault Refusal :=
  .next (runBr (.brCall t) t s (fun at_ o => some (.call (brTarget t at_ (brValue o)))))

/-- ret (R179) -/
def execBrRet (t : Trig) (s : State) : Host.Outcome State Fault Refusal :=
  .next (runBr (.brRet t) t s (fun _ _ => some .ret))

/-- loopi (R182) -/
def execBrLoopi (t : Trig) (s : State) : Host.Outcome State Fault Refusal :=
  .next (runBr (.brLoopi t) t s (fun _ o => some (.loopi ((brValue o).extractLsb' 0 28))))

/-- loop (R183) -/
def execBrLoop (t : Trig) (s : State) : Host.Outcome State Fault Refusal :=
  .next (runBr (.brLoop t) t s (fun _ o =>
    some (.loop ((brValue o).extractLsb' 0 28) ((brValue o).extractLsb' 28 3) o.en)))

/-- halt (R180) -/
def execBrHalt (t : Trig) (s : State) : Host.Outcome State Fault Refusal :=
  .next (runBr (.brHalt t) t s (fun _ _ => some .halt))

/-- yield (R181) -/
def execBrYield (t : Trig) (s : State) : Host.Outcome State Fault Refusal :=
  .next (runBr (.brYield t) t s (fun _ o => some (.yield ((brValue o).extractLsb' 0 8))))

end Sys2Proof.Machine
end

