-- ==== Sys2Proof/Machine/Device.lean ====
section
/-! DEFINITION. Reads and writes of the device itself, launch records, the words of a raw bank, and the saved image in memory
(R58, R199, R275, R307, R308, R318, R362, R363). Where the manual leaves the layout of an image open, it is as log 13 says. -/

namespace Sys2Proof.Machine

/-! ### The device's reads and writes (R308, R318) -/

/-- The physical address of a virtual one as a partition's tables give it to a reader or writer on a die. -/
def devPhys (s : State) (d p va : Nat) (wr : Bool) : Option (Nat × Attr) :=
  if apertureBase ≤ va then none
  else
  match walk s p va with
  | .leaf t =>
    let pa := tlbPhys t va
    if wr && !t.attr.w then none
    else if t.attr.repl && !(decide (pa < 2 ^ 36)) then none
    else
      let pa := if t.attr.repl then pa + d * 2 ^ 36 else pa
      let reg := match windowOf pa with | some (_, off) => onchipOf off == .acc || onchipOf off == .gregs | none => false
      if !physOk s pa || (reg && !t.attr.priv) then none else some (pa, t.attr)
  | _ => none

/-- The physical address of a virtual one as the dispatcher or the firmware translates it for a partition, on a die: in
stacked DRAM or host memory. -/
def devAddr (s : State) (d p va : Nat) (wr : Bool) : Option (Nat × Attr) :=
  (devPhys s d p va wr).filter (fun x => decide (regionOf x.1 < 2))

/-- n bytes in one page, read at home; none where they do not translate, hold an uncorrectable error, or the host's answer
reports one (R191). -/
def devRead (s : State) (d p va n : Nat) : Option Nat :=
  match devAddr s d p va false with
  | some (pa, _) => if readFails s pa n then none else some (physRead s none pa n)
  | none => none

/-- The last value of bytes in coherence order, hidden writes included (R215, R240). -/
def latestRead (s : State) (a n : Nat) : Nat :=
  leNat ((List.range n).map (fun i =>
    s.hidden.foldl (fun b h => (cellFind h.cells (a + i)).getD b) (physByte s none (a + i))))

/-- A write by the device at a physical address: the state and W. -/
def devWrite (s : State) (d : Nat) (prop : Bool) (pa n v : Nat) : State × BitVec 64 := performWrite s none none d prop (leCells pa n v)

/-! ### Launch records (R307, R308) -/

/-- The fields of the record at a physical address (R307). -/
def parseRecord (s : State) (pa : Nat) : LaunchRec :=
  let f (off n : Nat) : Nat := physRead s none (pa + off) n
  let wh := if f 13 1 = 0 ∧ f 14 1 = 0 then (1, 1) else (f 13 1, f 14 1)
  { entry := BitVec.ofNat 64 (f 0 8), teams := f 8 4, groups := f 12 1, w := wh.1, h := wh.2, gcount := f 15 1
    vrows := f 16 1, flags := BitVec.ofNat 8 (f 17 1), cls := f 18 1, part := f 19 1, spad := f 20 4, oba := f 24 4
    obb := f 28 4, home := f 41 1, hash := f 42 1, skein := BitVec.ofNat 64 (f 48 8), counter := f 56 8
    incr := BitVec.ofNat 64 (f 64 8), target := BitVec.ofNat 64 (f 72 8)
    preload := (List.range 16).map (fun i => (i, BitVec.ofNat 16 (f (80 + 2 * i) 2))) }

/-- A word of a constant table, on any page that the partition may read (R308); none where it is not mapped or holds an
uncorrectable error, or the host's or another package's answer reports one (R191). -/
def constWord (s : State) (d p va : Nat) : Option Nat :=
  (devPhys s d p va false).bind (fun x =>
    let pa := (homePa s x.1).1
    if planeDown s pa || readFails s pa 4 then none else some (physRead s none pa 4))

/-- The constant table, read whole; none where a word cannot be read (R308). -/
def readConsts (s : State) (d p va n : Nat) : Option (List (BitVec 32)) :=
  (List.range n).foldr (fun i o =>
    match o, constWord s d p (va + 4 * i) with
    | some l, some v => some (BitVec.ofNat 32 v :: l)
    | _, _ => none) (some [])

/-- Whether a record keeps every limit of R307. -/
def limitsOk (s : State) (pa : Nat) (r : LaunchRec) : Bool :=
  let f (off n : Nat) : Nat := physRead s none (pa + off) n
  r.entry.toNat % 32 == 0 && decide (1 ≤ r.teams) && decide (r.teams ≤ 2 ^ 24) && decide (1 ≤ r.groups) &&
    decide (r.groups ≤ 16) && decide (1 ≤ r.w) && decide (r.w ≤ 12) && decide (1 ≤ r.h) && decide (r.h ≤ 6) &&
    decide (r.w * r.h ≤ 12) && r.teams % (r.w * r.h) == 0 && decide (8 ≤ r.gcount) && decide (r.gcount ≤ 64) &&
    r.gcount % 8 == 0 && decide (r.vrows ≤ 64) && r.flags.extractLsb' 3 5 == 0 && decide (r.cls ≤ 3) && decide (r.part ≤ 7) &&
    r.spad % 256 == 0 && decide (r.spad ≤ 524288) && r.oba % 256 == 0 && decide (r.oba ≤ 65536) && r.obb % 256 == 0 &&
    decide (r.obb ≤ 65536) && f 32 8 % 4 == 0 && decide (f 40 1 ≤ 112) && (decide (r.home ≤ 110) || r.home == 0xFF) &&
    decide (r.hash ≤ 2) && f 43 5 == 0 && r.counter % 8 == 0 &&
    (!r.flags.getLsbD 2 || (decide (r.target.toNat % 2 ^ 16 ≤ 4095) && decide (r.target.toNat / 2 ^ 16 ≤ 1))) &&
    r.preload.all (fun q => q.2.extractLsb' 7 3 == 0 && (!q.2.getLsbD 15 || decide ((q.2.extractLsb' 0 7).toNat ≤ 104))) &&
    f 120 136 == 0

/-- What the dispatcher finds when it reads a record: unreadable, or its fields and a status other than 0 if it breaks a
rule of the record itself. -/
def readRecord (s : State) (d p rcd : Nat) : Option (LaunchRec × Nat) :=
  match devRead s d p rcd 256, devAddr s d p rcd false with
  | some _, some (pa, _) =>
    if regionOf pa ≠ 0 ∨ rcd % 256 ≠ 0 ∨ 2 ^ 52 ≤ rcd then none
    else
      let r := parseRecord s pa
      if !limitsOk s pa r then some (r, 2)
      else
        match readConsts s d p (physRead s none (pa + 32) 8) (physRead s none (pa + 40) 1) with
        | none => some (r, 2)
        | some cs => some ({ r with consts := cs }, 0)
  | _, _ => none

/-- The number of a grid: its partition and record address. -/
def gridKey (p rcd : Nat) : Nat := p * 2 ^ 52 + rcd % 2 ^ 52

/-! ### The words of a bank (R54, R58, R275) -/

/-- The address that stands for the 128-bit unit of a cell of a bank in the list of failing units: no memory has it (R191, R278;
DESIGN CHOICE: a cell is a unit, log 11). -/
def bankUnitAddr (c b cell : Nat) : Nat := 2 ^ 52 + ((2 * c + b) * 32768 + cell) * 16

/-- FMT of a record. -/
def recFmt (r : BitVec 128) : Nat := (r.extractLsb' 58 3).toNat
/-- Whether a native format is complex. -/
def cplxFmt (n : Nat) : Bool := n == 3 || n == 4

/-- The span S and the largest depth K of a native format (R54). -/
def spanOf (n : Nat) : Nat × Nat :=
  match n with | 0 => (12, 4096) | 1 => (9, 2048) | 2 => (3, 512) | _ => (0, 65536)

/-- The raw word of a triple (R58). -/
def rawWord (h : Nat × Nat × Nat) (nan : Bool) : Nat := h.1 + h.2.1 * 2 ^ 12 + h.2.2 * 2 ^ 24 + nan.toNat * 2 ^ 37

/-- The triple of a raw word, each field reduced by its modulus (R58). -/
def unrawWord (w : Nat) : Nat × Nat × Nat := (w % 2 ^ 12 % 4095, w / 2 ^ 12 % 2 ^ 12 % 4096, w / 2 ^ 24 % 2 ^ 13 % 4097)

/-- The size of a bank image in bytes (R275). -/
def imageBytes (cplx : Bool) : Nat := 64 + 8 * (if cplx then 65536 else 32768)

/-- Word n of a bank image (R275). -/
def imageWord (bk : Bank) (n : Nat) : Nat :=
  let cplx := cplxFmt bk.fmt
  if n = 0 then bk.fmt % 8 + (bk.ref % 512).toNat * 2 ^ 3 + bk.spanfl.toNat * 2 ^ 12
  else if n < 8 then 0
  else
    let k := if cplx then (n - 8) / 2 else n - 8
    let x := tget {} bk.cells (256 * (k % 16384 / 128) + k % 128 + 128 * (k / 16384))
    rawWord (if cplx && (n - 8) % 2 == 1 then x.im else x.re) x.nan

/-- The cells that are not 0 of a bank whose words are given (R58, R275). -/
def cellsOf (word : Nat → Nat) (cplx : Bool) : Tbl Cell :=
  let cell (k : Nat) : Cell :=
    if cplx then
      { re := unrawWord (word (2 * k)), im := unrawWord (word (2 * k + 1))
        nan := (word (2 * k)).testBit 37 || (word (2 * k + 1)).testBit 37 }
    else { re := unrawWord (word k), nan := (word k).testBit 37 }
  ((List.range 128).flatMap (fun i => (List.range 256).map (fun j =>
    (256 * i + j, cell (i * 128 + j % 128 + 16384 * (j / 128)))))).filter (fun x => x.2 != {})

/-- The ref of an image (R275): nine bits, of which a value that no pass of the format can reach stands for a negative one
(DEDUCED, log 21: cmax is at most 508, so ref is at most 508 − S, and at least −2 − S). -/
def imageRef (fmt f : Nat) : Int := if 508 - (spanOf fmt).1 < f then (f : Int) - 512 else f

/-! ### The sections of an image (R362) -/

/-- The bytes of a team's memory section: scratchpad, operand buffers, ob0 to ob15, COP. -/
def memLen (t : Team) : Nat := (t.spad.2 + t.oba.2 + t.obb.2) * 256 + 272

/-- Where the group sections start. -/
def Image.groupsAt : Nat := 64
/-- Where the memory section starts. -/
def Image.memAt (im : Image) : Nat := Image.groupsAt + im.lens.1
/-- Where the engine section starts. -/
def Image.engineAt (im : Image) : Nat := im.memAt + memLen im.team
/-- Where the raw words of a bank start, in the layout of a bank image (R275). -/
def Image.bankAt (im : Image) (b : Nat) : Nat := im.engineAt + im.lens.2 + b * imageBytes true

/-- The length of an image whose group sections and engine section, less its banks, have given lengths (log 13). -/
def imageLen (lens : Nat × Nat) (t : Team) : Nat := Image.groupsAt + lens.1 + memLen t + lens.2 + 2 * imageBytes true

/-- The physical address of a byte of an image; none where a ctxsave's address does not translate. -/
def Image.addr (s : State) (im : Image) (wr : Bool) (off : Nat) : Option Nat :=
  match im.va with
  | none => some (im.pa + off)
  | some (d, va) => (devAddr s d im.team.part (va + off) wr).map (·.1)

/-- A byte of an image as memory holds it; where it does not translate its value is open. -/
def Image.byte (s : State) (im : Image) (off : Nat) : Byte :=
  match im.addr s false off with
  | some a => BitVec.ofNat 8 (latestRead s a 1)
  | none => Config.remoteByte s.fresh off

/-- n bytes of an image. -/
def Image.read (s : State) (im : Image) (off n : Nat) : Nat := leNat ((List.range n).map (fun i => im.byte s (off + i)))

/-- The bytes of an image whose layout is open: the group sections, and the engine section before its banks. -/
def Image.softNow (s : State) (im : Image) : List Byte :=
  (List.range im.lens.1).map (fun i => im.byte s (Image.groupsAt + i)) ++
    (List.range im.lens.2).map (fun i => im.byte s (im.engineAt + i))

/-- What an image holds as memory holds it now: in the sections whose layout is open the bytes of a save mean what that save
held, and other bytes mean what is open (log 13). -/
def Image.now (s : State) (im : Image) : Image :=
  let soft := im.softNow s
  let x :=
    if soft = im.soft then im
    else
      match s.archive.find? (fun y => y.soft == soft) with
      | some y => y
      | none => { Config.softImage soft with bad := [] }
  { im with groups := x.groups, rows := x.rows, chans := x.chans, mxops := x.mxops, banks := x.banks, bad := x.bad }

/-- Byte i of the memory section as it is when an image is written: of the team's memories, the ob records, or COP. -/
def memSection (s : State) (t : Team) : List Byte :=
  (List.range 3).flatMap (fun i => (List.range (teamRange t i).2).map (fun j => physByte s none ((teamRange t i).1 + j))) ++
    (List.range 16).flatMap (fun i => leBytes 16 (tget 0 t.ob i).toNat) ++ leBytes 16 t.cop.toNat

/-! ### Errors of an image (R191; DEDUCED, log 13: no rule lets a save clear an error, so the image's units fail for it) -/

/-- Whether bytes of an image meet an uncorrectable error when they are read. -/
def Image.fails (s : State) (im : Image) (off n : Nat) : Bool :=
  match im.addr s false off with | some a => readFails s a n | none => false

/-- Where each memory of a team starts in an image. -/
def Image.rangeAt (im : Image) (i : Nat) : Nat :=
  im.memAt + 256 * (match i with | 0 => 0 | 1 => im.team.spad.2 | _ => im.team.spad.2 + im.team.oba.2)

/-- The number of the first raw word of a cell in an image, from its key (R199, R275). -/
def cellWord (cplx : Bool) (key : Nat) : Nat :=
  let k := key / 256 * 128 + key % 128 + 16384 * (key % 256 / 128)
  8 + (if cplx then 2 * k else k)

/-- The image offsets of the 8-byte units whose source fails, of the team's memories and of its raw banks on a leader core. -/
def Image.carried (s : State) (im : Image) (lead : Nat) : List Nat :=
  s.failing.flatMap (fun u =>
    (List.range 3).flatMap (fun i =>
      let r := teamRange im.team i
      if r.1 ≤ u ∧ u < r.1 + r.2 then [im.rangeAt i + (u - r.1), im.rangeAt i + (u - r.1) + 8] else []) ++
    im.banks.flatMap (fun b =>
      let first := bankUnitAddr lead b 0
      let cplx := cplxFmt (tget {} (core s lead).banks b).fmt
      if first ≤ u ∧ u < first + 16 * 32768 then
        let w := im.bankAt b + 8 * cellWord cplx ((u - first) / 16)
        if cplx then [w, w + 8] else [w]
      else []))

/-- Whether a restore meets an uncorrectable error in what it needs whole of an image: the header, the group sections, the ob records
and COP, the engine section and the heads of its raw banks (R191; log 13). -/
def Image.openFails (s : State) (im : Image) : Bool :=
  let bad (off n : Nat) : Bool := (List.range (n / 8)).any (fun i => im.fails s (off + 8 * i) 8)
  !(s.failing.isEmpty && im.va.isNone) &&
    (bad 0 im.memAt || bad (im.engineAt - 272) (272 + im.lens.2) || im.banks.any (fun b => bad (im.bankAt b) 64))

/-- The units that fail because an image that is written brings an error to them. -/
def Image.spoil (s : State) (im : Image) (offs : List Nat) : State :=
  { s with failing := s.failing ++ (offs.filterMap (fun o => im.addr s true o)).map (fun a => (unitAt a).1) }

/-- The failing units of a group's rows and g blocks, for its image. -/
def Image.groupErrors (s : State) (c gid : Nat) (g : Group) : List (Nat × Nat × Nat) :=
  s.failing.flatMap (fun u =>
    let rows := rowAddr c g.vbase
    let regs := windowBase c + 0x100000 + g.gbase * 1024
    (if rows ≤ u ∧ u < rows + g.vrows * 512 then [(0, gid, u - rows)] else []) ++
      (if regs ≤ u ∧ u < regs + g.gcount * 128 then [(1, gid, u - regs)] else []))

/-- The units that fail on a core after the restore of a team: those whose image bytes fail, and those of its groups that the
image names, at the groups' new places. -/
def Image.restored (s : State) (im : Image) (t : Team) (vbase gbase : Nat → Nat) : List Nat :=
  let at_ (x : Nat × Nat × Nat) : Nat :=
    (if x.1 = 0 then rowAddr t.core (vbase x.2.1) else windowBase t.core + 0x100000 + gbase x.2.1 * 1024) + x.2.2
  let word (b : Nat) (cplx : Bool) (key : Nat) : Bool := im.fails s (im.bankAt b + 8 * cellWord cplx key) (if cplx then 16 else 8)
  im.bad.map at_ ++
    (if s.failing.isEmpty && im.va.isNone then []
    else
      (List.range 3).flatMap (fun i => ((List.range ((teamRange t i).2 / 16)).filter (fun j => im.fails s (im.rangeAt i + 16 * j) 16)).map
        (fun j => (teamRange t i).1 + 16 * j)) ++
      im.banks.flatMap (fun b =>
        let cplx := cplxFmt (im.read s (im.bankAt b) 8 % 8)
        ((List.range 32768).filter (word b cplx)).map (bankUnitAddr (leaderOf t.core) b)))

/-- A team with the ob records and the COP of its image (R362). -/
def Image.records (s : State) (im : Image) (t : Team) : Team :=
  let off := im.memAt + memLen im.team - 272
  { t with
    ob := (List.range 16).map (fun i => (i, BitVec.ofNat 128 (im.read s (off + 16 * i) 16)))
    cop := BitVec.ofNat 128 (im.read s (off + 256) 16) }

/-- A raw bank of an image, for a team (R199, R277). -/
def Image.bank (s : State) (im : Image) (tid b : Nat) : Bank :=
  let head := im.read s (im.bankAt b) 8
  { owner := some tid, full := true, fmt := head % 8, ref := imageRef (head % 8) (head / 8 % 512), spanfl := head.testBit 12
    cells := cellsOf (fun n => im.read s (im.bankAt b + 64 + 8 * n) 8) (cplxFmt (head % 8)) }

/-! ### Features (R363) -/

/-- The CAPMASK.FMT bits that an image needs: those of its raw banks and of its withdrawn mx operations. -/
def Image.fmts (s : State) (im : Image) : List Nat :=
  im.banks.flatMap (fun b => mxFmts (im.read s (im.bankAt b) 1 % 8)) ++
    im.mxops.flatMap (fun o =>
      match o.kind with
      | .pass => mxFmts (recFmt o.reca) ++ mxFmts (recFmt o.recb)
      | .drain => mxFmts o.fmt ++ drainFmts o.mode
      | .save => mxFmts o.fmt
      | .load => [])

/-- Whether an image is refused on this stepping: a feature of its header that stepping A1 does not list, or a format that
CAPMASK lacks. -/
def featureAbsent (s : State) (im : Image) : Bool :=
  decide (2 ^ 8 ≤ im.read s 8 8) || !((im.now s).fmts s).all (fun b => fmtBit s b)

/-! ### The image at an address (R378) -/

/-- An image that stands at a virtual address, as its header and the archive of the images written tell it: a known image keeps
its number, any other one gets a number of its own when it is queued (log 13). -/
def imageHere (s : State) (d p va pa : Nat) : Image :=
  match s.images.find? (fun im => im.pa == pa && im.team.part == p) with
  | some im => im
  | none =>
    let at_ (im : Image) : Image := { im with va := some (d, va), pa := pa, area := false, team := { im.team with part := p } }
    match s.archive.find? (fun y => (at_ y).softNow s == y.soft) with
    | some y => { at_ y with tid := s.nextTeam, listed := false, hostGo := false, refused := false }
    | none =>
      let n := latestRead s (pa + 6) 1
      let gids := List.range n
      let x : Image :=
        { team := { part := p, groups := n, slots := gids.map (fun i => (i, i)) }, tid := s.nextTeam, va := some (d, va), pa := pa
          lens := ((latestRead s (pa + 48) 8 - Image.groupsAt) % 2 ^ 32, 0), area := false, listed := false, cause := 5
          savedAt := gtime s d }
      let y := Config.softImage (x.softNow s)
      { x with
        soft := x.softNow s, groups := gids.map (fun i => (i, tget {} y.groups i)), rows := y.rows
        chans := y.chans.filter (fun q => decide (q.1 < 8)), banks := [0, 1].filter (fun b => y.banks.contains b) }

/-- The image queued by a ctxload of a record of its partition, unless it is queued: its team and grid are those of its header
(R362, R378). A grid that the dispatcher has forgotten is known again, with this team alone still to retire (log 13). -/
def queueImage (s : State) (d p rcd tid : Nat) (im : Image) : State :=
  if im.listed then s else
  let key := gridKey p rcd
  let s := if (tfind s.grids key).isSome then s
    else
      match readRecord s d p rcd with
      | some (lr, 0) =>
        let g : Grid :=
          { lr := lr, src := { rcd := rcd, part := p }, die := d, placed := lr.teams / (lr.w * lr.h), retired := lr.teams - 1 }
        { s with grids := tput s.grids key g }
      | _ => s
  let lr := (grid s key).lr
  let t := { im.team with
    grid := key, teamId := tid, cluster := tid / (lr.w * lr.h), cx := tid % (lr.w * lr.h) % lr.w, cy := tid % (lr.w * lr.h) / lr.w }
  let im := { im with team := t, listed := true }
  let s := if s.images.any (fun x => x.tid == im.tid) then { s with images := s.images.map (fun x => if x.tid = im.tid then im else x) }
    else { s with images := s.images ++ [im], nextTeam := s.nextTeam + 1 }
  modDie s d (fun x => { x with restore := x.restore ++ [im.tid] })

end Sys2Proof.Machine
end

