-- ==== Sys2Proof/Machine/Cp.lean ====
section
/-! DEFINITION. The copy engines: the cp operations, landing, freezing and abandonment (R280 to R301). -/

namespace Sys2Proof.Machine

/-! ### Shapes (R284, R288) -/

/-- Dimensions in use. -/
def shapeNd (w : Tbl (BitVec 32)) : Nat := ((tget 0 w 2).extractLsb' 0 2).toNat + 1

/-- Element size in bytes. -/
def shapeEs (w : Tbl (BitVec 32)) : Nat := 2 ^ ((tget 0 w 2).extractLsb' 4 3).toNat

/-- Extent of dimension k. -/
def shapeXt (w : Tbl (BitVec 32)) (k : Nat) : Nat := ((tget 0 w (k / 2)).extractLsb' (16 * (k % 2)) 16).toNat + 1

/-- Destination stride of dimension k. -/
def shapeDs (w : Tbl (BitVec 32)) (k : Nat) : Nat := (tget 0 w (4 + k)).toNat

/-- Source stride of dimension k. -/
def shapeSs (w : Tbl (BitVec 32)) (k : Nat) : Int := (tget 0 w (8 + k)).toInt

/-- The number of elements N. -/
def shapeN (w : Tbl (BitVec 32)) : Nat := (List.range (shapeNd w)).foldl (fun n k => n * shapeXt w k) 1

/-- Index k of element j. -/
def shapeIx (w : Tbl (BitVec 32)) (j k : Nat) : Nat := j / (List.range k).foldl (fun n i => n * shapeXt w i) 1 % shapeXt w k

/-- The offset of element j in the destination. -/
def dstOff (w : Tbl (BitVec 32)) (j : Nat) : Nat :=
  (List.range (shapeNd w)).foldl (fun n k => n + shapeIx w j k * shapeDs w k) 0

/-- The address of element j in the source. -/
def srcAddr (w : Tbl (BitVec 32)) (src j : Nat) : Nat :=
  (((List.range (shapeNd w)).foldl (fun (n : Int) k => n + (shapeIx w j k : Int) * shapeSs w k) src) % 2 ^ 52).toNat

/-- The span of the destination; none where the addresses would not be strictly increasing. -/
def shapeSpan (w : Tbl (BitVec 32)) : Option Nat :=
  (List.range (shapeNd w)).foldl (fun o k =>
    o.bind (fun span =>
      if 1 < shapeXt w k ∧ shapeDs w k < span then none else some (span + (shapeXt w k - 1) * shapeDs w k)))
    (some (shapeEs w))

/-- Whether a reserved field of a shape is nonzero, or ES is 7. -/
def shapeReserved (w : Tbl (BitVec 32)) : Bool :=
  (tget 0 w 2).extractLsb' 7 25 != 0 || (tget 0 w 2).extractLsb' 2 2 != 0 || tget 0 w 3 != 0 ||
    (tget 0 w 2).extractLsb' 4 3 == 7

/-- Whether addresses and strides are multiples of the element size. -/
def shapeAligned (w : Tbl (BitVec 32)) (src dst : Nat) : Bool :=
  let es := shapeEs w
  src % es == 0 && dst % es == 0 &&
    (List.range (shapeNd w)).all (fun k =>
      decide (shapeXt w k ≤ 1) || (shapeDs w k % es == 0 && shapeSs w k % (es : Int) == 0))

/-! ### The guarded range (R288, R291) -/

/-- A destination through core windows, translated whole: each page's part; none if a page is not present, or maps to a place of a
window where there is none (R301). A page that fails otherwise (its attributes, a lease) stops no cpgo: its elements wait or freeze
the channel as they land (R289, R293). -/
def windowParts (s : State) (c p dst span : Nat) : Option (List (Nat × Nat × Nat)) :=
  (List.range ((dst + span - 1) / 4096 - dst / 4096 + 1)).foldr (fun i o =>
    let lo := max dst ((dst / 4096 + i) * 4096)
    let hi := min (dst + span) ((dst / 4096 + i + 1) * 4096)
    o.bind (fun ps =>
      match translate s c p lo with
      | .leaf t =>
        let pa := if t.attr.repl then tlbPhys t lo + dieOf c * 2 ^ 36 else tlbPhys t lo
        if regionOf pa = 8 ∧ ¬(physOk s pa = true ∧ physOk s (pa + (hi - lo) - 1) = true) then none
        else some ((pa, lo, hi - lo) :: ps)
      | .absent _ => none
      | _ => some ps)) (some [])

/-- The key of a destination range: virtual, physical parts, or a translation fault. A translated destination is physical
if its first page maps to a core window (log 20). -/
def guardKey (s : State) (c tid p dst span : Nat) : Except Nat (Option (List (Nat × Nat × Nat))) :=
  if apertureBase < dst + span then
    if dst < apertureBase then .error 0x0A
    else match aperture s tid dst span with
      | some (_, pa) => .ok (some [(pa, dst, span)])
      | none => .error 0x0A
  else
    match translate s c p dst with
    | .leaf t =>
      if regionOf (tlbPhys t dst) = 8 then
        (match windowParts s c p dst span with | some ps => .ok (some ps) | none => .error 0x0A)
      else .ok none
    | _ => .ok none

/-- The parts of a physical key whose pages pass the checks of a copy destination at cpgo, by virtual start, with PROP: their elements
land where the key says, whatever the tables say later (R291). -/
def fixedParts (s : State) (c p : Nat) (priv : Bool) (ps : List (Nat × Nat × Nat)) : Tbl Bool :=
  let a : Access := { kind := .copyDst, part := p, priv := priv }
  ps.filterMap (fun r =>
    if apertureBase ≤ r.2.1 then some (r.2.1, false)
    else
      match translate s c p r.2.1 with
      | .leaf t => (match physCheck s c a (tlbPhys t r.2.1) t.attr r.2.2 with | .ok _ at_ => some (r.2.1, at_.prop) | _ => none)
      | _ => none)

/-- The cause of the first check of R288 that fails. -/
def copyFault (w : Tbl (BitVec 32)) (src dst : Nat) : Option Nat :=
  if shapeReserved w then some 0x04
  else
    match shapeSpan w with
    | none => some 0x04
    | some span =>
      if 2 ^ 40 - 1 < shapeEs w * shapeN w ∨ 2 ^ 52 < dst + span then some 0x04
      else if !shapeAligned w src dst then some 0x08
      else none

/-- The further checks of a halo (R296): the source in the scratchpad of another team of the cluster, whole, and the
guarded range in the team's own scratchpad. -/
def haloOk (s : State) (tid : Nat) (w : Tbl (BitVec 32)) (src : Nat) (key : Option (List (Nat × Nat × Nat))) : Bool :=
  let off := src - apertureBase
  let low : Int := (List.range (shapeNd w)).foldl (fun (n : Int) k => n + min 0 ((shapeXt w k - 1 : Nat) * shapeSs w k)) src
  let high : Int := (List.range (shapeNd w)).foldl (fun (n : Int) k => n + max 0 ((shapeXt w k - 1 : Nat) * shapeSs w k)) src
  let base : Nat := src - off % 2 ^ 20
  let own := teamRange (team s tid) 0
  decide (apertureBase ≤ src) && decide (off % 2 ^ 20 < 0x80000) &&
    (match apertureTeam s tid (off / 2 ^ 20) with
      | some o =>
        o != tid && decide ((base : Int) ≤ low) &&
          decide (high + shapeEs w ≤ (base : Int) + (teamRange (team s o) 0).2)
      | none => false) &&
    (match key with
      | some ps => ps.all (fun r => decide (own.1 ≤ r.1) && decide (r.1 + r.2.2 ≤ own.1 + own.2))
      | none => false)

/-! ### Ownership and start (R285, R288, R296, R297) -/

/-- The state with a channel changed. -/
def modChan (s : State) (c ch : Nat) (f : Chan → Chan) : State :=
  modCore s c (fun k => { k with chans := tput k.chans ch (f (tget {} k.chans ch)) })

/-- The channel that aux names. -/
def chanNo (o : Opnd) : Nat := (o.aux.extractLsb' 0 3).toNat

/-- Whether a channel belongs to another team than the group's. -/
def othersChan (s : State) (c sl : Nat) (q : Chan) : Bool :=
  match q.own with | some t => t != (group s c sl).team | none => false

/-- A fault against the trigger's slot. -/
def cpFault (s : State) (c sl cause : Nat) (o : Opnd) : State := slotFault s c sl cause 0 ((lowest o.en).getD 0)

/-- The claim of an unowned channel (R285). -/
def claimChan (s : State) (c sl ch : Nat) : State :=
  if (chanOf s c ch).own.isSome then s
  else modChan s c ch (fun _ => { own := some (group s c sl).team })

/-- A cp trigger that needs the channel for its team and claims it. -/
def ownedCp (s : State) (c sl : Nat) (o : Opnd) (f : State → Nat → State) : State :=
  if othersChan s c sl (chanOf s c (chanNo o)) then cpFault s c sl 0x04 o
  else f (claimChan s c sl (chanNo o)) (chanNo o)

/-- The last operation number that a channel has given: CSEQ may still have to reach it (R251, R282; DEDUCED, log 50). -/
def lastNumber (q : Chan) : BitVec 64 := ((q.owed.getLast?).map (·.1)).getD q.cseq

/-- A started copy's place in the acceptance order, its wait (R250), its operation number and its entry (R288). FCODE and SIDE are
cleared at every start, of a ring's binding too (DESIGN CHOICE, log 50: R288 clears FCODE at cpgo and is silent on SIDE, and R297 on
both). -/
def acceptCopy (s : State) (c sl k : Nat) (o : Opnd) (ch : Nat) (f : Chan → Chan) : State :=
  let g := group s c sl
  let n := placeOf s c sl
  let ord := (core s c).chanOrder
  let s := modCore s c (fun x => { x with chanOrder := ord + 1 })
  let s := modChan s c ch (fun q =>
    f { q with
      fcode := 0, side := false, wov := false, wls := false, n := lastNumber q + 1, part := g.part, priv := g.hmode, order := ord
      wait := some (sl, n), minT := 0, lastW := 0, elemW := none, key := none, aborting := false, freeAt := none
      ahead := [], landLog := [], released := false, sent := coreTime s c, bargen := clusterGen s (team s g.team).grid (team s g.team).cluster })
  addTimed s c sl k 17 o 0 (lo64 (chanOf s c ch).n)

/-- cpgo and cphalo after the claim: the checks in their order, then the start. -/
def startCopy (s : State) (c sl k : Nat) (o : Opnd) (halo : Bool) (ch : Nat) : State :=
  let q := chanOf s c ch
  let g := group s c sl
  if ringBound q then cpFault s c sl 0x04 o
  else
    match copyFault q.shape q.csrc.toNat q.cdst.toNat with
    | some cz => cpFault s c sl cz o
    | none =>
      let span := (shapeSpan q.shape).getD 0
      match guardKey s c g.team g.part q.cdst.toNat span with
      | .error cz => cpFault s c sl cz o
      | .ok key =>
        if halo && !haloOk s g.team q.shape q.csrc.toNat key then cpFault s c sl 0x0A o
        else
          acceptCopy s c sl k o ch (fun q => { q with
            st := if halo then .armed else .landing, halo := halo, ring := none
            rsrc := q.csrc.toNat, rdst := q.cdst.toNat, rshape := q.shape, pos := 0, phys := key
            fixed := fixedParts s c g.part g.hmode (key.getD [])
            cwm := q.cdst.toNat, cwm0 := q.cdst.toNat, gend := q.cdst.toNat + span, clen := shapeEs q.shape * shapeN q.shape })

/-- cpring after the claim (R297). A ring that is not enabled does not exist (log 20). -/
def bindRing (s : State) (c sl k : Nat) (o : Opnd) (ch : Nat) : State :=
  let i := ((uniform o.en o.t).extractLsb' 0 10).toNat
  let r := tget {} s.ingest i
  if ringBound (chanOf s c ch) || !r.enabled || r.part != (group s c sl).part then cpFault s c sl 0x04 o
  else
    acceptCopy s c sl k o ch (fun q => { q with
      st := .landing, halo := false, ring := some i, rdst := r.rb, gend := r.rb + r.rs, cwm := r.rb, clen := 0
      rshape := [], pos := 0, phys := none, fixed := [], wp0 := r.wp, rp0 := r.rp, landLog := [(r.wp.toNat, coreTime s c)] })

/-! ### What a channel shows (R283, R295, R297) -/

/-- The code of STATE. -/
def ChState.code : ChState → Nat
  | .idle => 0 | .armed => 1 | .landing => 2 | .frozen => 3 | .done => 4 | .abandoned => 5

/-- CSTAT (R283). -/
def cstat (q : Chan) : Nat :=
  q.st.code + q.own.isSome.toNat * 2 ^ 3 + q.halo.toNat * 2 ^ 8 + (ringBound q).toNat * 2 ^ 9 + q.wls.toNat * 2 ^ 10 +
    q.wov.toNat * 2 ^ 11 + q.fcode % 256 * 2 ^ 32 + q.side.toNat * 2 ^ 40

/-- What cpwm reads of a channel (R286). -/
def wmWord (q : Chan) : BitVec 128 := BitVec.ofNat 128 ((chanView q).1 % 2 ^ 52 + (chanView q).2.1 % 2 ^ 52 * 2 ^ 64)

/-- What cpstat reads of a channel (R286). -/
def statWord (q : Chan) : BitVec 128 := BitVec.ofNat 128 (cstat q + (chanView q).2.2 % 2 ^ 40 * 2 ^ 64)

/-! ### Stopping (R294, R297) -/

/-- Entries of cpabort on a channel fill with its final CWM. -/
def fillAborts (s : State) (c ch : Nat) : State :=
  let v : Row := splat (BitVec.ofNat 128 ((chanOf s c ch).cwm % 2 ^ 52))
  modCore s c (fun k => { k with groups := k.groups.map (fun p =>
    (p.1, (allEntries p.2).foldl (fun g x =>
      if x.2.2.2.pend = .cpabort ch then fillEntry g k.cycle x.1 x.2.1 x.2.2.1 v else g) p.2)) })

/-- The pointers of a bound ring as they stand now. -/
def ringNow (s : State) (q : Chan) : Chan :=
  match q.ring with
  | some i => let r := tget {} s.ingest i; { q with wp0 := r.wp, rp0 := r.rp }
  | none => q

/-- Whether a channel that stops has come to rest: no element is on its way, and every write of its operations has reached its W
on the engine's die, so that CSEQ may be n (R251, R294; DEDUCED, log 50). -/
def stopped (s : State) (c : Nat) (q : Chan) : Bool :=
  q.elemW.isNone && (q.owed.all (fun o => decide (o.2.toNat ≤ (coreTime s c).toNat))) &&
    decide (q.lastW.toNat ≤ (coreTime s c).toNat)

/-- What a channel holds when it becomes ABANDONED: its final watermark and range, and for a ring the free region as it stands
(R294, R297). `rest` says that every write of its operations has reached its W; else CSEQ follows once they have (R251, R289;
DEDUCED, log 50). -/
def abandonedOf (s : State) (rest : Bool) (q : Chan) : Chan :=
  let q := ringNow s q
  let (w, e, _) := chanView q
  let free := if ringBound q then some (ringFree q.wp0 q.rp0 (q.gend - q.rdst)) else none
  { q with
    st := .abandoned, cseq := if rest then q.n else q.cseq, owed := if rest then [] else q.owed ++ [(q.n, q.lastW)]
    clen := 0, cwm := w, gend := e, freeAt := free, aborting := false, elemW := none
    wov := false, wls := false, key := none, ahead := [] }

/-- A channel becomes ABANDONED: it leaves the parked set, and a barrier that waited for a halo may complete. -/
def abandonChan (s : State) (c ch : Nat) : State :=
  let q := chanOf s c ch
  let s := modChan s c ch (abandonedOf s (stopped s c q))
  let s := { s with parked := s.parked.filter (fun p => p.ref != .chan c ch) }
  let s := fillAborts s c ch
  match q.own with
  | some t => if q.halo then clusterCheck s t else s
  | none => s

/-- Every channel bound to a ring is unbound, those of saved teams among them (R297, R299, R320). -/
def unbindRing (s : State) (i : Nat) : State :=
  let bound (q : Chan) : Bool := ringBound q && q.ring == some i
  let s := (s.cores.flatMap (fun p => (p.2.chans.filter (fun q => bound q.2)).map (fun q => (p.1, q.1)))).foldl
    (fun s x => abandonChan s x.1 x.2) s
  { s with images := s.images.map (fun im =>
      { im with chans := im.chans.map (fun q => (q.1, if bound q.2 then abandonedOf s q.2.owed.isEmpty q.2 else q.2)) }) }

/-! ### Landing (R289 to R293) -/

/-- A channel freezes: the fault enters the buffer, and the channel the parked set (R293, R335 to R337). -/
def freezeChan (s : State) (c ch fcode : Nat) (side : Bool) (k : Key) (va : Nat) (kind : AccKind) : State :=
  let s := modChan s c ch (fun q => { q with
    st := .frozen, fcode := fcode, side := side, key := some k, fva := va, wov := false, wls := false, ahead := [] })
  if fcode = 1 then parkAccess s c (.chan c ch) k va (c + 2 ^ 14) ch kind
  else
    let d := dieOf c
    faultBuffer { s with
        parked := s.parked ++ [{ id := s.nextPark, die := d, key := k, ref := .chan c ch, stamp := cycleOf s c + 1 }]
        nextPark := s.nextPark + 1 } d
      { cause := fcode, kind := kindCode kind, key := k, part := k.part, chan := ch, origin := c + 2 ^ 14
        team := (chanOf s c ch).own.getD 0, count := 1, va := va, gtime := gtime s d }

/-- The code of FCODE for a cause (R283). -/
def fcodeOf (cause : Nat) : Nat := if cause = 0x09 then 3 else if cause = 0x19 then 4 else 2

/-- The freeze of an element whose translation failed. -/
def freezeFor (s : State) (c ch p : Nat) (side : Bool) (va : Nat) (kind : AccKind) (out : ElemOut) : State :=
  match out with
  | .absent k => freezeChan s c ch 1 side k va kind
  | .fault cz => freezeChan s c ch (fcodeOf cz) side ⟨p, va / 4096 * 4096, 12⟩ va kind
  | _ => s

/-- An element is counted into CWM (R289); the last one ends the copy, and an abort takes effect after it. -/
def countElem (s : State) (c ch : Nat) : State :=
  let q := chanOf s c ch
  let es := shapeEs q.rshape
  let last := decide (shapeN q.rshape ≤ q.pos + 1)
  let w := if last then q.gend else q.rdst + dstOff q.rshape (q.pos + 1)
  let s := countEvent s c 0xC (some q.part) es
  let s := modCore s c (fun k => { k with closed := true, landed := true })
  let s := modChan s c ch (fun q => { q with
    clen := q.clen - es, pos := q.pos + 1, elemW := none, sent := coreTime s c, cwm := w
    landLog := (w, coreTime s c) :: q.landLog, ahead := tdel q.ahead q.pos
    owed := if last && !q.aborting then q.owed ++ [(q.n, q.lastW)] else q.owed
    st := if last && !q.aborting then .done else .landing })
  if q.aborting then (if stopped s c (chanOf s c ch) then abandonChan s c ch else s)
  else if last then (match q.own with | some t => if q.halo then clusterCheck s t else s | none => s)
  else s

/-- Whether an earlier channel holds the element (R292). -/
def heldByEarlier (s : State) (c : Nat) (q : Chan) (e : Elem) : Bool :=
  (core s c).chans.any (fun p =>
    decide (p.2.order < q.order) && (p.2.st == .landing || p.2.st == .frozen) && p.2.ring.isNone &&
      compare1 q.part p.2 e == .held)

/-- An access of a channel's own. -/
def chanAccess (q : Chan) (k : AccKind) (va : Nat) : Access :=
  { kind := k, part := q.part, priv := q.priv, elems := [{ lane := 0, off := 0, len := shapeEs q.rshape, va := va }] }

/-- Where an element at va of a channel's destination lands, or what stops it: a physically keyed destination was translated whole at
cpgo (R291), and a page that did not pass its checks then is asked again (R293). -/
def destCheck (s : State) (c : Nat) (q : Chan) (va : Nat) : ElemOut :=
  let live := elemCheck s c (q.own.getD 0) (chanAccess q .copyDst va) true { lane := 0, off := 0, len := shapeEs q.rshape, va := va }
  match (q.phys.getD []).find? (fun r => decide (r.2.1 ≤ va) && decide (va < r.2.1 + r.2.2)) with
  | none => live
  | some r =>
    match tfind q.fixed r.2.1, live with
    | some prop, _ => .ok (r.1 + (va - r.2.1)) { prop := prop }
    | none, .ok _ at_ => .ok (r.1 + (va - r.2.1)) at_
    | none, out => out

/-- The TLB fills and misses of an element: of its source, and of a destination that was not translated at cpgo (R291, R332, R385). -/
def landWalks (s : State) (c : Nat) (q : Chan) : State :=
  let s := fillWalks s c (chanAccess q .copySrc (srcAddr q.rshape q.rsrc q.pos))
  if q.phys.isSome then s else fillWalks s c (chanAccess q .copyDst (q.rdst + dstOff q.rshape q.pos))

/-- What the source of element j gives: its value and where it stands, or what stops it (R290, R293). -/
inductive SourceOut where
  | ok (v pa : Nat)
  | bad
  | stops (out : ElemOut)
  deriving DecidableEq, Repr

/-- The source of element j read at its home now (R290). -/
def readSource (s : State) (c : Nat) (q : Chan) (j : Nat) : SourceOut :=
  let es := shapeEs q.rshape
  let va := srcAddr q.rshape q.rsrc j
  match elemCheck s c (q.own.getD 0) (chanAccess q .copySrc va) true { lane := 0, off := 0, len := es, va := va } with
  | .ok pa _ =>
    let pa := (homePa s pa).1
    if readFails s pa es then .bad else .ok (physRead s (some c) pa es) pa
  | out => .stops out

/-- The source of element j is read ahead of its landing; a fault waits for its turn (R290, R293). -/
def readAhead (s : State) (c ch j : Nat) : State :=
  match readSource s c (chanOf s c ch) j with
  | .ok v pa =>
    if planeDown s pa then s else
    let s := sendOut s (dieOf c) false pa (shapeEs (chanOf s c ch).rshape)
    { modChan s c ch (fun q => { q with ahead := tput q.ahead j v }) with fresh := s.fresh + 1 }
  | _ => s

/-- The next element, whose source gave v, is written (R289). It waits first for an earlier overlapping channel, then for a leased
row; the tick since which it may be on its way counts from the end of these waits (R407). -/
def landValue (s : State) (c ch v : Nat) : State :=
  let q := chanOf s c ch
  let es := shapeEs q.rshape
  let dst := q.rdst + dstOff q.rshape q.pos
  let e : Elem := { lane := 0, off := 0, len := es, va := dst }
  match destCheck s c q dst with
  | .ok pa attr =>
    let pd := (homePa s pa).1
    if heldByEarlier s c q { e with pa := pd } then
      modChan s c ch (fun q => { q with wov := true, wls := false, sent := coreTime s c })
    else if touchesLease s pd es then modChan s c ch (fun q => { q with wls := true, wov := false, sent := coreTime s c })
    else
      let s := landWalks s c q
      let (s, w) := performWrite { s with fresh := s.fresh + 1 } (some c) none (dieOf c) attr.prop (leCells pd es v)
      let s := modCore s c (fun k => { k with closed := true, landed := true })
      let s := modChan s c ch (fun q => { q with wov := false, wls := false, lastW := tmax q.lastW w, elemW := some w })
      if regionOf pd = 0 ∧ !attr.prop then s else countElem s c ch
  | out =>
    freezeFor (landWalks s c q) c ch q.part true dst .copyDst out

/-- The next element is read, unless it has been read ahead, and written (R289, R290, R293). -/
def landElem (s : State) (c ch : Nat) : State :=
  let q := chanOf s c ch
  let src := srcAddr q.rshape q.rsrc q.pos
  match tfind q.ahead q.pos with
  | some v => landValue s c ch v
  | none =>
  match readSource s c q q.pos with
  | .ok v pa => landValue (sendOut s (dieOf c) false pa (shapeEs q.rshape)) c ch v
  | .bad =>
    freezeChan { fillWalks s c (chanAccess q .copySrc src) with fresh := s.fresh + 1 } c ch 4 false
      ⟨q.part, src / 4096 * 4096, 12⟩ src .copySrc
  | .stops out => freezeFor (fillWalks s c (chanAccess q .copySrc src)) c ch q.part false src .copySrc out

/-- The side of the next element of a channel whose address passes a test: true for the destination. -/
def elemAsks (s : State) (c : Nat) (q : Chan) (test : Nat → Bool) : Option Bool :=
  let asks (out : ElemOut) : Bool := match out with | .ok pa _ => test pa | _ => false
  let src := srcAddr q.rshape q.rsrc q.pos
  if (tfind q.ahead q.pos).isNone && asks (elemCheck s c (q.own.getD 0) (chanAccess q .copySrc src) true
      { lane := 0, off := 0, len := shapeEs q.rshape, va := src }) then some false
  else if asks (destCheck s c q (q.rdst + dstOff q.rshape q.pos)) then some true
  else none

/-- Whether the next element of a channel has had no answer of another package for 2^24 ticks, and on which side (R407). -/
def elemTimedOut (s : State) (c : Nat) (q : Chan) : Option Bool := elemAsks s c q (fun pa => timedOut s c q.sent [pa])

/-- Whether the writes of an element are served to every observer (R252). -/
def elemServed (s : State) (c : Nat) (w : BitVec 64) : Bool :=
  !(unserved s none).any (fun h => h.core == some c && h.w == w)

/-- Whether the wait of a started copy or engine operation is over (R250). -/
def startReady (s : State) (c : Nat) (wait : Option (Nat × Nat)) (minT : BitVec 64) : Bool :=
  match wait with
  | some (sl, n) => released s c sl n true
  | none => decide (minT.toNat ≤ (coreTime s c).toNat)

/-- Whether the current limit keeps a core from issuing in this cycle (R416). -/
def limitHolds (s : State) (c : Nat) : Bool :=
  (die s (dieOf c)).limited && decide (0 < (core s c).lastIssue) && decide ((core s c).cycle ≤ (core s c).lastIssue)

/-- Whether a core may still issue in this cycle (R26): nothing that falls at its end has come about (R78). -/
def mayIssue (s : State) (c : Nat) : Bool := coreRuns s c && (core s c).issued.isNone && !(core s c).closed && !limitHolds s c

/-- Whether the issue of this cycle is over: a bundle was issued, or none can be. -/
def issueOver (s : State) (c : Nat) : Bool := !mayIssue s c || (eligibleSlots s c).isEmpty

/-- Whether a held access of a group is let go, or abandoned, by the compare of this cycle (R291). -/
def freedAccess (s : State) (c sl : Nat) (g : Group) : Bool :=
  (allEntries g).any (fun x => match x.2.2.2.pend with
    | .mem a => a.held && (if a.stat == .ready then compareAccess s c a.part a.elems != .held
        else compareAbsent s c (group s c sl).team a != .held)
    | _ => false)

/-- Whether a compare of this cycle has still to act: it comes before the landings of the cycle (R291, R300). -/
def releaseDue (s : State) (c : Nat) : Bool :=
  !(core s c).landed && (core s c).groups.any (fun p => freedAccess s c p.1 p.2)

/-- COPY_ELEMENT_LAND (R289 to R293; selection: core, channel, 0 for the next element or one more than how many elements further
on the source is read ahead). Landings fall at the end of their cycle, after its issue and its compares. -/
def execCopyElementLand (s : State) : Host.Outcome State Fault Refusal :=
  let c := selAt s 0
  let ch := selAt s 1
  let q := chanOf s c ch
  let j := q.pos + (selAt s 2 - 1)
  if q.st != .landing || q.ring.isSome then .next s
  else if 0 < selAt s 2 then
    .next (if startReady s c q.wait q.minT && decide (j < shapeN q.rshape) then readAhead s c ch j else s)
  else if !issueOver s c || releaseDue s c then .next s
  else
    match q.elemW with
    | some w => .next (if elemServed s c w then countElem s c ch else s)
    | none =>
      .next (if startReady s c q.wait q.minT && !q.aborting && (elemAsks s c q (fun pa => unanswered s c q.sent [pa])).isNone then
          landElem s c ch
        else s)

/-- COPY_CSEQ_ADVANCE (R251, R289): every write of the operations up to one that CSEQ has still to reach has reached its W; or a
stop has come to its end (R294; selection: core, channel). -/
def execCopyCseqAdvance (s : State) : Host.Outcome State Fault Refusal :=
  let c := selAt s 0
  let ch := selAt s 1
  let q := chanOf s c ch
  if q.aborting then .next (if stopped s c q then abandonChan s c ch else s)
  else
    match q.owed with
    | (n, w) :: rest =>
      if w.toNat ≤ (coreTime s c).toNat then .next (modChan s c ch (fun q => { q with cseq := n, owed := rest })) else .next s
    | [] => .next s

/-! ### The operations (R286, R287, R294, R295) -/

/-- cpsrc (R287) -/
def execCpCpsrc (t : Trig) (s : State) : Host.Outcome State Fault Refusal :=
  .next (runTrig (.cpCpsrc t) .cp t s (fun s c sl _ o =>
    ownedCp s c sl o (fun s ch => modChan s c ch (fun q => { q with csrc := (uniform o.en o.t).setWidth 52 }))))

/-- cpdst (R287) -/
def execCpCpdst (t : Trig) (s : State) : Host.Outcome State Fault Refusal :=
  .next (runTrig (.cpCpdst t) .cp t s (fun s c sl _ o =>
    ownedCp s c sl o (fun s ch => modChan s c ch (fun q => { q with cdst := (uniform o.en o.t).setWidth 52 }))))

/-- cpshape (R287): words 2N and 2N + 1. -/
def execCpCpshape (t : Trig) (s : State) : Host.Outcome State Fault Refusal :=
  .next (runTrig (.cpCpshape t) .cp t s (fun s c sl _ o =>
    ownedCp s c sl o (fun s ch => modChan s c ch (fun q => { q with
      shape := tput (tput q.shape (2 * t.typ.toNat) ((uniform o.en o.a).setWidth 32)) (2 * t.typ.toNat + 1)
        ((uniform o.en o.t).setWidth 32) }))))

/-- cpgo (R288) -/
def execCpCpgo (t : Trig) (s : State) : Host.Outcome State Fault Refusal :=
  .next (runTrig (.cpCpgo t) .cp t s (fun s c sl k o => ownedCp s c sl o (fun s ch => startCopy s c sl k o false ch)))

/-- cphalo (R296) -/
def execCpCphalo (t : Trig) (s : State) : Host.Outcome State Fault Refusal :=
  .next (runTrig (.cpCphalo t) .cp t s (fun s c sl k o => ownedCp s c sl o (fun s ch => startCopy s c sl k o true ch)))

/-- cpring (R297) -/
def execCpCpring (t : Trig) (s : State) : Host.Outcome State Fault Refusal :=
  .next (runTrig (.cpCpring t) .cp t s (fun s c sl k o => ownedCp s c sl o (fun s ch => bindRing s c sl k o ch)))

/-- cpwm and cpstat: open to the owning team's partition (R285). They give what the channel showed at the start of the cycle; one
that was not in use then shows the reset values (R295). -/
def readChan (s : State) (c sl k : Nat) (o : Opnd) (f : BitVec 128 × BitVec 128 → BitVec 128) : State :=
  let q := chanOf s c (chanNo o)
  let ok := match q.own with | some t => (team s t).part == (group s c sl).part | none => true
  if ok then addTimed s c sl k 17 o 2 (f (tget (0, 0) (core s c).shown (chanNo o))) else cpFault s c sl 0x04 o

/-- cpwm (R286, R295) -/
def execCpCpwm (t : Trig) (s : State) : Host.Outcome State Fault Refusal :=
  .next (runTrig (.cpCpwm t) .cp t s (fun s c sl k o => readChan s c sl k o (·.1)))

/-- cpstat (R283, R286, R295) -/
def execCpCpstat (t : Trig) (s : State) : Host.Outcome State Fault Refusal :=
  .next (runTrig (.cpCpstat t) .cp t s (fun s c sl k o => readChan s c sl k o (·.2)))

/-- cpabort (R285, R294) -/
def abortChan (s : State) (c sl k : Nat) (o : Opnd) : State :=
  let ch := chanNo o
  let q := chanOf s c ch
  let now (s : State) (v : Nat) : State := addTimed s c sl k 17 o 0 (BitVec.ofNat 128 (v % 2 ^ 52))
  if othersChan s c sl q then cpFault s c sl 0x04 o
  else if q.own.isNone then now s 0
  else
    match q.st with
    | .idle | .done | .abandoned => modChan (now s q.cwm) c ch (fun _ => {})
    | _ =>
      if stopped s c q then
        let s := abandonChan s c ch
        now s (chanOf s c ch).cwm
      else modChan (addEntry s c sl k 17 o 0 (.cpabort ch)) c ch (fun q => { q with aborting := true })

/-- cpabort (R294) -/
def execCpCpabort (t : Trig) (s : State) : Host.Outcome State Fault Refusal :=
  .next (runTrig (.cpCpabort t) .cp t s (fun s c sl k o => abortChan s c sl k o))

end Sys2Proof.Machine
end

