-- ==== Sys2Proof/Machine/Ia.lean ====
section
/-! DEFINITION. The ia operations (R118 to R136). -/

namespace Sys2Proof.Machine

/-! ### Elements (R119, R120) -/

/-- Element width that a TYPE selects (R119). -/
def iaWidth (t : BitVec 3) : Nat := match t.toNat with | 0 | 1 => 32 | 2 | 3 => 16 | _ => 8

/-- Whether a TYPE is signed (R119). -/
def iaSigned (t : BitVec 3) : Bool := !t.getLsbD 0

/-- The function of an elementwise operation: element width, signedness, the elements of a, b and T, and the exact
integer. -/
abbrev IaFun := (w : Nat) → Bool → BitVec w → BitVec w → BitVec w → Int

/-- Element e of a result word: saturated, or wrapped (R120, R123). -/
def iaElem (F : IaFun) (w : Nat) (sg satur : Bool) (a b t : BitVec 32) (e : Nat) : Nat :=
  let v := F w sg (a.extractLsb' (w * e) w) (b.extractLsb' (w * e) w) (t.extractLsb' (w * e) w)
  ((if satur then sat sg w v else v) % 2 ^ w).toNat

/-- The word of the low n elements. -/
def elemsNat (w : Nat) (f : Nat → Nat) : Nat → Nat
  | 0 => 0
  | n + 1 => elemsNat w f n + f n * 2 ^ (w * n)

/-- One lane of an elementwise operation (R120). -/
def iaWord (F : IaFun) (w : Nat) (sg satur : Bool) (a b t : BitVec 32) : BitVec 32 :=
  BitVec.ofNat 32 (elemsNat w (iaElem F w sg satur a b t) (32 / w))

/-- The low word of a lane. -/
def word0 (r : Row) (L : Nat) : BitVec 32 := (lane r L).setWidth 32

/-- How an operation treats the SAT bit (R120, R122). -/
inductive SatUse where
  | ignored | honoured | always
  deriving DecidableEq, Repr

/-- Whether a trigger of the operation saturates. -/
def SatUse.on (u : SatUse) (t : Trig) : Bool :=
  match u with | .ignored => false | .honoured => t.mod.getLsbD 0 | .always => true

/-- An elementwise operation of latency n. -/
def runIa (i : Instr) (t : Trig) (n : Nat) (u : SatUse) (F : IaFun) (s : State) : State :=
  runFixed i .ia t n s (fun o =>
    { r := mkRow (fun L =>
        lo32 (iaWord F (iaWidth t.typ) (iaSigned t.typ) (u.on t) (word0 o.a L) (word0 o.b L) (word0 o.t L))) })

/-- An operation on whole words of latency n; signed tells an i type. -/
def runIaWord (i : Instr) (t : Trig) (n : Nat) (F : Bool → BitVec 32 → BitVec 32 → BitVec 32 → Slice) (s : State) : State :=
  runFixed i .ia t n s (fun o =>
    { r := mkRow (fun L => F (iaSigned t.typ) (word0 o.a L) (word0 o.b L) (word0 o.t L)) })

/-! ### The functions (R122 to R132) -/

/-- Bits of the word, as an exact integer. -/
def bitsVal {w : Nat} (x : BitVec w) : Int := x.toNat

/-- All ones when the relation holds (R132). -/
def cmpVal (w : Nat) (b : Bool) : Int := if b then 2 ^ w - 1 else 0

/-- The shifts (R127): a left shift is exact, and wraps or saturates after it. -/
def shlVal (w : Nat) (sg : Bool) (x c : BitVec w) : Int :=
  intVal sg x * 2 ^ (min c.toNat (2 * w))

/-- shr (R127) -/
def shrVal (w : Nat) (x c : BitVec w) : Int := bitsVal (x >>> (min c.toNat w))

/-- sar (R127) -/
def sarVal (w : Nat) (x c : BitVec w) : Int := (x.sshiftRight (min c.toNat w)).toInt

/-- rot (R127) -/
def rotVal (w : Nat) (x c : BitVec w) : Int := bitsVal (x.rotateLeft (c.toNat % w))

/-- Zero bits above the highest one bit (R128). -/
def clzVal (w : Nat) (z : BitVec w) : Int := ((List.range w).takeWhile (fun i => !z.getLsbD (w - 1 - i))).length

/-- Zero bits below the lowest one bit (R128). -/
def ctzVal (w : Nat) (z : BitVec w) : Int := ((List.range w).takeWhile (fun i => !z.getLsbD i)).length

/-- One bits (R128). -/
def popVal (w : Nat) (z : BitVec w) : Int := ((List.range w).filter (fun i => z.getLsbD i)).length

/-- The bits in reverse order (R128). -/
def brevVal (w : Nat) (z : BitVec w) : Int := bitsVal (BitVec.ofBoolListLE ((List.range w).map (fun i => z.getLsbD (w - 1 - i))))

/-- pos and len of a bit-field operation (R129). -/
def fieldOf (t : BitVec 32) : Nat × Nat := ((t.extractLsb' 0 8).toNat, min 32 (t.extractLsb' 8 8).toNat)

/-- bfx (R129) -/
def bfxWord (sg : Bool) (a t : BitVec 32) : BitVec 32 :=
  let (pos, len) := fieldOf t
  let wide : BitVec 64 := if sg then a.signExtend 64 else a.setWidth 64
  let f : BitVec 64 := wide.sshiftRight (min pos 63)
  if len = 0 then 0 else if sg then (f.setWidth len).signExtend 32 else (f.setWidth len).setWidth 32

/-- bfi (R130) -/
def bfiWord (a b t : BitVec 32) : BitVec 32 :=
  let (pos, len) := fieldOf t
  let m : BitVec 32 := (BitVec.ofNat 32 (2 ^ len - 1)) <<< pos
  (a &&& ~~~m) ||| ((b <<< pos) &&& m)

/-- lea (R134): base, index and scale. -/
def leaAddr (sg : Bool) (scale : Nat) (a b t : BitVec 32) : BitVec 52 :=
  BitVec.ofInt 52 ((b.extractLsb' 0 20).toNat * 2 ^ 32 + a.toNat + intVal sg t * 2 ^ scale)

/-- hmix (R135) -/
def hmixWord (h x : BitVec 32) : BitVec 32 :=
  let m := (h ^^^ x) * 0x9E3779B1#32
  m ^^^ (m >>> 15)

/-! ### The meanings -/

/-- add (R122) -/
def execIaAdd (t : Trig) (s : State) : Host.Outcome State Fault Refusal :=
  .next (runIa (.iaAdd t) t 1 .honoured (fun _ sg x _ z => intVal sg x + intVal sg z) s)

/-- sub (R122) -/
def execIaSub (t : Trig) (s : State) : Host.Outcome State Fault Refusal :=
  .next (runIa (.iaSub t) t 1 .honoured (fun _ sg x _ z => intVal sg x - intVal sg z) s)

/-- rsub (R122) -/
def execIaRsub (t : Trig) (s : State) : Host.Outcome State Fault Refusal :=
  .next (runIa (.iaRsub t) t 1 .honoured (fun _ sg x _ z => intVal sg z - intVal sg x) s)

/-- neg (R123) -/
def execIaNeg (t : Trig) (s : State) : Host.Outcome State Fault Refusal :=
  .next (runIa (.iaNeg t) t 1 .honoured (fun _ sg _ _ z => -intVal sg z) s)

/-- abs (R123) -/
def execIaAbs (t : Trig) (s : State) : Host.Outcome State Fault Refusal :=
  .next (runIa (.iaAbs t) t 1 .honoured (fun _ sg _ _ z => ((intVal sg z).natAbs : Int)) s)

/-- min (R122) -/
def execIaMin (t : Trig) (s : State) : Host.Outcome State Fault Refusal :=
  .next (runIa (.iaMin t) t 1 .ignored (fun _ sg x _ z => min (intVal sg x) (intVal sg z)) s)

/-- max (R122) -/
def execIaMax (t : Trig) (s : State) : Host.Outcome State Fault Refusal :=
  .next (runIa (.iaMax t) t 1 .ignored (fun _ sg x _ z => max (intVal sg x) (intVal sg z)) s)

/-- addsat (R124) -/
def execIaAddsat (t : Trig) (s : State) : Host.Outcome State Fault Refusal :=
  .next (runIa (.iaAddsat t) t 1 .always (fun _ sg x _ z => intVal sg x + intVal sg z) s)

/-- subsat (R124) -/
def execIaSubsat (t : Trig) (s : State) : Host.Outcome State Fault Refusal :=
  .next (runIa (.iaSubsat t) t 1 .always (fun _ sg x _ z => intVal sg x - intVal sg z) s)

/-- mul (R123) -/
def execIaMul (t : Trig) (s : State) : Host.Outcome State Fault Refusal :=
  .next (runIa (.iaMul t) t 3 .honoured (fun _ sg x _ z => intVal sg x * intVal sg z) s)

/-- mulhi (R125) -/
def execIaMulhi (t : Trig) (s : State) : Host.Outcome State Fault Refusal :=
  .next (runIa (.iaMulhi t) t 3 .ignored (fun w sg x _ z => intVal sg x * intVal sg z / 2 ^ w) s)

/-- mad (R123) -/
def execIaMad (t : Trig) (s : State) : Host.Outcome State Fault Refusal :=
  .next (runIa (.iaMad t) t 3 .honoured (fun _ sg x y z => intVal sg x * intVal sg y + intVal sg z) s)

/-- lea (R134) -/
def execIaLea (t : Trig) (s : State) : Host.Outcome State Fault Refusal :=
  .next (runIaWord (.iaLea t) t 2 (fun sg a b z => (leaAddr sg t.mod.toNat a b z).setWidth 128) s)

/-- hmix (R135) -/
def execIaHmix (t : Trig) (s : State) : Host.Outcome State Fault Refusal :=
  .next (runIaWord (.iaHmix t) t 3 (fun _ a _ z => lo32 (hmixWord a z)) s)

/-- mov (R136) -/
def execIaMov (t : Trig) (s : State) : Host.Outcome State Fault Refusal :=
  .next (runIa (.iaMov t) t 1 .ignored (fun _ _ _ _ z => bitsVal z) s)

/-- and (R126) -/
def execIaAnd (t : Trig) (s : State) : Host.Outcome State Fault Refusal :=
  .next (runIa (.iaAnd t) t 1 .ignored (fun _ _ x _ z => bitsVal (x &&& z)) s)

/-- or (R126) -/
def execIaOr (t : Trig) (s : State) : Host.Outcome State Fault Refusal :=
  .next (runIa (.iaOr t) t 1 .ignored (fun _ _ x _ z => bitsVal (x ||| z)) s)

/-- xor (R126) -/
def execIaXor (t : Trig) (s : State) : Host.Outcome State Fault Refusal :=
  .next (runIa (.iaXor t) t 1 .ignored (fun _ _ x _ z => bitsVal (x ^^^ z)) s)

/-- andn (R126) -/
def execIaAndn (t : Trig) (s : State) : Host.Outcome State Fault Refusal :=
  .next (runIa (.iaAndn t) t 1 .ignored (fun _ _ x _ z => bitsVal (x &&& ~~~z)) s)

/-- not (R126) -/
def execIaNot (t : Trig) (s : State) : Host.Outcome State Fault Refusal :=
  .next (runIa (.iaNot t) t 1 .ignored (fun _ _ _ _ z => bitsVal (~~~z)) s)

/-- shl (R127) -/
def execIaShl (t : Trig) (s : State) : Host.Outcome State Fault Refusal :=
  .next (runIa (.iaShl t) t 1 .honoured (fun w sg x _ z => shlVal w sg x z) s)

/-- shr (R127) -/
def execIaShr (t : Trig) (s : State) : Host.Outcome State Fault Refusal :=
  .next (runIa (.iaShr t) t 1 .ignored (fun w _ x _ z => shrVal w x z) s)

/-- sar (R127) -/
def execIaSar (t : Trig) (s : State) : Host.Outcome State Fault Refusal :=
  .next (runIa (.iaSar t) t 1 .ignored (fun w _ x _ z => sarVal w x z) s)

/-- rot (R127) -/
def execIaRot (t : Trig) (s : State) : Host.Outcome State Fault Refusal :=
  .next (runIa (.iaRot t) t 1 .ignored (fun w _ x _ z => rotVal w x z) s)

/-- clz (R128) -/
def execIaClz (t : Trig) (s : State) : Host.Outcome State Fault Refusal :=
  .next (runIa (.iaClz t) t 1 .ignored (fun w _ _ _ z => clzVal w z) s)

/-- ctz (R128) -/
def execIaCtz (t : Trig) (s : State) : Host.Outcome State Fault Refusal :=
  .next (runIa (.iaCtz t) t 1 .ignored (fun w _ _ _ z => ctzVal w z) s)

/-- pop (R128) -/
def execIaPop (t : Trig) (s : State) : Host.Outcome State Fault Refusal :=
  .next (runIa (.iaPop t) t 1 .ignored (fun w _ _ _ z => popVal w z) s)

/-- brev (R128) -/
def execIaBrev (t : Trig) (s : State) : Host.Outcome State Fault Refusal :=
  .next (runIa (.iaBrev t) t 1 .ignored (fun w _ _ _ z => brevVal w z) s)

/-- bfx (R129) -/
def execIaBfx (t : Trig) (s : State) : Host.Outcome State Fault Refusal :=
  .next (runIaWord (.iaBfx t) t 1 (fun sg a _ z => lo32 (bfxWord sg a z)) s)

/-- bfi (R130) -/
def execIaBfi (t : Trig) (s : State) : Host.Outcome State Fault Refusal :=
  .next (runIaWord (.iaBfi t) t 1 (fun _ a b z => lo32 (bfiWord a b z)) s)

/-- sel (R131) -/
def execIaSel (t : Trig) (s : State) : Host.Outcome State Fault Refusal :=
  .next (runIa (.iaSel t) t 1 .ignored (fun _ _ x y z => bitsVal (if z = 0 then y else x)) s)

/-- cmpeq (R132) -/
def execIaCmpeq (t : Trig) (s : State) : Host.Outcome State Fault Refusal :=
  .next (runIa (.iaCmpeq t) t 1 .ignored (fun w _ x _ z => cmpVal w (x == z)) s)

/-- cmpne (R132) -/
def execIaCmpne (t : Trig) (s : State) : Host.Outcome State Fault Refusal :=
  .next (runIa (.iaCmpne t) t 1 .ignored (fun w _ x _ z => cmpVal w (x != z)) s)

/-- cmplt (R132) -/
def execIaCmplt (t : Trig) (s : State) : Host.Outcome State Fault Refusal :=
  .next (runIa (.iaCmplt t) t 1 .ignored (fun w sg x _ z => cmpVal w (decide (intVal sg x < intVal sg z))) s)

/-- cmple (R132) -/
def execIaCmple (t : Trig) (s : State) : Host.Outcome State Fault Refusal :=
  .next (runIa (.iaCmple t) t 1 .ignored (fun w sg x _ z => cmpVal w (decide (intVal sg x ≤ intVal sg z))) s)

/-- cmpgt (R132) -/
def execIaCmpgt (t : Trig) (s : State) : Host.Outcome State Fault Refusal :=
  .next (runIa (.iaCmpgt t) t 1 .ignored (fun w sg x _ z => cmpVal w (decide (intVal sg z < intVal sg x))) s)

/-- cmpge (R132) -/
def execIaCmpge (t : Trig) (s : State) : Host.Outcome State Fault Refusal :=
  .next (runIa (.iaCmpge t) t 1 .ignored (fun w sg x _ z => cmpVal w (decide (intVal sg z ≤ intVal sg x))) s)

end Sys2Proof.Machine
end

