-- ==== Sys2Proof/Machine/Series.lean ====
section
/-! DEFINITION. The real functions of R163 to R167, computed to far more bits than their bounds need. A real is written s × 2^e;
the error of every value here is below 2^60 units of 2^e. -/

namespace Sys2Proof.Machine

/-- The unit of the fixed-point numbers: 2^256. -/
def fxOne : Int := 2 ^ 256

/-- ln 2, log2 e and 2/√π in units of 2^−256, and π in units of 2^−512. -/
def fxLn2 : Int := 0xb17217f7d1cf79abc9e3b39803f2f6af40f343267298b62d8a0d175b8baafa2b
/-- log2 e -/
def fxLog2e : Int := 0x171547652b82fe1777d0ffda0d23a7d11d6aef551bad2b4b1164a2cd9a342648f
/-- 2/√π -/
def fxTwoRtPi : Int := 0x120dd750429b6d11ae3a914fed7fd8688281341d7587cea2e7342b06199cc4161
/-- π -/
def fxPi : Int :=
  0x3243f6a8885a308d313198a2e03707344a4093822299f31d0082efa98ec4e6c89452821e638d01377be5466cf34e90c6cc0ac29b7c97c50dd3f84d5b5b5470917

/-- The product of two fixed-point numbers. -/
def fxMul (a b : Int) : Int := a * b / 2 ^ 256

/-- The sum of a series of n terms: each next term from the last one and its number. -/
def seriesSum (next : Int → Nat → Int) : Nat → Nat → Int → Int
  | 0, _, _ => 0
  | n + 1, k, t => t + seriesSum next n (k + 1) (next t (k + 1))

/-- e^t for t in [0, 1). -/
def expFx (t : Int) : Int := seriesSum (fun x k => fxMul x t / k) 70 0 fxOne

/-- 2^x: s and e. -/
def exp2R (x : Int) : Int × Int := (expFx (fxMul (x % fxOne) fxLn2), x / fxOne - 256)

/-- e^x: s and e. -/
def expR (x : Int) : Int × Int :=
  let n := fxMul x fxLog2e / fxOne
  (expFx (x - n * fxLn2), n - 256)

/-- e^x as a fixed-point number. -/
def expFixed (x : Int) : Int :=
  let (s, e) := expR x
  if 0 ≤ e + 256 then s * 2 ^ (e + 256).toNat else s / 2 ^ (-(e + 256)).toNat

/-- ln y for y in [1, 2), as 2 artanh((y − 1)/(y + 1)). -/
def lnFx (y : Int) : Int :=
  let z := (y - fxOne) * fxOne / (y + fxOne)
  let z2 := fxMul z z
  2 * ((List.range 90).foldl (fun (p : Int × Int) (k : Nat) => (p.1 + p.2 / (2 * k + 1 : Int), fxMul p.2 z2)) (0, z)).1

/-- log2 of m × 2^e. -/
def log2R (m : Nat) (e : Int) : Int :=
  let l := Nat.log2 m
  (e + l) * fxOne + fxMul (lnFx ((m : Int) * fxOne / 2 ^ l)) fxLog2e

/-- The quadrant of x = m × 2^e and the rest z of it (R165). -/
def quadrant (x : Int) (e : Int) : Int × Int :=
  let v := x * 2 ^ (e + 512).toNat
  let h := fxPi / 2
  let k := (v + h / 2) / h
  (k % 4, (v - k * h) / 2 ^ 256)

/-- sin z and cos z for |z| ≤ π/4: the alternating series that starts with t as term k. -/
def trigFx (z : Int) (k : Nat) (t : Int) : Int :=
  ((List.range 45).foldl (fun (p : Int × Int × Nat) _ =>
    (p.1 + p.2.1, -(fxMul (fxMul p.2.1 z) z / ((p.2.2 + 1) * (p.2.2 + 2) : Nat)), p.2.2 + 2)) (0, t, k)).1

/-- sin (q = 0) or cos (q = 1) of x × 2^e. -/
def sinR (q : Int) (x e : Int) : Int :=
  let (k, z) := quadrant x e
  match ((k + q) % 4).toNat with
  | 0 => trigFx z 1 z
  | 1 => trigFx z 0 fxOne
  | 2 => -trigFx z 1 z
  | _ => -trigFx z 0 fxOne

/-- erf x for |x| < 4. -/
def erfR (x : Int) : Int :=
  let x2 := fxMul x x
  fxMul fxTwoRtPi ((List.range 170).foldl (fun (p : Int × Int) (k : Nat) =>
    (p.1 + p.2 / (2 * k + 1 : Int), -(fxMul p.2 x2 / (k + 1 : Int)))) (0, x)).1

/-- tanh x. -/
def tanhR (x : Int) : Int :=
  let y := expFixed (2 * x)
  (y - fxOne) * fxOne / (y + fxOne)

/-- 1/(1 + e^−x) -/
def sigmR (x : Int) : Int :=
  if 0 ≤ x then fxOne * fxOne / (fxOne + expFixed (-x))
  else let y := expFixed x; y * fxOne / (fxOne + y)

end Sys2Proof.Machine
end

