-- ==== Sys2Proof/Machine/Sf.lean ====
section
/-! DEFINITION. The sf operations (R160 to R173). -/

namespace Sys2Proof.Machine

/-! ### Elements of a slice (R139) -/

/-- Element e of width w of a slice, as a number. -/
def elemN (w : Nat) (x : Slice) (e : Nat) : Nat := x.toNat / 2 ^ (w * e) % 2 ^ w

/-- The low n elements of width w that f gives, as a number. -/
def packN (w : Nat) (f : Nat → Nat) : Nat → Nat
  | 0 => 0
  | n + 1 => packN w f n + f n % 2 ^ w * 2 ^ (w * n)

/-- The slice of n elements. -/
def packSlice (w n : Nat) (f : Nat → Nat) : Slice := BitVec.ofNat 128 (packN w f n)

/-- The flags of all elements of all enabled lanes (R42). -/
def orFlags (en : Mask) (n : Nat) (f : Nat → Nat → BitVec 5) : BitVec 5 :=
  (lanes32.filter (fun L => en.getLsbD L)).foldl (fun fl L => (List.range n).foldl (fun fl e => fl ||| f L e) fl) 0

/-! ### Elementwise functions (R163 to R167) -/

/-- The functions with a polynomial, in the order of their codes (R161). -/
inductive SfFn where
  | exp2 | exp | log2 | ln | rcp | rsqrt | sqrt | sin | cos | tanh | sigm | erf
  deriving DecidableEq, Repr

/-- The code of a function (R161). -/
def SfFn.code : SfFn → Nat
  | .exp2 => 0 | .exp => 1 | .log2 => 2 | .ln => 3 | .rcp => 4 | .rsqrt => 5 | .sqrt => 6 | .sin => 7 | .cos => 8
  | .tanh => 9 | .sigm => 10 | .erf => 11

/-- 1.0 in f32, with a sign. -/
def one32 (neg : Bool) : Nat := f32.zero neg + 0x3F800000

/-- The results of R164 for ±∞, ±0 and finite negative operands, in f32. DESIGN CHOICE: an infinite result at ±0 raises
divide-by-zero alone; R163, which raises overflow and inexact where a finite x gives an infinite result, is read of the results
that the table does not list (log 6). -/
def sfSpecial (fn : SfFn) (x : FVal) : Option (Nat × BitVec 5) :=
  let nv := (f32.qnan, fNV)
  match x with
  | .nan s => some (f32.qnan, if s then fNV else 0)
  | .inf true =>
    some (match fn with
      | .exp2 | .exp | .sigm => (0, 0)
      | .rcp => (f32.zero true, 0)
      | .tanh | .erf => (one32 true, 0)
      | _ => nv)
  | .inf false =>
    some (match fn with
      | .exp2 | .exp | .log2 | .ln | .sqrt => (f32.inf false, 0)
      | .rcp | .rsqrt => (0, 0)
      | .tanh | .sigm | .erf => (one32 false, 0)
      | _ => nv)
  | .fin neg 0 _ =>
    some (match fn with
      | .exp2 | .exp | .cos => (one32 false, 0)
      | .log2 | .ln => (f32.inf true, fDZ)
      | .rcp | .rsqrt => (f32.inf neg, fDZ)
      | .sigm => (0x3F000000, 0)
      | _ => (f32.zero neg, 0))
  | .fin true _ _ =>
    match fn with
    | .log2 | .ln | .rsqrt | .sqrt => some nv
    | _ => none
  | .fin false _ _ => none

/-- n when m × 2^e is 2^n. -/
def pow2? (m : Nat) (e : Int) : Option Int := if m = 2 ^ Nat.log2 m then some (e + Nat.log2 m) else none

/-- The exact points of R164 of a finite nonzero operand. -/
def sfExact (fn : SfFn) (neg : Bool) (m : Nat) (e : Int) : Option Nat :=
  match fn with
  | .exp2 =>
    let n := signed neg m * 2 ^ e.toNat / 2 ^ (-e).toNat
    if signed neg m * 2 ^ e.toNat = n * 2 ^ (-e).toNat ∧ -149 ≤ n ∧ n ≤ 127 then
      some (roundF f32 .rne false 1 n false).1 else none
  | .log2 => (pow2? m e).map (fun n => (roundDyadic f32 .rne n 0 false).1)
  | .ln => if pow2? m e = some 0 then some 0 else none
  | .rcp => (pow2? m e).bind (fun n => if -n ≤ 127 then some (roundF f32 .rne neg 1 (-n) false).1 else none)
  | .rsqrt => (pow2? m e).bind (fun n => if n % 2 = 0 then some (roundF f32 .rne false 1 (-(n / 2)) false).1 else none)
  | _ => none

/-- Whether |m × 2^e| < a × 2^b. -/
def magLt (m : Nat) (e : Int) (a : Nat) (b : Int) : Bool := decide ((dyadicAdd m e (-(a : Int)) b).1 < 0)

/-- A finite nonzero operand as a fixed-point number. -/
def fxOf (neg : Bool) (m : Nat) (e : Int) : Int := signed neg m * 2 ^ (e + 256).toNat

/-- The results outside the segments of R165. -/
def sfOutside (fn : SfFn) (neg : Bool) (m : Nat) (e : Int) : Option Nat :=
  let x := fxOf neg m e
  let region (t : Int) : Option Nat :=
    if 128 * fxOne ≤ t then some (f32.inf false) else if t < -150 * fxOne then some 0 else none
  match fn with
  | .exp2 => region x
  | .exp => region (fxMul x fxLog2e)
  | .tanh =>
    if magLt m e 1 (-12) then some (roundF f32 .rne neg m e false).1
    else if magLt m e 9 0 then none else some (one32 neg)
  | .erf =>
    if magLt m e 1 (-12) then some (roundF f32 .rne neg (m * fxTwoRtPi.toNat) (e - 256) true).1
    else if magLt m e 4 0 then none else some (one32 neg)
  | .sigm =>
    if magLt m e 1 (-12) then
      let (s, k) := dyadicAdd 1 (-1) (signed neg m) (e - 2)
      some (roundDyadic f32 .rne s k false).1
    else if 18 * fxOne ≤ x then some (one32 false)
    else if x ≤ -104 * fxOne then some 0
    else none
  | _ => none

/-- A sine or cosine of a nonzero f32 operand, which lies between −1 and 1 and is neither. -/
def below1 (s : Int) : Int := max (1 - fxOne) (min (fxOne - 1) s)

/-- The exact value, as s × 2^e, to far more bits than the bounds need. -/
def sfReal (fn : SfFn) (neg : Bool) (m : Nat) (e : Int) : Int × Int :=
  let x := fxOf neg m e
  let odd (v : Int) : Int := if neg then -v else v
  match fn with
  | .exp2 => exp2R x
  | .exp => expR x
  | .log2 => (log2R m e, -256)
  | .ln => (fxMul (log2R m e) fxLn2, -256)
  | .rcp => (odd (2 ^ 300 / m), -e - 300)
  | .rsqrt =>
    let m' := if e % 2 = 1 then 2 * m else m
    let e' := if e % 2 = 1 then e - 1 else e
    (2 ^ 550 / isqrt (m' * 2 ^ 600), -(e' / 2) - 250)
  | .sqrt => (0, 0)
  | .sin => (below1 (sinR 0 (signed neg m) e), -256)
  | .cos => (below1 (sinR 1 (signed neg m) e), -256)
  | .tanh => (odd (tanhR (fxOf false m e)), -256)
  | .sigm => (sigmR x, -256)
  | .erf => (odd (erfR (fxOf false m e)), -256)

/-- Units of 2^e in k ulp of an f32 result near s × 2^e; in the subnormal range an ulp is 2^−149. -/
def ulps (k : Int) (s e : Int) : Int := k * 2 ^ (max (e + Nat.log2 s.natAbs - 23) (-149) - e).toNat

/-- The error bound of R167 in units of 2^e of a result near s × 2^e; none where R167 states none. -/
def sfBound (fn : SfFn) (x : Int) (m : Nat) (xe : Int) (s e : Int) : Option Int :=
  let abs (k : Int) : Int := 2 ^ (k - e).toNat
  let near1 : Bool := !magLt m xe 3 (-2) && magLt m xe 3 (-1)
  match fn with
  | .exp2 => some (if -126 * fxOne ≤ x then ulps 1 s e else abs (-149))
  | .exp =>
    if -8733 * fxOne ≤ 100 * x ∧ 100 * x ≤ 8872 * fxOne then some (ulps 2 s e)
    else if -10397 * fxOne ≤ 100 * x ∧ x < 0 then some (abs (-149))
    else none
  | .log2 => some (if near1 then abs (-24) else ulps 1 s e)
  | .ln => some (if near1 then abs (-24) else ulps 2 s e)
  | .rcp | .rsqrt | .sqrt => some (ulps 1 s e)
  | .sin | .cos => some (if 2 ^ (-6 - e).toNat ≤ s.natAbs then ulps 2 s e else abs (-30))
  | .tanh | .sigm | .erf => some (if e + Nat.log2 s.natAbs < -126 then abs (-149) else ulps 2 s e)

/-- An end of an interval in f32: infinite once it is beyond every finite value. -/
def f32End (mode : RMode) (s e : Int) : Int :=
  f32.key (if 128 ≤ e + Nat.log2 s.natAbs then f32.inf (decide (s < 0)) else (roundDyadic f32 mode s e (decide (s < 0))).1)

/-- The bf16 values within 1 ulp of their format of s × 2^e, |s| × 2^e < 1, as keys of the f32 values with those bits (R167). -/
def bf16Range (s e : Int) : Int × Int :=
  let u : Int := 2 ^ (max (e + Nat.log2 s.natAbs - 7) (-133) - e).toNat
  let at_ (mode : RMode) (s : Int) : Int := f32.key ((roundDyadic bf16 mode s e (decide (s < 0))).1 * 2 ^ 16)
  (at_ .ru (s - u + 2 ^ 60), at_ .rd (s + u - 2 ^ 60))

/-- The keys of the f32 values within a bound of the exact value, from which s × 2^e differs by less than 2^60 units: no f32 value lies
so near to the ends. -/
def f32Range (s e b : Int) : Int × Int := (f32End .ru (s - b + 2 ^ 60) e, f32End .rd (s + b - 2 ^ 60) e)

/-- The bound that holds just below the power of two that |s| × 2^e reaches: an ulp is half as large there. What a function gives
there, it gives at least here (R166). -/
def binadeFloor (fn : SfFn) (x : Int) (m : Nat) (xe : Int) (s e : Int) : Int :=
  let s' : Int := 2 ^ Nat.log2 s.natAbs - 1
  match sfBound fn x m xe s' e with
  | some b => (f32Range s' e b).1
  | none => -(2 ^ 31)

/-- The keys of the f32 results that R167 allows for a magnitude, and no less than just below its binade. -/
def magRange (fn : SfFn) (x : Int) (m : Nat) (xe : Int) (s e b : Int) : Int × Int :=
  let r := f32Range s e b
  (max r.1 (binadeFloor fn x m xe s e), r.2)

/-- The key of n in f32. -/
def keyInt (n : Int) : Int := f32.key (roundDyadic f32 .rne n 0 false).1

/-- The key of 2^n in f32, or of +0 below the smallest. -/
def keyPow (n : Int) : Int := if n < -149 then 0 else f32.key (roundF f32 .rne false 1 n false).1

/-- A range kept within the results at the operands where R164 and R165 fix them, below and above. -/
def keyWithin (r : Int × Int) (lo hi : Int) : Int × Int := (max r.1 lo, min r.2 hi)

/-- The range of exp where R167 states no bound: between its bounded ranges and its limits, by the order of R166. -/
def expRange (neg : Bool) (m : Nat) (e : Int) : Int × Int :=
  let x := fxOf neg m e
  let (s, k) := expR x
  let at_ (x : Int) (b : Int → Int → Int) : Int × Int := let (s, k) := expR x; f32Range s k (b s k)
  let small (_ k : Int) : Int := 2 ^ (-149 - k).toNat
  match sfBound .exp x m e s k with
  | some b =>
    let r := magRange .exp x m e s k b
    if neg then
      keyWithin (if -8733 * fxOne ≤ 100 * x then (max r.1 (at_ (-8733 * fxOne / 100 - 1) small).1, r.2) else r) 0 (f32.key (one32 false))
    else keyWithin r (f32.key (one32 false)) (f32.key (f32.inf false))
  | none =>
    if neg then (0, (at_ (-10397 * fxOne / 100) small).2)
    else ((at_ (8872 * fxOne / 100) (ulps 2)).1, f32.key (f32.inf false))

/-- The range of log2 and ln, which rise with x: between the exact points below and above, and negative below 1. -/
def logRange (fn : SfFn) (m : Nat) (e : Int) : Int × Int :=
  let (s, k) := sfReal fn false m e
  let x := fxOf false m e
  match sfBound fn x m e s k with
  | none => (0, 0)
  | some b =>
    let n := e + Nat.log2 m
    let up := !(s < 0)
    let r := if up then magRange fn x m e s k b
      else let q := magRange fn x m e (-s) k b; (f32Range s k b |>.1, min (f32Range s k b).2 (-q.1 - 1))
    if fn = .log2 then keyWithin r (keyInt n) (keyInt (n + 1))
    else if up then keyWithin r 0 (f32.key (f32.inf false)) else keyWithin r (f32.key (f32.inf true)) 0

/-- The range of tanh and erf at |x|, and of sigm, between what they give below 2^−12 and their limits. -/
def sigmoidRange (fn : SfFn) (neg : Bool) (m : Nat) (e : Int) : Int × Int :=
  let (s, k) := sfReal fn neg m e
  let x := fxOf neg m e
  let edge (neg : Bool) : Int := match sfOutside fn neg (2 ^ 24 - 1) (-36) with | some v => f32.key v | none => 0
  match sfBound fn x m e s k with
  | none => (0, 0)
  | some b =>
    let r := magRange fn x m e s k b
    if neg then keyWithin r 0 (edge true) else keyWithin r (edge false) (f32.key (one32 false))

/-- A free result in a range that does not fall as the operand of key k rises: it counts the steps up to k (R166; log 6). -/
def rising (fn : SfFn) (typ : Nat) (k : Int) (r : Int × Int) : Int :=
  max r.1 (min r.2 (((Config.sfSteps fn.code typ).countP (fun x => decide (x ≤ k)) : Nat) - 2 ^ 31))

/-- A free result in a range, by the operand's own bits (log 6). -/
def anyOf (fn : SfFn) (typ bits : Nat) (r : Int × Int) : Int :=
  if r.2 ≤ r.1 then r.1 else r.1 + (Config.sfValue fn.code typ bits : Int) % (r.2 - r.1 + 1)

/-- f32 bits scaled by 2^n, rounded where they become subnormal. -/
def scaleF (v : Nat) (neg : Bool) (n : Int) : Nat :=
  match decodeF f32 v with | .fin _ m e => (roundF f32 .rne neg m (e + n) false).1 | _ => f32.inf neg

/-- A key as f32 bits. -/
def ofKey (k : Int) : Nat := f32.unkey k

/-- exp2 (R165): by f = x − floor(x), scaled, while the result is normal; else within 2^−149, between the powers below and
above. -/
def exp2Value (typ : Nat) (neg : Bool) (m : Nat) (e : Int) : Nat :=
  let x := fxOf neg m e
  let n := x / fxOne
  let f := x % fxOne
  if -126 ≤ n then
    let (s, k) := exp2R f
    scaleF (ofKey (rising .exp2 typ f (keyWithin (f32Range s k (ulps 1 s k)) (keyPow 0) (keyPow 1)))) false n
  else
    let (s, k) := exp2R x
    ofKey (rising .exp2 typ x (keyWithin (f32Range s k (2 ^ (-149 - k).toNat)) (keyPow n) (keyPow (n + 1))))

/-- rcp (R165): by y of |x| = 2^n × y, with the sign of x; a subnormal result within 2^−149. -/
def rcpValue (typ : Nat) (neg : Bool) (m : Nat) (e : Int) : Nat :=
  let l := Nat.log2 m
  let n := e + l
  let (s, k) := sfReal .rcp false m e
  if k + Nat.log2 s.natAbs < -126 then
    scaleF (ofKey (anyOf .rcp typ (roundF f32 .rne false m e false).1 (keyWithin (f32Range s k (2 ^ (-149 - k).toNat)) 0 (keyPow (-n))))) neg 0
  else
    let (s, k) := sfReal .rcp false m (-(l : Int))
    scaleF (ofKey (anyOf .rcp typ (roundF f32 .rne false m (-(l : Int)) false).1 (f32Range s k (ulps 1 s k)))) neg (-n)

/-- rsqrt (R165): by y of x = 4^n × y; it falls as y rises. -/
def rsqrtValue (typ : Nat) (m : Nat) (e : Int) : Nat :=
  let n := (e + Nat.log2 m) / 2
  let e' := e - 2 * n
  let (s, k) := sfReal .rsqrt false m e'
  scaleF (ofKey (rising .rsqrt typ (-fxOf false m e') (keyWithin (f32Range s k (ulps 1 s k)) (keyPow (-1)) (keyPow 0)))) false (-n)

/-- The results inside the segments of R165. -/
def sfInside (fn : SfFn) (typ bits : Nat) (neg : Bool) (m : Nat) (e : Int) : Nat :=
  let x := fxOf neg m e
  match fn with
  | .exp2 => exp2Value typ neg m e
  | .exp => ofKey (rising fn typ x (expRange neg m e))
  | .log2 | .ln => ofKey (rising fn typ x (logRange fn m e))
  | .rcp => rcpValue typ neg m e
  | .rsqrt => rsqrtValue typ m e
  | .tanh | .erf => scaleF (ofKey (rising fn typ (fxOf false m e) (sigmoidRange fn false m e))) neg 0
  | .sigm => ofKey (rising fn typ x (sigmoidRange fn neg m e))
  | _ =>
    let (s, k) := sfReal fn neg m e
    let r := match sfBound fn x m e s k with | some b => f32Range s k b | none => (0, 0)
    let r := if typ = 1 then keyWithin r (bf16Range s k).1 (bf16Range s k).2 else r
    ofKey (anyOf fn typ bits r)

/-- The f32 value of a function at a finite nonzero operand, and whether it is an exact point: within what the rules allow it is
free (log 6). `bits` are the operand's own bits. -/
def sfValue32 (fn : SfFn) (typ bits : Nat) (neg : Bool) (m : Nat) (e : Int) : Nat × Bool :=
  match sfOutside fn neg m e, sfExact fn neg m e with
  | some v, _ => (v, false)
  | none, some v => (v, true)
  | none, none => (sfInside fn typ bits neg m e, false)

/-- The format of a floating TYPE (R139, R160). -/
def fmtOfTyp (typ : Nat) : Fmt := match typ with | 0 => f32 | 1 => bf16 | _ => f16

/-- One element (R163): the bits and the flags. -/
def sfElem (fn : SfFn) (typ : Nat) (mode : RMode) (bits : Nat) : Nat × BitVec 5 :=
  let f := fmtOfTyp typ
  let x := decodeF f bits
  match sfSpecial fn x, x with
  | some (v, fl), _ => ((roundVal f .rne (decodeF f32 v)).1, fl)
  | none, .fin neg m e =>
    if fn = .sqrt then fsqrtPos f mode m e
    else
      let (v, ex) := sfValue32 fn typ bits neg m e
      let (r, fl) := roundVal f .rne (decodeF f32 v)
      let nx := if ex then fl &&& fNX else fNX
      (match decodeF f r with
        | .inf _ => (r, fOF ||| fNX)
        | .fin _ k _ => (r, nx ||| (if nx ≠ 0 ∧ k < 2 ^ f.fbits then fUF else 0))
        | .nan _ => (r, nx))
  | none, _ => (f.qnan, 0)

/-- An elementwise function. -/
def runSf (i : Instr) (fn : SfFn) (t : Trig) (s : State) : State :=
  let typ := t.typ.toNat
  let f := fmtOfTyp typ
  let mode := rmodeOf (t.mod.extractLsb' 1 2)
  runFixed i .sf t 12 s (fun o =>
    { r := mkRow (fun L => packSlice f.width (128 / f.width) (fun e => (sfElem fn typ mode (elemN f.width (lane o.t L) e)).1))
      fl := orFlags o.en (128 / f.width) (fun L e => (sfElem fn typ mode (elemN f.width (lane o.t L) e)).2) })

/-! ### Row operations (R168 to R173) -/

/-- The elements of the row: lane, element and bits, in increasing order (R168). -/
def rowOf (o : Opnd) : List (Nat × Nat × Nat) :=
  (lanes32.filter (fun L => o.en.getLsbD L)).flatMap (fun L => (List.range 4).map (fun e => (L, e, elemN 32 (lane o.t L) e)))

/-- A word in all four words of every lane. -/
def splat4 (v : Nat) : Row := splat (packSlice 32 4 (fun _ => v))

/-- invalid for a signalling NaN among f32 bit patterns. -/
def sig32 (xs : List Nat) : BitVec 5 := sigFlag (xs.map (decodeF f32))

/-- Whether f32 bits are a NaN. -/
def nan32 (x : Nat) : Bool := (decodeF f32 x).isNan

/-- rmax (R169) -/
def rmaxRes (o : Opnd) : FixedRes :=
  let xs := (rowOf o).map (·.2.2)
  let m := if xs.any nan32 then f32.qnan else xs.foldl (fun m x => if f32.key m < f32.key x then x else m) (f32.inf true)
  { r := splat4 m, fl := sig32 xs }

/-- One e of rexp (R170): the bits and the flags of exp. -/
def rexpElem (m x : Nat) : Nat × BitVec 5 :=
  if nan32 x ∨ nan32 m then (f32.qnan, 0)
  else if x = f32.inf false ∧ m = f32.inf false then (one32 false, 0)
  else if x = f32.inf true then (0, 0)
  else sfElem .exp 0 .rne (fadd f32 .rne (decodeF f32 x) (decodeF f32 m).neg).1

/-- A running sum in f32 with the flags of each addition. -/
def sum32 (xs : List Nat) : Nat × BitVec 5 :=
  xs.foldl (fun (p : Nat × BitVec 5) x =>
    let (r, fl) := fadd f32 .rne (decodeF f32 p.1) (decodeF f32 x); (r, p.2 ||| fl)) (0, 0)

/-- rexp (R170): r, b and the flags. -/
def rexpRes (o : Opnd) : FixedRes :=
  let m := ((uniform o.en o.a).toNat) % 2 ^ 32
  let row := rowOf o
  let es := row.map (fun x => (x.1, x.2.1, rexpElem m x.2.2))
  let bad := es.any (fun x => nan32 x.2.2.1)
  let val (x : Nat × Nat × Nat × BitVec 5) : Nat := if bad then f32.qnan else x.2.2.1
  let (s, fls) := sum32 (es.map val)
  let empty := row.all (fun x => x.2.2 == f32.inf true)
  let at_ (L e : Nat) : Nat := ((es.find? (fun x => x.1 == L && x.2.1 == e)).map val).getD 0
  { r := mkRow (fun L => packSlice 32 4 (at_ L))
    b := some (mkRow (fun L =>
      BitVec.ofNat 128 (s + (if (lane o.b L).getLsbD 32 ∨ empty then 2 ^ 32 else 0))))
    fl := sig32 (m :: row.map (·.2.2)) ||| es.foldl (fun fl x => fl ||| x.2.2.2) 0 ||| fls }

/-- One quotient of rdiv (R172). -/
def rdivElem (mode : RMode) (s x : Nat) : Nat × BitVec 5 :=
  match decodeF f32 x, decodeF f32 s with
  | .nan a, y => (f32.qnan, sigFlag [.nan a, y])
  | x, .nan b => (f32.qnan, sigFlag [x, .nan b])
  | .fin n m _, .fin _ 0 _ => if m = 0 then (0, 0) else (f32.inf n, fDZ)
  | .inf n, .fin _ 0 _ => (f32.inf n, fDZ)
  | x, y => fdiv f32 mode x y

/-- rdiv (R172) -/
def rdivRes (mode : RMode) (o : Opnd) : FixedRes :=
  let s := ((uniform o.en o.b).toNat) % 2 ^ 32
  { r := mkRow (fun L => packSlice 32 4 (fun e => (rdivElem mode s (elemN 32 (lane o.t L) e)).1))
    fl := orFlags o.en 4 (fun L e => (rdivElem mode s (elemN 32 (lane o.t L) e)).2) }

/-- rmsq (R173) -/
def rmsqRes (o : Opnd) : FixedRes :=
  let row := rowOf o
  let (acc, fl) := row.foldl (fun (p : Nat × BitVec 5) x =>
    let v := decodeF f32 x.2.2
    let (r, f) := ffma f32 .rne v v (decodeF f32 p.1); (r, p.2 ||| f)) (0, 0)
  let (ms, fl') := fdiv f32 .rne (decodeF f32 acc) (.fin false row.length 0)
  { r := splat4 ms, fl := fl ||| fl' }

/-- A row operation. -/
def runRow (i : Instr) (t : Trig) (f : Opnd → FixedRes) (s : State) : State := runFixed i .sf t 24 s f

/-! ### The meanings -/

/-- exp2 (R163 to R167) -/
def execSfExp2 (t : Trig) (s : State) : Host.Outcome State Fault Refusal := .next (runSf (.sfExp2 t) .exp2 t s)

/-- exp (R163 to R167) -/
def execSfExp (t : Trig) (s : State) : Host.Outcome State Fault Refusal := .next (runSf (.sfExp t) .exp t s)

/-- log2 (R163 to R167) -/
def execSfLog2 (t : Trig) (s : State) : Host.Outcome State Fault Refusal := .next (runSf (.sfLog2 t) .log2 t s)

/-- ln (R163 to R167) -/
def execSfLn (t : Trig) (s : State) : Host.Outcome State Fault Refusal := .next (runSf (.sfLn t) .ln t s)

/-- rcp (R163 to R167) -/
def execSfRcp (t : Trig) (s : State) : Host.Outcome State Fault Refusal := .next (runSf (.sfRcp t) .rcp t s)

/-- rsqrt (R163 to R167) -/
def execSfRsqrt (t : Trig) (s : State) : Host.Outcome State Fault Refusal := .next (runSf (.sfRsqrt t) .rsqrt t s)

/-- sqrt (R163 to R167) -/
def execSfSqrt (t : Trig) (s : State) : Host.Outcome State Fault Refusal := .next (runSf (.sfSqrt t) .sqrt t s)

/-- sin (R163 to R167) -/
def execSfSin (t : Trig) (s : State) : Host.Outcome State Fault Refusal := .next (runSf (.sfSin t) .sin t s)

/-- cos (R163 to R167) -/
def execSfCos (t : Trig) (s : State) : Host.Outcome State Fault Refusal := .next (runSf (.sfCos t) .cos t s)

/-- tanh (R163 to R167) -/
def execSfTanh (t : Trig) (s : State) : Host.Outcome State Fault Refusal := .next (runSf (.sfTanh t) .tanh t s)

/-- sigm (R163 to R167) -/
def execSfSigm (t : Trig) (s : State) : Host.Outcome State Fault Refusal := .next (runSf (.sfSigm t) .sigm t s)

/-- erf (R163 to R167) -/
def execSfErf (t : Trig) (s : State) : Host.Outcome State Fault Refusal := .next (runSf (.sfErf t) .erf t s)

/-- rmax (R169) -/
def execSfRmax (t : Trig) (s : State) : Host.Outcome State Fault Refusal :=
  .next (runRow (.sfRmax t) t rmaxRes s)

/-- rexp (R170) -/
def execSfRexp (t : Trig) (s : State) : Host.Outcome State Fault Refusal :=
  .next (runRow (.sfRexp t) t rexpRes s)

/-- rdiv (R172) -/
def execSfRdiv (t : Trig) (s : State) : Host.Outcome State Fault Refusal :=
  .next (runRow (.sfRdiv t) t (rdivRes (rmodeOf (t.mod.extractLsb' 1 2))) s)

/-- rmsq (R173) -/
def execSfRmsq (t : Trig) (s : State) : Host.Outcome State Fault Refusal :=
  .next (runRow (.sfRmsq t) t rmsqRes s)

end Sys2Proof.Machine
end

