-- ==== Sys2Proof/Machine/Fv.lean ====
section
/-! DEFINITION. The fv operations other than conversions (R138 to R153). -/

namespace Sys2Proof.Machine

/-! ### Frames -/

/-- The rounding mode of a trigger (R38). -/
def trigMode (t : Trig) : RMode := rmodeOf (t.mod.extractLsb' 1 2)

/-- An operation of latency n that gives each lane a slice and flags, from a, b and T. -/
def runSlices (i : Instr) (t : Trig) (n : Nat) (f : Slice → Slice → Slice → Slice) (fl : Slice → Slice → Slice → BitVec 5)
    (s : State) : State :=
  runFixed i .fv t n s (fun o =>
    { r := mkRow (fun L => f (lane o.a L) (lane o.b L) (lane o.t L))
      fl := orFlags o.en 1 (fun L _ => fl (lane o.a L) (lane o.b L) (lane o.t L)) })

/-- The OR of the flags of n elements. -/
def orElems (n : Nat) (f : Nat → BitVec 5) : BitVec 5 := (List.range n).foldl (fun x e => x ||| f e) 0

/-- A floating elementwise operation: F gives the bits and flags of an element from those of a, b and T (R143). -/
def runFloat (i : Instr) (t : Trig) (n : Nat) (F : Fmt → Nat → Nat → Nat → Nat × BitVec 5) (s : State) : State :=
  let f := fmtOfTyp t.typ.toNat
  let w := f.width
  let at_ (a b z : Slice) (e : Nat) : Nat × BitVec 5 := F f (elemN w a e) (elemN w b e) (elemN w z e)
  runSlices i t n (fun a b z => packSlice w (128 / w) (fun e => (at_ a b z e).1))
    (fun a b z => orElems (128 / w) (fun e => (at_ a b z e).2)) s

/-- The element width of an fv TYPE (R139). -/
def fvWidth (typ : Nat) : Nat := match typ with | 0 | 3 => 32 | 1 | 2 | 4 => 16 | 5 => 8 | _ => 64

/-- An integer elementwise operation on signed elements (R148); c32x2 acts on its 32-bit parts. -/
def runInt (i : Instr) (t : Trig) (n : Nat) (satur : Bool) (F : Int → Int → Int → Int) (s : State) : State :=
  let w := if t.typ = 6 then 32 else fvWidth t.typ.toNat
  let v (x : Slice) (e : Nat) : Int := (BitVec.ofNat w (elemN w x e)).toInt
  runSlices i t n (fun a b z => packSlice w (128 / w) (fun e =>
    let x := F (v a e) (v b e) (v z e)
    ((if satur then sat true w x else x) % 2 ^ w).toNat)) (fun _ _ _ => 0) s

/-- An operation on whole slices that raises no flag. -/
def runBits (i : Instr) (t : Trig) (n : Nat) (F : Slice → Slice → Slice → Slice) (s : State) : State :=
  runSlices i t n F (fun _ _ _ => 0) s

/-- The SAT bit of a trigger. -/
def trigSat (t : Trig) : Bool := t.mod.getLsbD 0

/-! ### Functions of elements -/

/-- fabs and fneg (R147). -/
def signOp (abs : Bool) (f : Fmt) (z : Nat) : Nat × BitVec 5 :=
  match decodeF f z with
  | .nan sg => (f.qnan, if sg then fNV else 0)
  | _ => if abs then (z % 2 ^ (f.width - 1), 0) else ((z + 2 ^ (f.width - 1)) % 2 ^ f.width, 0)

/-- fcmp (R145): all ones or 0, and invalid. -/
def fcmpElem (cond : Nat) (f : Fmt) (x z : Nat) : Nat × BitVec 5 :=
  let a := decodeF f x
  let b := decodeF f z
  let un := a.isNan || b.isNan
  let eq := !un && !flt a b && !flt b a
  let holds : Bool :=
    match cond with
    | 0 => eq
    | 1 => !eq
    | 2 => flt a b
    | 3 => flt a b || eq
    | 4 => flt b a
    | 5 => flt b a || eq
    | 6 => un
    | _ => !un
  (if holds then 2 ^ f.width - 1 else 0, if 2 ≤ cond ∧ cond ≤ 5 ∧ un then fNV else sigFlag [a, b])

/-- frnd (R146): integral values stay, and a zero keeps the operand's sign. -/
def frndElem (mode : RMode) (f : Fmt) (z : Nat) : Nat × BitVec 5 :=
  match decodeF f z with
  | .nan sg => (f.qnan, if sg then fNV else 0)
  | .inf _ => (z, 0)
  | .fin neg m e =>
    let (k, _) := roundInt mode neg m e
    ((roundF f .rne neg k.natAbs 0 false).1, 0)

/-- A product as a term of fsum. -/
def term (f : Fmt) (x y : Nat) : FVal × BitVec 5 := fprod (decodeF f x) (decodeF f y)

/-- The opposite of a product. -/
def negTerm (p : FVal × BitVec 5) : FVal × BitVec 5 := (p.1.neg, p.2)

/-- An addend as a term of fsum. -/
def addend (f : Fmt) (x : Nat) : FVal × BitVec 5 := (decodeF f x, sigFlag [decodeF f x])

/-- Part e of a complex product of a by c, plus d when there is one (R150): even elements are real parts. -/
def cplxPart (mode : RMode) (a c : Slice) (d : Option Slice) (e : Nat) : Nat × BitVec 5 :=
  let re (x : Slice) : Nat := elemN 32 x (e - e % 2)
  let im (x : Slice) : Nat := elemN 32 x (e - e % 2 + 1)
  let ps := if e % 2 = 0 then [term f32 (re a) (re c), negTerm (term f32 (im a) (im c))]
    else [term f32 (re a) (im c), term f32 (im a) (re c)]
  fsum f32 mode (ps ++ (d.map (fun x => addend f32 (elemN 32 x e))).toList)

/-- The same on ci32 elements (R150), exact. -/
def cplxInt (a c : Slice) (d : Option Slice) (e : Nat) : Int :=
  let v (x : Slice) (e : Nat) : Int := (BitVec.ofNat 32 (elemN 32 x e)).toInt
  let k := e - e % 2
  (if e % 2 = 0 then v a k * v c k - v a (k + 1) * v c (k + 1) else v a k * v c (k + 1) + v a (k + 1) * v c k) +
    (match d with | some x => v x e | none => 0)

/-- cmul and cmac (R150). -/
def runCplx (i : Instr) (t : Trig) (f : Slice → Slice → Slice → Slice × Option Slice) (s : State) : State :=
  let at_ (a b z : Slice) (e : Nat) : Nat × BitVec 5 :=
    if t.typ = 0 then cplxPart (trigMode t) a (f a b z).1 (f a b z).2 e
    else
      let x := cplxInt a (f a b z).1 (f a b z).2 e
      (((if trigSat t then sat true 32 x else x) % 2 ^ 32).toNat, 0)
  runSlices i t 4 (fun a b z => packSlice 32 4 (fun e => (at_ a b z e).1)) (fun a b z => orElems 4 (fun e => (at_ a b z e).2)) s

/-- The sum of dot4 under f32x4 (R151). -/
def dotF (mode : RMode) (a b z : Slice) : Nat × BitVec 5 :=
  fsum f32 mode ((List.range 4).map (fun m => term f32 (elemN 32 a m) (elemN 32 b m)) ++ [addend f32 (elemN 32 z 0)])

/-- Element j of dot4 under i8x16 (R151). -/
def dotI (a b z : Slice) (j : Nat) : Int :=
  (List.range 4).foldl (fun x m =>
    x + (BitVec.ofNat 8 (elemN 8 a (4 * j + m))).toInt * (BitVec.ofNat 8 (elemN 8 b (4 * j + m))).toInt)
    (BitVec.ofNat 32 (elemN 32 z j)).toInt

/-- hsum of floats (R152), rounded once to f32; an infinity of each sign raises invalid, whatever stands beside them. -/
def hsumF (mode : RMode) (typ : Nat) (z : Slice) : Nat × BitVec 5 :=
  let f := fmtOfTyp typ
  let xs := (List.range (128 / f.width)).map (fun e => addend f (elemN f.width z e))
  let both := xs.any (fun x => x.1 == .inf true) && xs.any (fun x => x.1 == .inf false)
  let (r, fl) := fsum f32 mode xs
  (r, if both then fl ||| fNV else fl)

/-- hsum of integers (R152). -/
def hsumI (w : Nat) (z : Slice) : Int :=
  (List.range (128 / w)).foldl (fun x e => x + (BitVec.ofNat w (elemN w z e)).toInt) 0

/-- vsel (R149): element by element. -/
def vselSlice (w : Nat) (a b z : Slice) : Slice :=
  packSlice w (128 / w) (fun e => if elemN w z e = 0 then elemN w b e else elemN w a e)

/-- bshuf (R153): the table is a below b. -/
def bshufSlice (a b z : Slice) : Slice :=
  packSlice 8 16 (fun i =>
    let x := elemN 8 z i
    let j := x % 32
    if 128 ≤ x then 0 else if j < 16 then elemN 8 a j else elemN 8 b (j - 16))

/-! ### The meanings -/

/-- fadd (R143) -/
def execFvFadd (t : Trig) (s : State) : Host.Outcome State Fault Refusal :=
  .next (runFloat (.fvFadd t) t 4 (fun f x _ z => fadd f (trigMode t) (decodeF f x) (decodeF f z)) s)

/-- fsub (R143) -/
def execFvFsub (t : Trig) (s : State) : Host.Outcome State Fault Refusal :=
  .next (runFloat (.fvFsub t) t 4 (fun f x _ z => fadd f (trigMode t) (decodeF f x) (decodeF f z).neg) s)

/-- fmul (R143) -/
def execFvFmul (t : Trig) (s : State) : Host.Outcome State Fault Refusal :=
  .next (runFloat (.fvFmul t) t 4 (fun f x _ z => fmul f (trigMode t) (decodeF f x) (decodeF f z)) s)

/-- fma (R143) -/
def execFvFma (t : Trig) (s : State) : Host.Outcome State Fault Refusal :=
  .next (runFloat (.fvFma t) t 4 (fun f x y z => ffma f (trigMode t) (decodeF f x) (decodeF f y) (decodeF f z)) s)

/-- fms (R143) -/
def execFvFms (t : Trig) (s : State) : Host.Outcome State Fault Refusal :=
  .next (runFloat (.fvFms t) t 4 (fun f x y z => ffma f (trigMode t) (decodeF f x) (decodeF f y) (decodeF f z).neg) s)

/-- fnma (R143) -/
def execFvFnma (t : Trig) (s : State) : Host.Outcome State Fault Refusal :=
  .next (runFloat (.fvFnma t) t 4 (fun f x y z => ffma f (trigMode t) (decodeF f x).neg (decodeF f y) (decodeF f z)) s)

/-- fmin (R144) -/
def execFvFmin (t : Trig) (s : State) : Host.Outcome State Fault Refusal :=
  .next (runFloat (.fvFmin t) t 4 (fun f x _ z => fminmax f false x z) s)

/-- fmax (R144) -/
def execFvFmax (t : Trig) (s : State) : Host.Outcome State Fault Refusal :=
  .next (runFloat (.fvFmax t) t 4 (fun f x _ z => fminmax f true x z) s)

/-- fabs (R147) -/
def execFvFabs (t : Trig) (s : State) : Host.Outcome State Fault Refusal :=
  .next (runFloat (.fvFabs t) t 1 (fun f _ _ z => signOp true f z) s)

/-- fneg (R147) -/
def execFvFneg (t : Trig) (s : State) : Host.Outcome State Fault Refusal :=
  .next (runFloat (.fvFneg t) t 1 (fun f _ _ z => signOp false f z) s)

/-- fcmp (R145) -/
def execFvFcmp (t : Trig) (s : State) : Host.Outcome State Fault Refusal :=
  .next (runFloat (.fvFcmp t) t 2 (fun f x _ z => fcmpElem t.mod.toNat f x z) s)

/-- frnd (R146) -/
def execFvFrnd (t : Trig) (s : State) : Host.Outcome State Fault Refusal :=
  .next (runFloat (.fvFrnd t) t 4 (fun f _ _ z => frndElem (trigMode t) f z) s)

/-- vadd (R148) -/
def execFvVadd (t : Trig) (s : State) : Host.Outcome State Fault Refusal :=
  .next (runInt (.fvVadd t) t 2 (trigSat t) (fun x _ z => x + z) s)

/-- vsub (R148) -/
def execFvVsub (t : Trig) (s : State) : Host.Outcome State Fault Refusal :=
  .next (runInt (.fvVsub t) t 2 (trigSat t) (fun x _ z => x - z) s)

/-- vmul (R148) -/
def execFvVmul (t : Trig) (s : State) : Host.Outcome State Fault Refusal :=
  .next (runInt (.fvVmul t) t 3 (trigSat t) (fun x _ z => x * z) s)

/-- vmad (R148) -/
def execFvVmad (t : Trig) (s : State) : Host.Outcome State Fault Refusal :=
  .next (runInt (.fvVmad t) t 3 (trigSat t) (fun x y z => x * y + z) s)

/-- vmin (R148) -/
def execFvVmin (t : Trig) (s : State) : Host.Outcome State Fault Refusal :=
  .next (runInt (.fvVmin t) t 2 false (fun x _ z => min x z) s)

/-- vmax (R148) -/
def execFvVmax (t : Trig) (s : State) : Host.Outcome State Fault Refusal :=
  .next (runInt (.fvVmax t) t 2 false (fun x _ z => max x z) s)

/-- vand (R149) -/
def execFvVand (t : Trig) (s : State) : Host.Outcome State Fault Refusal :=
  .next (runBits (.fvVand t) t 2 (fun a _ z => a &&& z) s)

/-- vor (R149) -/
def execFvVor (t : Trig) (s : State) : Host.Outcome State Fault Refusal :=
  .next (runBits (.fvVor t) t 2 (fun a _ z => a ||| z) s)

/-- vxor (R149) -/
def execFvVxor (t : Trig) (s : State) : Host.Outcome State Fault Refusal :=
  .next (runBits (.fvVxor t) t 2 (fun a _ z => a ^^^ z) s)

/-- vsel (R149) -/
def execFvVsel (t : Trig) (s : State) : Host.Outcome State Fault Refusal :=
  .next (runBits (.fvVsel t) t 2 (fun a b z => vselSlice (fvWidth t.typ.toNat) a b z) s)

/-- cmul (R150) -/
def execFvCmul (t : Trig) (s : State) : Host.Outcome State Fault Refusal :=
  .next (runCplx (.fvCmul t) t (fun _ _ z => (z, none)) s)

/-- cmac (R150) -/
def execFvCmac (t : Trig) (s : State) : Host.Outcome State Fault Refusal :=
  .next (runCplx (.fvCmac t) t (fun _ b z => (b, some z)) s)

/-- dot4 (R151) -/
def execFvDot4 (t : Trig) (s : State) : Host.Outcome State Fault Refusal :=
  .next (runSlices (.fvDot4 t) t 4
    (fun a b z =>
      if t.typ = 0 then BitVec.ofNat 128 (dotF (trigMode t) a b z).1
      else packSlice 32 4 (fun j => ((if trigSat t then sat true 32 (dotI a b z j) else dotI a b z j) % 2 ^ 32).toNat))
    (fun a b z => if t.typ = 0 then (dotF (trigMode t) a b z).2 else 0) s)

/-- hsum (R152) -/
def execFvHsum (t : Trig) (s : State) : Host.Outcome State Fault Refusal :=
  .next (runSlices (.fvHsum t) t 6
    (fun _ _ z =>
      if t.typ.toNat < 3 then BitVec.ofNat 128 (hsumF (trigMode t) t.typ.toNat z).1
      else
        let x := hsumI (fvWidth t.typ.toNat) z
        BitVec.ofNat 128 ((if trigSat t then sat true 32 x else x) % 2 ^ 32).toNat)
    (fun _ _ z => if t.typ.toNat < 3 then (hsumF (trigMode t) t.typ.toNat z).2 else 0) s)

/-- pack (R153) -/
def execFvPack (t : Trig) (s : State) : Host.Outcome State Fault Refusal :=
  .next (runBits (.fvPack t) t 2 (fun a _ z => z.extractLsb' 0 64 ++ a.extractLsb' 0 64) s)

/-- unpack (R153) -/
def execFvUnpack (t : Trig) (s : State) : Host.Outcome State Fault Refusal :=
  .next (runBits (.fvUnpack t) t 2 (fun _ _ z => lo64 (z.extractLsb' 64 64)) s)

/-- bshuf (R153) -/
def execFvBshuf (t : Trig) (s : State) : Host.Outcome State Fault Refusal :=
  .next (runBits (.fvBshuf t) t 2 bshufSlice s)

/-- movv (R153) -/
def execFvMovv (t : Trig) (s : State) : Host.Outcome State Fault Refusal :=
  .next (runBits (.fvMovv t) t 2 (fun _ _ z => z) s)

end Sys2Proof.Machine
end

