-- ==== Sys2Proof/Machine/Cvt.lean ====
section
/-! DEFINITION. The block formats and the conversions of fv (R40, R45 to R52, R154 to R159). -/

namespace Sys2Proof.Machine

/-! ### Integer and real elements (R40, R157) -/

/-- A float value converted to an integer type (R40): its bits and the flags. -/
def toInt (sg : Bool) (w : Nat) (mode : RMode) (x : FVal) : Nat × BitVec 5 :=
  let bits (v : Int) : Nat := (v % 2 ^ w).toNat
  match x with
  | .nan _ => (0, fNV)
  | .inf neg => (bits (sat sg w (if neg then -(2 ^ w : Int) else 2 ^ w)), fNV)
  | .fin neg m e =>
    let (k, nx) := roundInt mode neg m e
    let v := sat sg w k
    (bits v, if v ≠ k then fNV else if nx then fNX else 0)

/-- An integer converted to a float (R40). -/
def fromInt (f : Fmt) (mode : RMode) (v : Int) : Nat × BitVec 5 := roundDyadic f mode v 0 false

/-- The value of an integer element. -/
def intOf (f : NumFmt) (w bits : Nat) : Int := intVal f.signed (BitVec.ofNat w bits)

/-- One real element converted to a real format (R157). DESIGN CHOICE (log 52): a conversion that widens and changes signedness takes
Sat of the value, so a negative one gives 0. -/
def cvtReal (src dst : NumFmt) (mode : RMode) (bits : Nat) : Nat × BitVec 5 :=
  match src.float?, dst.float? with
  | some f, some g => roundVal g mode (decodeF f bits)
  | some f, none => toInt dst.signed dst.width mode (decodeF f bits)
  | none, some g => fromInt g mode (intOf src src.width bits)
  | none, none => ((sat dst.signed dst.width (intOf src src.width bits) % 2 ^ dst.width).toNat, 0)

/-- The format of each part of a complex element, with its width: f32 pairs count as complex here (R155, R157). -/
def partFmt (f : NumFmt) : NumFmt × Nat :=
  match f with
  | .c4 => (.i8, 4) | .c8 => (.i8, 8) | .ci32 => (.i32, 32) | f => (f, 32)

/-- One part of a complex conversion (R157). -/
def cvtPart (src dst : NumFmt) (mode : RMode) (bits : Nat) : Nat × BitVec 5 :=
  let (a, wa) := partFmt src
  let (d, wd) := partFmt dst
  match a.float?, d.float? with
  | some f, some g => roundVal g mode (decodeF f bits)
  | some f, none => toInt true wd mode (decodeF f bits)
  | none, some g => fromInt g mode (intOf a wa bits)
  | none, none => ((sat true wd (intOf a wa bits) % 2 ^ wd).toNat, 0)

/-! ### Block elements (R45 to R51) -/

/-- The value of a b4 code (R47). -/
def b4Val (c : Nat) : Int :=
  let m : Int := match c % 8 with | 0 => 0 | 1 => 1 | 2 => 2 | 3 => 3 | 4 => 4 | 5 => 6 | 6 => 8 | _ => 12
  if 8 ≤ c then -m else m

/-- The integer value of an element code (R46). -/
def codeVal (f : NumFmt) (c : Nat) : Int :=
  match f with
  | .b4 => b4Val c
  | .b8 => (BitVec.ofNat 8 c).toInt
  | _ => (BitVec.ofNat 12 c).toInt

/-- The largest magnitude of a code (R49). -/
def codeMax (f : NumFmt) : Nat := match f with | .b4 => 12 | .b8 => 127 | _ => 2047

/-- The index of the b4 magnitude nearest to m × 2^e; 8 when it is nearer to 16 than to 12 (log 22). A tie goes to the even
code (R49). -/
def b4Index (m : Nat) (e : Int) : Nat :=
  let (k, c) := cut m e false (-1)
  ([1, 3, 5, 7, 10, 14, 20, 28].zipIdx.filter (fun p => decide (p.1 < k) || (k == p.1 && (c != 0 || p.2 % 2 == 1)))).length

/-- The code nearest to (−1)^neg × m × 2^e, and its magnitude (R49). DESIGN CHOICE (log 22): b4 has two codes for zero, and R49
says only which of them −0 gets; a small negative element that rounds to zero gets code 0 too. -/
def nearCode (f : NumFmt) (neg : Bool) (m : Nat) (e : Int) : Nat × Nat :=
  match f with
  | .b4 =>
    let i := b4Index m e
    (if i = 0 then 0 else i % 8 + (if neg then 8 else 0), if i = 8 then 16 else (b4Val i).natAbs)
  | f =>
    let (k, _) := roundInt .rne neg m e
    ((k % 2 ^ f.width).toNat, k.natAbs)

/-- The finite value of an element, or none for a NaN or an infinity. -/
def finOf (x : FVal) : Option (Bool × Nat × Int) := match x with | .fin n m e => some (n, m, e) | _ => none

/-- The shared exponent of a block of finite elements (R49): the smallest E from 0 to 254 that fits. -/
def blockE (f : NumFmt) (xs : List (Bool × Nat × Int)) : Nat :=
  ((List.range 255).find? (fun (E : Nat) => xs.all (fun x =>
    decide ((nearCode f x.1 x.2.1 (x.2.2 + 127 - (E : Int))).2 ≤ codeMax f)))).getD 254

/-- A block converted from its 16 elements (R49): the scale entry and the codes. -/
def toBlock (f : NumFmt) (xs : List FVal) : Nat × List Nat :=
  if xs.all (fun x => (finOf x).isSome) then
    let vs := xs.filterMap finOf
    let E := blockE f vs
    (E, vs.map (fun x => (nearCode f x.1 x.2.1 (x.2.2 + 127 - E)).1))
  else (0xFF, xs.map (fun _ => 0))

/-- The value of an element code under a scale entry, at place i of its block (R46); none in a NaN block (R48). -/
def blockVal (f : NumFmt) (scale code i : Nat) : Option (Bool × Nat × Int) :=
  let E := scale % 256
  if E = 255 then none
  else
    let v := codeVal f code
    some (decide (v < 0), v.natAbs, (E : Int) - 127 - (scale / 2 ^ (8 + i / 2) % 2 : Nat))

/-- The real value of an element, for a conversion into a block format (R158). -/
def realVal (src : NumFmt) (bits : Nat) : FVal :=
  match src.float? with
  | some f => decodeF f bits
  | none => let v := intOf src src.width bits; .fin (decide (v < 0)) v.natAbs 0

/-! ### Lanes (R156, R158, R159) -/

/-- Elements of a real format in a lane. -/
def perLane (f : NumFmt) : Nat := 128 / f.width

/-- Element number i of the group, as the source of a conversion into blocks: 0 in a disabled lane (R158). -/
def groupElem (src : NumFmt) (o : Opnd) (i : Nat) : FVal :=
  let p := perLane src
  if o.en.getLsbD (i / p) then realVal src (elemN src.width (lane o.t (i / p)) (i % p)) else .fin false 0 0

/-- Block k of a conversion into a block format. -/
def groupBlock (src dst : NumFmt) (o : Opnd) (k : Nat) : Nat × List Nat :=
  toBlock dst ((List.range 16).map (fun j => groupElem src o (16 * k + j)))

/-- A lane of a conversion into a block format: its codes, and the scale entry in [127:112]. -/
def toBlockLane (src dst : NumFmt) (o : Opnd) (L : Nat) : Slice :=
  let p := perLane src
  let (sc, cs) := groupBlock src dst o (L * p / 16)
  let codes := packN dst.width (fun e => (cs[(L * p + e) % 16]?).getD 0) p
  BitVec.ofNat 128 (codes + sc * 2 ^ 112)

/-- The flags of an element that goes into a block (R158). -/
def toBlockFlags (src dst : NumFmt) (o : Opnd) (L e : Nat) : BitVec 5 :=
  let i := L * perLane src + e
  let (sc, cs) := groupBlock src dst o (i / 16)
  match groupElem src o i with
  | .inf _ => fNV
  | .nan sg => if sg then fNV else 0
  | .fin n m x =>
    match blockVal dst sc ((cs[i % 16]?).getD 0) (i % 16) with
    | none => 0
    | some (n', m', x') => if (dyadicAdd (signed n m) x (-(signed n' m')) x').1 = 0 then 0 else fNX

/-- An element of a conversion from a block format (R159). -/
def fromBlockElem (src dst : NumFmt) (mode : RMode) (z : Slice) (L e : Nat) : Nat × BitVec 5 :=
  let v : FVal :=
    match blockVal src (elemN 16 z 7) (elemN src.width z e) ((L * perLane dst + e) % 16) with
    | some (n, m, x) => .fin n m x
    | none => .nan true
  match dst.float? with
  | some g => roundVal g mode v
  | none => toInt dst.signed dst.width mode v

/-- Elements that a lane of a conversion without blocks handles: 128 divided by the larger width, where an f32 pair counts
64 (R156). -/
def cvtCount (src dst : NumFmt) : Nat :=
  let cplx := src.kind == .complex || dst.kind == .complex
  let w (f : NumFmt) : Nat := if cplx && f == .f32 then 64 else f.width
  128 / max (w src) (w dst)

/-- An element, or a part of a complex one, of a conversion without blocks. -/
def cvtElem (src dst : NumFmt) (mode : RMode) (z : Slice) (e : Nat) : Nat × BitVec 5 :=
  if src.kind == .complex || dst.kind == .complex then cvtPart src dst mode (elemN (partFmt src).2 z e)
  else cvtReal src dst mode (elemN src.width z e)

/-- What a conversion gives (R154 to R159). -/
def cvtRes (src dst : NumFmt) (mode : RMode) (o : Opnd) : FixedRes :=
  if dst.kind == .block then
    { r := mkRow (toBlockLane src dst o), fl := orFlags o.en (perLane src) (toBlockFlags src dst o) }
  else if src.kind == .block then
    { r := mkRow (fun L => packSlice dst.width (perLane dst) (fun e => (fromBlockElem src dst mode (lane o.t L) L e).1))
      fl := orFlags o.en (perLane dst) (fun L e => (fromBlockElem src dst mode (lane o.t L) L e).2) }
  else
    let cplx := src.kind == .complex || dst.kind == .complex
    let n := if cplx then 2 * cvtCount src dst else cvtCount src dst
    let w := if cplx then (partFmt dst).2 else dst.width
    { r := mkRow (fun L => packSlice w n (fun e => (cvtElem src dst mode (lane o.t L) e).1))
      fl := orFlags o.en n (fun L e => (cvtElem src dst mode (lane o.t L) e).2) }

/-- The source format of a trigger with its operands (R154). Where the same bundle latches b from a leased row, whose slot faults,
check 4 looks at the row's value and the conversion at b as it stood, an unassigned XSRC there read as f32: DESIGN CHOICE
(log 49). -/
def srcFmt (t : Trig) (o : Opnd) : NumFmt :=
  (cvtSource t.typ.toNat ((uniform o.en o.b).extractLsb' 0 4).toNat).getD .f32

/-- A conversion to a destination format. -/
def runCvt (i : Instr) (dst : NumFmt) (t : Trig) (s : State) : State :=
  runFixed i .fv t 4 s (fun o => cvtRes (srcFmt t o) dst (trigMode t) o)

/-! ### The meanings -/

/-- cvtf32 (R154 to R159) -/
def execFvCvtf32 (t : Trig) (s : State) : Host.Outcome State Fault Refusal := .next (runCvt (.fvCvtf32 t) .f32 t s)

/-- cvtbf16 (R154 to R159) -/
def execFvCvtbf16 (t : Trig) (s : State) : Host.Outcome State Fault Refusal := .next (runCvt (.fvCvtbf16 t) .bf16 t s)

/-- cvtf16 (R154 to R159) -/
def execFvCvtf16 (t : Trig) (s : State) : Host.Outcome State Fault Refusal := .next (runCvt (.fvCvtf16 t) .f16 t s)

/-- cvti32 (R154 to R159) -/
def execFvCvti32 (t : Trig) (s : State) : Host.Outcome State Fault Refusal := .next (runCvt (.fvCvti32 t) .i32 t s)

/-- cvtn32 (R154 to R159) -/
def execFvCvtn32 (t : Trig) (s : State) : Host.Outcome State Fault Refusal := .next (runCvt (.fvCvtn32 t) .n32 t s)

/-- cvti16 (R154 to R159) -/
def execFvCvti16 (t : Trig) (s : State) : Host.Outcome State Fault Refusal := .next (runCvt (.fvCvti16 t) .i16 t s)

/-- cvtn16 (R154 to R159) -/
def execFvCvtn16 (t : Trig) (s : State) : Host.Outcome State Fault Refusal := .next (runCvt (.fvCvtn16 t) .n16 t s)

/-- cvti8 (R154 to R159) -/
def execFvCvti8 (t : Trig) (s : State) : Host.Outcome State Fault Refusal := .next (runCvt (.fvCvti8 t) .i8 t s)

/-- cvtn8 (R154 to R159) -/
def execFvCvtn8 (t : Trig) (s : State) : Host.Outcome State Fault Refusal := .next (runCvt (.fvCvtn8 t) .n8 t s)

/-- cvtb4 (R154 to R159) -/
def execFvCvtb4 (t : Trig) (s : State) : Host.Outcome State Fault Refusal := .next (runCvt (.fvCvtb4 t) .b4 t s)

/-- cvtb8 (R154 to R159) -/
def execFvCvtb8 (t : Trig) (s : State) : Host.Outcome State Fault Refusal := .next (runCvt (.fvCvtb8 t) .b8 t s)

/-- cvtb12 (R154 to R159) -/
def execFvCvtb12 (t : Trig) (s : State) : Host.Outcome State Fault Refusal := .next (runCvt (.fvCvtb12 t) .b12 t s)

/-- cvtc4 (R154 to R159) -/
def execFvCvtc4 (t : Trig) (s : State) : Host.Outcome State Fault Refusal := .next (runCvt (.fvCvtc4 t) .c4 t s)

/-- cvtc8 (R154 to R159) -/
def execFvCvtc8 (t : Trig) (s : State) : Host.Outcome State Fault Refusal := .next (runCvt (.fvCvtc8 t) .c8 t s)

/-- cvtci32 (R154 to R159) -/
def execFvCvtci32 (t : Trig) (s : State) : Host.Outcome State Fault Refusal := .next (runCvt (.fvCvtci32 t) .ci32 t s)

end Sys2Proof.Machine
end

