-- ==== Sys2Proof/Machine/Mx.lean ====
section
/-! DEFINITION. The matrix engine: records, passes, drains, and saving and loading banks (R45 to R59, R254 to R279). -/

namespace Sys2Proof.Machine

/-! ### Records and formats (R254, R258, R262) -/

/-- BASE of a record. -/
def recBase (r : BitVec 128) : Nat := (r.extractLsb' 0 52).toNat
/-- LEN of a record. -/
def recLen (r : BitVec 128) : Nat := (r.extractLsb' 64 20).toNat
/-- SOFF of a record. -/
def recSoff (r : BitVec 128) : Nat := (r.extractLsb' 84 20).toNat

/-- The native format of a source format: 0 b4, 1 b8, 2 b12, 3 c4, 4 c8 (R262). -/
def nativeOf (fmt : Nat) : Nat := match fmt with | 5 => 0 | 6 => 1 | 7 => 2 | f => f

/-- BB, BLEN and SB of a source format (R262); BLEN 0 where the format has no scales. -/
def layoutOf (fmt : Nat) : Nat × Nat × Nat :=
  match fmt with
  | 0 => (8, 16, 2) | 1 => (16, 16, 2) | 2 => (24, 16, 2) | 3 => (16, 0, 0) | 4 => (32, 0, 0) | 5 => (8, 32, 1)
  | 6 => (16, 0, 0) | _ => (32, 0, 0)

/-- The block format of a native format. -/
def blkFmt (n : Nat) : NumFmt := match n with | 0 => .b4 | 1 => .b8 | _ => .b12

/-! ### Operands in memory (R45 to R52, R262) -/

/-- A block as a pass reads it: its scale, its 16 codes as complex integers, and whether its import lost value. -/
structure Blk where
  nan : Bool := false
  e : Nat := 0
  ph : Nat := 0
  codes : List (Int × Int) := []
  loss : Bool := false
  deriving DecidableEq, Repr

/-- Bytes of an operand through the aperture slot as it stands (R268). -/
def opRead (s : State) (tid va n : Nat) : Nat :=
  match aperture s tid va n with | some (_, pa) => physRead s none pa n | none => 0

/-- Whether bytes of an operand hold an uncorrectable error. -/
def opBad (s : State) (tid va n : Nat) : Bool :=
  match aperture s tid va n with | some (_, pa) => failingAt s pa n | none => false

/-- The value of an FP8 element: E4M3 (no infinities, one NaN magnitude), or E5M2 (R50; log 21). -/
def fp8Val (e5m2 : Bool) (x : Nat) : FVal :=
  if e5m2 then decodeF ⟨5, 2⟩ x
  else if x % 128 = 127 then .nan false
  else
    let ex := x / 8 % 16
    let neg := 128 ≤ x % 256
    if ex = 0 then .fin neg (x % 8) (-9) else .fin neg (8 + x % 8) (ex - 10)

/-- Whether a block conversion changed a value (R50). -/
def blockLoss (f : NumFmt) (xs : List FVal) (sc : Nat) (cs : List Nat) : Bool :=
  sc % 256 == 255 || (xs.zip cs).zipIdx.any (fun p =>
    match p.1.1, blockVal f sc p.1.2 p.2 with
    | .fin n m e, some (n', m', e') => (dyadicAdd (signed n m) e (-(signed n' m')) e').1 != 0
    | _, _ => true)

/-- Bits of one element of a source format in memory (R46, R52, R262). -/
def elemBits (fmt : Nat) : Nat := (layoutOf fmt).1 / 2

/-- A block from data and scale bytes in a source format, of which the first n elements lie below K: the others count as zero
(R46 to R52, R55, R263). -/
def blockOf (fmt : Nat) (e5m2 : Bool) (n all scale : Nat) : Blk :=
  let data := all % 2 ^ (elemBits fmt * n)
  let el (w i : Nat) : Nat := data / 2 ^ (w * i) % 2 ^ w
  let sg (w x : Nat) : Int := (BitVec.ofNat w x).toInt
  let native (f : NumFmt) (sc : Nat) (cs : List Nat) (loss : Bool) : Blk :=
    { nan := sc % 256 == 255, e := sc % 256, ph := sc / 256 % 256, codes := cs.map (fun c => (codeVal f c, 0)), loss := loss }
  let ix := List.range 16
  match fmt with
  | 0 => native .b4 scale (ix.map (el 4)) false
  | 1 => native .b8 scale (ix.map (el 8)) false
  | 2 => native .b12 scale (ix.map (el 12)) false
  | 3 => { codes := ix.map (fun i => (sg 4 (el 4 (2 * i)), sg 4 (el 4 (2 * i + 1)))) }
  | 4 => { codes := ix.map (fun i => (sg 8 (el 8 (2 * i)), sg 8 (el 8 (2 * i + 1)))) }
  | 5 => native .b4 (if scale = 0 then 0xFF00 else if scale = 0xFF then 0xFF else scale - 1) (ix.map (el 4)) (scale == 0xFF)
  | f =>
    let b := if f = 6 then NumFmt.b8 else NumFmt.b12
    let xs := ix.map (fun i => if f = 6 then fp8Val e5m2 (el 8 i) else decodeF bf16 (el 16 i))
    let (sc, cs) := toBlock b xs
    native b sc cs (blockLoss b xs sc cs)

/-- The key of what a pass has read: element e of block i of operand side (0 A, 1 B); 16 is the scale entry i, and 0 stands for
the data of the block. -/
def passKey (side i e : Nat) : Nat := side * 2 ^ 40 + i * 32 + e

/-- The record and the row count of an operand of a pass (R262). -/
def operandOf (o : MxOp) (side : Nat) : BitVec 128 × Nat := if side = 0 then (o.reca, 128) else (o.recb, 256)

/-- The data blocks that an operand of a pass gives, kb × R + x each (R263). -/
def dataCount (o : MxOp) (side : Nat) : Nat := (o.depth + 15) / 16 * (operandOf o side).2

/-- The scale entries that an operand of a pass gives (R263). -/
def scaleCount (o : MxOp) (side : Nat) : Nat :=
  let (r, rows) := operandOf o side
  let bl := (layoutOf (recFmt r)).2.1
  if bl = 0 then 0 else (o.depth + bl - 1) / bl * rows

/-- The elements of block i that lie below K (R55). -/
def elemsBelow (o : MxOp) (side i : Nat) : Nat := min 16 (o.depth - i / (operandOf o side).2 * 16)

/-- The data of block i of an operand as it stands (R262, R268). -/
def readData (s : State) (o : MxOp) (side i : Nat) : Nat :=
  let r := (operandOf o side).1
  opRead s o.team (recBase r + i * (layoutOf (recFmt r)).1) (layoutOf (recFmt r)).1

/-- Scale entry i of an operand as it stands (R262). -/
def readScale (s : State) (o : MxOp) (side i : Nat) : Nat :=
  let r := (operandOf o side).1
  opRead s o.team (recBase r + recSoff r + i * (layoutOf (recFmt r)).2.2) (layoutOf (recFmt r)).2.2

/-- Whether element e of block i, or scale entry i, holds an uncorrectable error (R191, R278). -/
def elemBad (s : State) (o : MxOp) (side i e : Nat) : Bool :=
  let r := (operandOf o side).1
  let (bb, _, sb) := layoutOf (recFmt r)
  let w := elemBits (recFmt r)
  if e = 16 then opBad s o.team (recBase r + recSoff r + i * sb) sb
  else opBad s o.team (recBase r + i * bb + w * e / 8) ((w * e % 8 + w + 7) / 8)

/-- A pass reads all of one operand (R263). -/
def readOperand (s : State) (side : Nat) (o : MxOp) : MxOp :=
  let ds := List.range (dataCount o side)
  let ss := List.range (scaleCount o side)
  { o with
    raw := o.raw ++ ds.map (fun i => (passKey side i 0, readData s o side i)) ++
      ss.map (fun i => (passKey side i 16, readScale s o side i))
    badAt := o.badAt ++
      ds.flatMap (fun i => ((List.range (elemsBelow o side i)).filter (elemBad s o side i)).map (passKey side i)) ++
      (ss.filter (fun i => elemBad s o side i 16)).map (fun i => passKey side i 16) }

/-- A running pass reads element e of block i, or scale entry i, only now: a write during the pass is seen or not, element by
element (R208, R279). -/
def readLate (s : State) (o : MxOp) (side i e : Nat) : MxOp :=
  let r := (operandOf o side).1
  let w := elemBits (recFmt r)
  let key := passKey side i e
  let bad := o.badAt.filter (fun k => k != key) ++ (if elemBad s o side i e then [key] else [])
  if e = 16 then
    if i < scaleCount o side then { o with raw := tput o.raw key (readScale s o side i), badAt := bad } else o
  else if i < dataCount o side ∧ e < elemsBelow o side i then
    let old := tget 0 o.raw (passKey side i 0)
    let lo := old % 2 ^ (w * e)
    let hi := old / 2 ^ (w * (e + 1))
    { o with raw := tput o.raw (passKey side i 0) (lo + readData s o side i / 2 ^ (w * e) % 2 ^ w * 2 ^ (w * e) + hi * 2 ^ (w * (e + 1)))
             badAt := bad }
  else o

/-- The blocks of an operand as a pass has read them: for each kb, for each row (R262). -/
def passBlocks (o : MxOp) (side : Nat) : List (List Blk) :=
  let (r, rows) := operandOf o side
  let (_, bl, sb) := layoutOf (recFmt r)
  (List.range ((o.depth + 15) / 16)).map (fun kb => (List.range rows).map (fun x =>
    let i := kb * rows + x
    let j := (if bl = 0 then 0 else 16 * kb / bl) * rows + x
    blockOf (recFmt r) (r.getLsbD 61) (elemsBelow o side i) (tget 0 o.raw (passKey side i 0))
      (if sb = 0 then 0 else tget 0 o.raw (passKey side j 16))))

/-! ### Residues (R53, R55, R56, R58) -/

/-- A triple with an integer added (R55). -/
def residueAdd (h : Nat × Nat × Nat) (x : Int) : Nat × Nat × Nat :=
  ((((h.1 : Int) + x) % 4095).toNat, (((h.2.1 : Int) + x) % 4096).toNat, (((h.2.2 : Int) + x) % 4097).toNat)

/-- M, the product of the moduli (R53). -/
def residueM : Nat := 68719472640

/-- The integer of a triple (R56). -/
def residueInt (h : Nat × Nat × Nat) : Int :=
  let x := (h.1 * 16781312 * 2048 + h.2.1 * 16777215 * 4095 + h.2.2 * 16773120 * 2049) % residueM
  if 34359736320 ≤ x then (x : Int) - residueM else x

/-! ### A pass (R54, R55, R264, R270) -/

/-- E − PH of an element of a block: its part of c. -/
def expOf (b : Blk) (k : Nat) : Int := (b.e : Int) - (b.ph / 2 ^ (k % 16 / 2) % 2 : Nat)

/-- The largest part of c among the blocks of one kb that are not NaN blocks. -/
def maxExp (bs : List Blk) (k : Nat) : Option Int :=
  bs.foldl (fun o b =>
    if b.nan then o
    else match o with | none => some (expOf b k) | some x => some (max x (expOf b k))) none

/-- cmax over all products with k below the depth (R55): c is a sum of one part of A and one of B. -/
def cmaxOf (cplx : Bool) (as bs : List (List Blk)) (depth : Nat) : Int :=
  if cplx then 254
  else
    ((List.range depth).foldl (fun (o : Option Int) k =>
      match maxExp ((as[k / 16]?).getD []) k, maxExp ((bs[k / 16]?).getD []) k with
      | some x, some y => (match o with | none => some (x + y) | some z => some (max z (x + y)))
      | _, _ => o) none).getD 254

/-- The product of one step under the pattern (R264). -/
def stepProduct (cop : BitVec 128) (k : Nat) (x y : Int × Int) : Int × Int :=
  let mul (y : Int × Int) : Int × Int := (x.1 * y.1 - x.2 * y.2, x.1 * y.2 + x.2 * y.1)
  match (cop.extractLsb' (2 * (k % 64)) 2).toNat with
  | 0 => mul y
  | 1 => mul (y.1, -y.2)
  | 2 => let p := mul y; (-p.1, -p.2)
  | _ => (0, 0)

/-- One cell of a pass, and whether a nonzero product was dropped (R55). -/
def passCell (cplx : Bool) (cop : BitVec 128) (ref : Int) (depth : Nat) (row col : List Blk) : Cell × Bool :=
  (List.range depth).foldl (fun (p : Cell × Bool) k =>
    let a := (row[k / 16]?).getD {}
    let b := (col[k / 16]?).getD {}
    if a.nan || b.nan then ({ p.1 with nan := true }, p.2)
    else
      let x := stepProduct cop k ((a.codes[k % 16]?).getD (0, 0)) ((b.codes[k % 16]?).getD (0, 0))
      let d := (if cplx then 254 else expOf a k + expOf b k) - ref
      if d < 0 then (p.1, p.2 || x != (0, 0))
      else
        ({ p.1 with re := residueAdd p.1.re (x.1 * 2 ^ d.toNat), im := residueAdd p.1.im (x.2 * 2 ^ d.toNat) }, p.2))
    ({}, false)

/-- All cells of a pass that are not 0, and SPANFL. -/
def passCells (cplx : Bool) (cop : BitVec 128) (ref : Int) (depth : Nat) (as bs : List (List Blk)) : Tbl Cell × Bool :=
  let col (t : List (List Blk)) (x : Nat) : List Blk := t.map (fun r => (r[x]?).getD {})
  let out := (List.range 128).flatMap (fun i =>
    let row := col as i
    (List.range 256).map (fun j => (256 * i + j, passCell cplx cop ref depth row (col bs j))))
  ((out.filter (fun c => c.2.1 != {})).map (fun c => (c.1, c.2.1)), out.any (fun c => c.2.2))

/-- The array cycles of a pass: scan and steps (R271). -/
def passCycles (n depth : Nat) : Nat × Nat :=
  ((depth + 15) / 16, match n with | 0 => (depth + 3) / 4 | 1 => (depth + 1) / 2 | 4 => 2 * depth | _ => depth)

/-! ### Results of a drain (R57, R59, R272) -/

/-- The four events of a drain from the flags of a rounding: DOVF, DUNF, DINX, DNAN. -/
def drainFlags (fl : BitVec 5) : BitVec 4 := BitVec.ofNat 4 ((fl.toNat / 4) % 8)

/-- A cell's result in a mode (0 f32, 1 bf16, 2 i32, 3 ci32, 4 raw), onto an old element (R57, R59). DESIGN CHOICE (log 21): R59
gives only the sum with X; an accumulating i32 or ci32 drain of a NaN cell writes R57's pattern 0x8000_0000 in place of the old
element. -/
def drainElem (mode : Nat) (acc cplx : Bool) (ref : Int) (c : Cell) (old : Nat) : Nat × BitVec 4 :=
  let x := residueInt c.re
  let nanEv : BitVec 4 := if c.nan then 8 else 0
  let i32 (v : Int) : Nat × BitVec 4 := ((sat true 32 v % 2 ^ 32).toNat, if sat true 32 v = v then 0 else 1)
  let o32 (i : Nat) : Int := if acc then (BitVec.ofNat 32 (old / 2 ^ (32 * i))).toInt else 0
  match mode with
  | 0 =>
    if c.nan then (f32.qnan, nanEv)
    else
      let (b, fl) := roundDyadic f32 .rne x (ref - 254) false
      if acc then let (z, fl') := fadd f32 .rne (decodeF f32 (old % 2 ^ 32)) (decodeF f32 b); (z, drainFlags (fl ||| fl'))
      else (b, drainFlags fl)
  | 1 =>
    if c.nan then (bf16.qnan, nanEv)
    else let (b, fl) := roundDyadic bf16 .rne x (ref - 254) false; (b, drainFlags fl)
  | 2 =>
    if c.nan then (2 ^ 31, nanEv)
    else
      let (n, nx) := roundInt .rne (decide (x < 0)) x.natAbs (ref - 254)
      let (b, ev) := i32 (n + o32 0)
      (b, ev ||| (if nx then 4 else 0))
  | 3 =>
    if c.nan then (2 ^ 31 + 2 ^ 63, nanEv)
    else
      let (a, e1) := i32 (x + o32 0)
      let (b, e2) := i32 (residueInt c.im + o32 1)
      (a + b * 2 ^ 32, e1 ||| e2)
  | _ => (rawWord c.re c.nan + (if cplx then rawWord c.im c.nan * 2 ^ 64 else 0), nanEv)

/-- Accumulator rows per tile row (R272). -/
def drainRpt (mode : Nat) (cplx : Bool) : Nat :=
  match mode with | 0 | 2 => 2 | 1 => 1 | 3 => 4 | _ => if cplx then 8 else 4

/-- Columns and bits per element of one accumulator row (R272). -/
def drainCols (mode : Nat) (cplx : Bool) : Nat × Nat :=
  match mode with | 0 | 2 => (128, 32) | 1 => (256, 16) | 3 => (64, 64) | _ => if cplx then (32, 128) else (64, 64)

/-- Accumulator row m of tile row i. -/
def drainRow (bk : Bank) (mode : Nat) (acc : Bool) (i m : Nat) (old : Row) : Row × BitVec 4 :=
  let cplx := cplxFmt bk.fmt
  let (n, w) := drainCols mode cplx
  let es := (List.range n).map (fun e =>
    drainElem mode acc cplx bk.ref (tget {} bk.cells (256 * i + n * m + e)) (old.toNat / 2 ^ (w * e) % 2 ^ w))
  (BitVec.ofNat 4096 (es.foldr (fun x v => x.1 + 2 ^ w * v) 0), es.foldl (fun x e => x ||| e.2) 0)

/-! ### The pair (R256, R257, R265 to R267) -/

/-- A bank of the pair whose leader is c. -/
def bankAt (s : State) (c b : Nat) : Bank := tget {} (core s c).banks b

/-- The state with a bank replaced. -/
def setBank (s : State) (c b : Nat) (x : Bank) : State := modCore s c (fun k => { k with banks := tput k.banks b x })

/-- Passes and mxloads (R266). -/
def MxOp.isPass (o : MxOp) : Bool := o.kind == .pass || o.kind == .load

/-- The passes and mxloads issued on a bank and not retired. -/
def bankPasses (s : State) (c b : Nat) : List MxOp := (core s c).mxops.filter (fun o => o.isPass && o.bank == b)

/-- The physical address of a byte of an image. -/
def imageAddr (a : Access) (va : Nat) : Nat :=
  match a.elems.find? (fun e => e.va / 64 == va / 64) with | some e => e.pa + va - e.va | none => 0

/-- The header word of an image to be loaded. -/
def imageHead (s : State) (c : Nat) (a : Access) : Nat :=
  physRead s (some c) (imageAddr a (((a.elems.head?).map (·.va)).getD 0)) 8

/-- The code that stands for a format that is not known yet. -/
def unknownFmt : Nat := 8

/-- The format of a pass or mxload: of an mxload that has not started, what its header says now, if its page is present (log 21). -/
def opFmt (s : State) (c : Nat) (o : MxOp) : Nat :=
  if o.kind != .load || o.started then o.fmt
  else
    match o.access with
    | some a => if a.stat = .ready then imageHead s c a % 8 else unknownFmt
    | none => o.fmt

/-- The format of the last pass or mxload issued on a bank (R272). -/
def lastFmt (s : State) (c b : Nat) : Option Nat :=
  match (bankPasses s c b).getLast? with
  | some o => some (opFmt s c o)
  | none => if (bankAt s c b).full then some (bankAt s c b).fmt else none

/-- The state of a bank (R257). -/
def bankState (s : State) (c b : Nat) : Nat :=
  if !(bankPasses s c b).isEmpty then 1
  else if !(bankAt s c b).full then 0
  else if (core s c).mxops.any (fun o => !o.isPass && o.bank == b) then 3 else 2

/-- MXSTAT of a pair (R257). -/
def mxstat (s : State) (c : Nat) : Nat :=
  let k := core s c
  k.mxflags.toNat + bankState s c 0 * 2 ^ 26 + bankState s c 1 * 2 ^ 28 + (decide (0 < mxCount k true)).toNat * 2 ^ 33 +
    mxCount k false % 8 * 2 ^ 34 + mxCount k true % 8 * 2 ^ 37

/-- A bank is left EMPTY, its residues as they are; it keeps an owner only if a pass or mxload on it is still to come (R199, R267,
R273). -/
def emptyBank (s : State) (c b : Nat) : State :=
  setBank s c b { bankAt s c b with full := false, owner := if (bankPasses s c b).isEmpty then none else (bankAt s c b).owner }

/-- The residues of a bank that is not FULL read as zeros from now on: for what is queued behind a pass or mxload that performed
nothing (DESIGN CHOICE, log 21: the spec gives such an operation no value). -/
def blankBank (s : State) (c b : Nat) : State :=
  if (bankAt s c b).full then s else setBank s c b { owner := (bankAt s c b).owner }

/-- Whether one of n cells of a bank from a first one on holds an uncorrectable error. -/
def bankBad (s : State) (c b first n : Nat) : Bool :=
  s.failing.any (fun u => decide (bankUnitAddr c b first ≤ u) && decide (u < bankUnitAddr c b (first + n)))

/-- A bank written whole holds no error (R191). -/
def clearBank (s : State) (c b : Nat) : State :=
  { s with failing := s.failing.filter (fun u => !(decide (bankUnitAddr c b 0 ≤ u) && decide (u < bankUnitAddr c b 32768))) }

/-! ### Triggers (R258 to R261, R269, R272, R275, R276) -/

/-- A fault against the trigger's slot. -/
def mxFault (s : State) (c sl cause fva : Nat) (o : Opnd) : State := slotFault s c sl cause fva ((lowest o.en).getD 0)

/-- The record or register number in aux[3:0]. -/
def recNo (o : Opnd) : Nat := (o.aux.extractLsb' 0 4).toNat

/-- A record of the group's team. -/
def recAt (s : State) (c sl i : Nat) : BitVec 128 := tget 0 (team s (group s c sl).team).ob i

/-- The state with a record of a team replaced. -/
def setRec (s : State) (t i : Nat) (r : BitVec 128) : State := modTeam s t (fun t => { t with ob := tput t.ob i r })

/-- An entry of mx that fills at c + 2. -/
def mxSimple (s : State) (c sl k : Nat) (o : Opnd) (v : Slice) : State := addTimed s c sl k 18 o 2 v

/-- The record that mxres writes (R260). -/
def newRecord (fmt off len soff var : Nat) : BitVec 128 :=
  BitVec.ofNat 128 (apertureBase + off + fmt * 2 ^ 58 + var * 2 ^ 61 + 2 ^ 63 + len * 2 ^ 64 + soff * 2 ^ 84)

/-- mxres: the checks in their order, then the record (R260). A pass that copied the old record no longer marks it. -/
def runMxres (fmt : Nat) (s : State) (c sl k : Nat) (o : Opnd) : State :=
  let tv := (uniform o.en o.t).toNat % 2 ^ 32
  let av := (uniform o.en o.a).toNat % 2 ^ 32
  let bv := (uniform o.en o.b).toNat % 2 ^ 32
  let len := av % 2 ^ 20
  let soff := bv % 2 ^ 20
  let i := recNo o
  let t := (group s c sl).team
  if 2 ^ 24 ≤ tv ∨ 2 ^ 20 ≤ av ∨ 2 ^ 21 ≤ bv ∨ len = 0 ∨ len < soff then mxFault s c sl 0x04 0 o
  else if tv % 16 ≠ 0 ∨ len % 16 ≠ 0 ∨ soff % 16 ≠ 0 then mxFault s c sl 0x08 (apertureBase + tv) o
  else if (aperture s t (apertureBase + tv) len).isNone then mxFault s c sl 0x0A (apertureBase + tv) o
  else
    let r := newRecord fmt tv len soff (bv / 2 ^ 20)
    let s := setRec s t i r
    let s := modCore s (leaderOf c) (fun x => { x with mxops := x.mxops.map (fun p =>
      if p.team = t then { p with ia := if p.ia = i then 16 else p.ia, ib := if p.ib = i then 16 else p.ib } else p) })
    mxSimple s c sl k o r

/-- An engine operation joins the pair's order, with its entry (R266). -/
def issueMx (s : State) (c sl k : Nat) (o : Opnd) (x : MxOp) : State :=
  let id := (core s c).mxnext
  let s := modCore s c (fun y => { y with
    mxnext := id + 1, mxops := y.mxops ++ [{ x with id := id, slot := sl, team := (group s c sl).team }] })
  addEntry s c sl k 18 o 0 (.mx id)

/-- A bank is claimed for the group's team (R267). -/
def claimBank (s : State) (c sl b : Nat) : State := setBank s c b { bankAt s c b with owner := some (group s c sl).team }

/-- Whether a bank belongs to another team. -/
def othersBank (s : State) (c sl b : Nat) : Bool :=
  match (bankAt s c b).owner with | some t => t != (group s c sl).team | none => false

/-- Whether a record holds too few data bytes for a pass, or too few scale bytes (R263). -/
def shortData (r : BitVec 128) (rows depth : Nat) : Bool :=
  decide (recSoff r < (depth + 15) / 16 * rows * (layoutOf (recFmt r)).1)

/-- Whether a record holds too few scale bytes (R263). -/
def shortScales (r : BitVec 128) (rows depth : Nat) : Bool :=
  let (_, bl, sb) := layoutOf (recFmt r)
  decide (recLen r - recSoff r < rows * (if bl = 0 then 0 else (depth + bl - 1) / bl) * sb)

/-- mxpass (R269) -/
def runMxpass (s : State) (c sl k : Nat) (o : Opnd) : State :=
  let tv := (uniform o.en o.t).toNat % 2 ^ 32
  let depth := tv % 2 ^ 16 + 1
  let ib := tv / 2 ^ 16 % 16
  let b := tv / 2 ^ 20 % 2
  let ra := recAt s c sl (recNo o)
  let rb := recAt s c sl ib
  let nat := nativeOf (recFmt ra)
  if leaderOf c ≠ c ∨ 2 ^ 25 ≤ tv ∨ !ra.getLsbD 63 ∨ !rb.getLsbD 63 ∨ nat ≠ nativeOf (recFmt rb) ∨ (spanOf nat).2 < depth ∨
      shortData ra 128 depth ∨ shortData rb 256 depth ∨ othersBank s c sl b then mxFault s c sl 0x04 0 o
  else if shortScales ra 128 depth ∨ shortScales rb 256 depth then mxFault s c sl 0x0C 0 o
  else
    let n := placeOf s c sl
    issueMx (claimBank s c sl b) c sl k o
      { id := 0, kind := .pass, slot := 0, team := 0, bank := b, fmt := nat, reca := ra, recb := rb, ia := recNo o, ib := ib
        cop := (team s (group s c sl).team).cop, depth := depth, seq := n }

/-- Whether a format refuses a mode (R57, R59). -/
def modeRefused (mode f : Nat) : Bool := mode != 4 && (mode == 3) != cplxFmt f

/-- The rows that a drain leases (R272, R274). A raw drain of a bank whose format is not known yet leases what a complex one takes, as
far as the group's rows go (DEDUCED, log 21). -/
def drainLease (mode f n room : Nat) : Nat :=
  if f = unknownFmt ∧ mode = 4 then min (n * 8) room else n * drainRpt mode (cplxFmt f)

/-- mxdrain and mxdrain.acc (R59, R272): the rows are leased from the issue (R274). A format that is not known yet refuses no mode:
the drain is checked against it when it starts (DEDUCED, log 21). -/
def runMxdrain (mode : Nat) (acc : Bool) (s : State) (c sl k : Nat) (o : Opnd) : State :=
  let tv := (uniform o.en o.t).toNat % 2 ^ 32
  let i0 := tv % 128
  let n := tv / 2 ^ 7 % 128 + 1
  let d := tv / 2 ^ 14 % 64
  let b := tv / 2 ^ 20 % 2
  let g := group s c sl
  match (if leaderOf c ≠ c then none else lastFmt s c b) with
  | none => mxFault s c sl 0x04 0 o
  | some f =>
    let rpt := drainRpt mode (cplxFmt f)
    if 2 ^ 22 ≤ tv ∨ 128 < i0 + n ∨ g.vrows < d + n * rpt ∨ (f ≠ unknownFmt ∧ modeRefused mode f = true) ∨ othersBank s c sl b then
      mxFault s c sl 0x04 0 o
    else
      let rows := drainLease mode f n (g.vrows - d)
      let id := (core s c).mxnext
      let s := issueMx s c sl k o
        { id := 0, kind := .drain, slot := 0, team := 0, bank := b, fmt := f, mode := mode, acc := acc
          t := BitVec.ofNat 32 tv, row0 := g.vbase + d, rows := rows, seq := placeOf s c sl }
      modCore s c (fun x => { x with leases := x.leases ++ (List.range rows).map (fun r => (g.vbase + d + r, id)) })

/-- The elements of an mxsave and an mxload: every line of the image. -/
def lineElems (va n : Nat) : List Elem := (List.range (n / 64)).map (fun i => { lane := 0, off := 0, len := 64, va := va + 64 * i })

/-- mxsave and mxload (R275): the checks, the translation (R222), then the operation. The format of an mxload is its header's when it
starts; the operations behind it take the header as it stands, if its page is present (log 21). -/
def runMxio (save : Bool) (s : State) (c sl k : Nat) (o : Opnd) : State :=
  let va := (uniform o.en o.t).toNat % 2 ^ 52
  let b := (uniform o.en o.a).toNat % 2
  let g := group s c sl
  let f := lastFmt s c b
  if leaderOf c ≠ c ∨ othersBank s c sl b ∨ (save ∧ f.isNone) then mxFault s c sl 0x04 0 o
  else if va % 64 ≠ 0 then mxFault s c sl 0x08 va o
  else
    let n := placeOf s c sl
    let a : Access :=
      { kind := if save then .mxsave else .mxload, seq := n, part := g.part, priv := g.hmode
        elems := lineElems va (imageBytes (save && cplxFmt (f.getD 0))) }
    let add (s : State) (a : Access) : State :=
      let s := if save then s else claimBank s c sl b
      issueMx s c sl k o
        { id := 0, kind := if save then .save else .load, slot := 0, team := 0, bank := b, access := some a, seq := n
          fmt := if save then f.getD 0 else unknownFmt }
    match decideAccess s c g.team a true with
    | .ready a' => add (fillWalks s c a) a'
    | .fault cz v _ => mxFault (leaseEvent (fillWalks s c a) c g.part cz) c sl cz v o
    | .park key v => parkAccess (add (fillWalks s c a) { a with stat := .parked key v }) c (.entry c sl 18 false n) key v (originOf c sl) 0 a.kind
    | .walks => s

/-- mxres (R260) -/
def execMxMxres (t : Trig) (s : State) : Host.Outcome State Fault Refusal :=
  .next (runTrig (.mxMxres t) .mx t s (fun s c sl k o => runMxres t.typ.toNat s c sl k o))

/-- mxrel (R261) -/
def execMxMxrel (t : Trig) (s : State) : Host.Outcome State Fault Refusal :=
  .next (runTrig (.mxMxrel t) .mx t s (fun s c sl k o =>
    mxSimple (setRec s (group s c sl).team (recNo o) (recAt s c sl (recNo o) &&& ~~~(1#128 <<< 63))) c sl k o 0))

/-- mxcop (R255, R261) -/
def execMxMxcop (t : Trig) (s : State) : Host.Outcome State Fault Refusal :=
  .next (runTrig (.mxMxcop t) .mx t s (fun s c sl k o =>
    mxSimple (modTeam s (group s c sl).team (fun x => { x with cop := uniform o.en o.t })) c sl k o 0))

/-- mxpass (R269) -/
def execMxMxpass (t : Trig) (s : State) : Host.Outcome State Fault Refusal :=
  .next (runTrig (.mxMxpass t) .mx t s runMxpass)

/-- mxdrain (R272) -/
def execMxMxdrain (t : Trig) (s : State) : Host.Outcome State Fault Refusal :=
  .next (runTrig (.mxMxdrain t) .mx t s (runMxdrain t.typ.toNat false))

/-- mxdrain.acc (R59, R272) -/
def execMxMxdrainAcc (t : Trig) (s : State) : Host.Outcome State Fault Refusal :=
  .next (runTrig (.mxMxdrainAcc t) .mx t s (runMxdrain t.typ.toNat true))

/-- mxsave (R275) -/
def execMxMxsave (t : Trig) (s : State) : Host.Outcome State Fault Refusal :=
  .next (runTrig (.mxMxsave t) .mx t s (runMxio true))

/-- mxload (R275) -/
def execMxMxload (t : Trig) (s : State) : Host.Outcome State Fault Refusal :=
  .next (runTrig (.mxMxload t) .mx t s (runMxio false))

/-- mxstat (R276): .st, .clr and .ob. -/
def execMxMxstat (t : Trig) (s : State) : Host.Outcome State Fault Refusal :=
  .next (runTrig (.mxMxstat t) .mx t s (fun s c sl k o =>
    if t.typ = 2 then mxSimple s c sl k o (recAt s c sl (recNo o))
    else
      let v := BitVec.ofNat 128 (mxstat s (leaderOf c))
      mxSimple (if t.typ = 1 then modCore s (leaderOf c) (fun x => { x with mxflags := x.mxflags &&& 0x60 }) else s) c sl k o v))

/-! ### The engine at work (R266, R269 to R275; selection: the leader core) -/

/-- The operations of a team that are withdrawn at a save, in order, and those that run on (R277): passes and loads that have
not started, operations parked on a fault, and what follows them on their bank. -/
def withdrawn (s : State) (c tid : Nat) : List MxOp × List MxOp :=
  let parkedOp (o : MxOp) : Bool := match o.access with | some a => (match a.stat with | .parked _ _ => true | _ => false) | none => false
  let (a, b, _) := ((core s (leaderOf c)).mxops.filter (fun o => o.team == tid)).foldl
    (fun (p : List MxOp × List MxOp × List Nat) o =>
      if (o.isPass && !o.started) || parkedOp o || p.2.2.contains o.bank then (p.1 ++ [o], p.2.1, o.bank :: p.2.2)
      else (p.1, p.2.1 ++ [o], p.2.2)) ([], [], [])
  (a, b)

/-- The operations of the teams of a pair that are being saved, as far as they are withdrawn: they are performed no more (R277). -/
def withdrawnOps (s : State) (c : Nat) : List Nat :=
  (distinct ((core s c).mxops.map (·.team))).flatMap (fun tid =>
    if (team s tid).saveFor = 0 then [] else (withdrawn s c tid).1.map (·.id))

/-- The operation that is next among passes and mxloads (pass) or drains and mxsaves, if it has not started and every
earlier one on its bank has retired (R266). One that is withdrawn for a save keeps none (R277). -/
def nextMx (s : State) (c : Nat) (pass : Bool) : Option MxOp :=
  let out := withdrawnOps s c
  let ops := (core s c).mxops.filter (fun o => !out.contains o.id)
  match ops.find? (fun o => o.isPass == pass) with
  | none => none
  | some o => if o.started || ops.any (fun p => decide (p.id < o.id) && p.bank == o.bank) then none else some o

/-- The started operation of a kind whose last cycle is reached. -/
def dueMx (s : State) (c : Nat) (kind : MxKind) : Option MxOp :=
  (core s c).mxops.find? (fun o => o.kind == kind && o.started && decide (o.due ≤ cycleOf s c))

/-- The state with an operation replaced. -/
def putMx (s : State) (c : Nat) (o : MxOp) : State :=
  modCore s c (fun k => { k with mxops := k.mxops.map (fun p => if p.id = o.id then o else p) })

/-- An operation retires: it leaves the pair's order. -/
def removeMx (s : State) (c id : Nat) : State :=
  modCore s c (fun k => { k with mxops := k.mxops.filter (fun p => p.id != id), leases := k.leases.filter (fun l => l.2 != id) })

/-- The place of an operation's entry. -/
def mxEntry (s : State) (c : Nat) (o : MxOp) : Option Nat :=
  (portOf (group s c o.slot) false 18).q.findIdx? (fun e => e.pend == .mx o.id)

/-- The entry of an operation fills. -/
def fillMx (s : State) (c : Nat) (o : MxOp) (v : Nat) : State :=
  match mxEntry s c o with
  | some i => modGroup s c o.slot (fun g => fillEntry g (cycleOf s c) false 18 i (splat (BitVec.ofNat 128 v)))
  | none => s

/-- Whether an operation of the engine still waits for its turn or its start: nothing of it has been sent (R250, R266, R407). -/
def mxWaits (s : State) (c : Nat) (o : MxOp) : Bool :=
  !o.started && ((nextMx s c o.isPass).map (·.id) != some o.id ||
    (o.isPass && !startReady s c (some (o.slot, o.seq)) 0))

/-- An operation performs nothing: it leaves the order, its entry is removed, and its group takes a kind-D fault. -/
def failMx (s : State) (c : Nat) (o : MxOp) (cause fva : Nat) : State :=
  let s' := removeMx s c o.id
  match mxEntry s c o with
  | some i =>
    let at_ := ((entryAt (group s c o.slot) false 18 i).map (·.addr)).getD 0
    postLate (modGroup s' c o.slot (fun g => dropEntry g false 18 i)) c o.slot (dFault cause fva 18 at_)
  | none => s'

/-- What a pass computes from what it has read (R55, R263, R264). -/
def computePass (o : MxOp) : MxOp :=
  let as := passBlocks o 0
  let bs := passBlocks o 1
  let cplx := cplxFmt o.fmt
  let ref := cmaxOf cplx as bs o.depth - ((spanOf o.fmt).1 : Int)
  let (cells, span) := passCells cplx o.cop ref o.depth as bs
  let loss (t : List (List Blk)) : Bool := t.any (fun r => r.any (·.loss))
  { o with
    res := cells, ref := ref, span := span, bad := !o.badAt.isEmpty, aloss := loss as || loss bs
    events := BitVec.ofNat 4 ((loss as).toNat + 2 * (loss bs).toNat) }

/-- MX_PASS_START (R250, R266, R270, R271). Selection: the leader core; or with 1 or 2 after it, one element of operand A or B of
the running pass (its block and number, 16 for a scale entry), which the pass reads only now (R208, R279). -/
def execMxPassStart (s : State) : Host.Outcome State Fault Refusal :=
  let c := selAt s 0
  let side := selAt s 1
  if side ≠ 0 then
    match (core s c).mxops.find? (fun o => o.kind == .pass && o.started) with
    | some o => .next (putMx s c (readLate s o ((side - 1) % 2) (selAt s 2) (selAt s 3 % 17)))
    | none => .next s
  else
    match nextMx s c true with
    | some o =>
      if o.kind = .pass ∧ startReady s c (some (o.slot, o.seq)) 0 then
        let (scan, steps) := passCycles o.fmt o.depth
        .next (putMx s c { readOperand s 1 (readOperand s 0 o) with started := true, due := cycleOf s c + scan + steps + 39 })
      else .next s
    | none => .next s

/-- The partition of a pass whose array steps fall in the current cycle of its leader core, if there is one (R271, R385): after the
scan, up to 39 cycles before its last one. -/
def stepping (s : State) (c : Nat) : Option Nat :=
  ((core s c).mxops.find? (fun o =>
    o.kind == .pass && o.started && decide (o.due ≤ cycleOf s c + 39 + (passCycles o.fmt o.depth).2) &&
      decide (cycleOf s c + 39 < o.due))).map (fun o => (group s c o.slot).part)

/-- SPANFL of the current tile of a bank shows in MXSTAT (R257). -/
def showSpan (s : State) (c b : Nat) (span : Bool) : State :=
  let bit : BitVec 9 := 0x20#9 <<< b
  modCore s c (fun k => { k with mxflags := (k.mxflags &&& ~~~bit) ||| (if span then bit else 0) })

/-- A bank takes a result (R270, R275), which covers any failing unit of it. -/
def loadBank (s : State) (c : Nat) (o : MxOp) : State :=
  let s := setBank s c o.bank
    { bankAt s c o.bank with full := true, fmt := o.fmt, ref := o.ref, spanfl := o.span, cells := o.res }
  modCore (showSpan (clearBank s c o.bank) c o.bank o.span) c (fun k => { k with tl := k.tl + 1 })

/-- A record that a pass imported through with loss is marked, if it has not been replaced (R260, R263). -/
def markLoss (s : State) (o : MxOp) (i : Nat) (loss : Bool) : State :=
  if loss && decide (i < 16) then setRec s o.team i (tget 0 (team s o.team).ob i ||| (1#128 <<< 62)) else s

/-- The operation of a kind that retires now: at the end of its cycle, after the issue of both cores of the pair (R271, R273,
R275). -/
def retiringMx (s : State) (c : Nat) (kind : MxKind) : Option MxOp :=
  if issueOver s c && issueOver s (c + 1) then dueMx s c kind else none

/-- The end of the cycle has come for both cores of a pair. -/
def closePair (s : State) (c : Nat) : State :=
  modCore (modCore s c (fun k => { k with closed := true })) (c + 1) (fun k => { k with closed := true })

/-- MX_PASS_RETIRE (R270, R278) -/
def execMxPassRetire (s : State) : Host.Outcome State Fault Refusal :=
  let c := selAt s 0
  match (retiringMx s c .pass).map computePass with
  | none => .next s
  | some o =>
    let s := closePair s c
    if o.bad then .next (blankBank (failMx s c o 0x19 (recBase o.reca)) c o.bank)
    else
      let s := loadBank (removeMx s c o.id) c o
      let s := modCore s c (fun k => { k with
        mxflags := k.mxflags ||| (if o.span then 0x80 else 0) ||| (if o.aloss then 0x100 else 0) })
      let s := markLoss (markLoss s o o.ia (o.events.getLsbD 0)) o o.ib (o.events.getLsbD 1)
      .next (fillMx s c o ((core s c).tl.toNat + o.span.toNat * 2 ^ 64 + (o.res.any (fun x => x.2.nan)).toNat * 2 ^ 65 +
        o.aloss.toNat * 2 ^ 66))

/-- A drain whose bank stands starts: its rows follow the bank's format. A mode that the format of a loaded image refuses, or rows
beyond the group's, fault now, as kind D (DEDUCED, log 21). -/
def startDrain (s : State) (c : Nat) (o : MxOp) : State :=
  let bk := bankAt s c o.bank
  let f := if bk.full then bk.fmt else o.fmt
  let rows := (o.t.toNat / 2 ^ 7 % 128 + 1) * drainRpt o.mode (cplxFmt f)
  if modeRefused o.mode f || decide ((group s c o.slot).vbase + (group s c o.slot).vrows < o.row0 + rows) then failMx s c o 0x04 0
  else
    modCore (putMx s c { o with fmt := f, rows := rows, started := true, due := cycleOf s c + rows + 15 }) c (fun k => { k with
      leases := k.leases.filter (fun l => l.2 != o.id) ++ (List.range rows).map (fun r => (o.row0 + r, o.id)) })

/-- MX_DRAIN_START (R266, R273) -/
def execMxDrainStart (s : State) : Host.Outcome State Fault Refusal :=
  let c := selAt s 0
  match nextMx s c false with
  | some o => if o.kind = .drain then .next (startDrain s c o) else .next s
  | none => .next s

/-- The rows of a drain written, and its events (R57, R59, R272). -/
def drainRows (s : State) (c : Nat) (o : MxOp) : State × BitVec 4 :=
  let bk := bankAt s c o.bank
  let rpt := drainRpt o.mode (cplxFmt o.fmt)
  (List.range o.rows).foldl (fun (p : State × BitVec 4) r =>
    let row := o.row0 + r
    let (v, ev) := drainRow bk o.mode o.acc (o.t.toNat % 128 + r / rpt) (r % rpt) (tget 0 (core p.1 c).acc row)
    (modCore (clearSlices p.1 c row (BitVec.allOnes 32)) c (fun k => { k with acc := tput k.acc row v }), p.2 ||| ev)) (s, 0)

/-- Whether a drain needs data that holds an uncorrectable error: the cells of its tile rows, and for mxdrain.acc the rows that it
adds to (R191, R278). -/
def drainBad (s : State) (c : Nat) (o : MxOp) : Bool :=
  bankBad s c o.bank (256 * (o.t.toNat % 128)) (256 * (o.t.toNat / 128 % 128 + 1)) ||
    (o.acc && (List.range o.rows).any (fun r => failingAt s (rowAddr c (o.row0 + r)) 512))

/-- MX_DRAIN_RETIRE (R273, R274, R278) -/
def execMxDrainRetire (s : State) : Host.Outcome State Fault Refusal :=
  let c := selAt s 0
  match retiringMx s c .drain with
  | none => .next s
  | some o =>
    let s := closePair s c
    if drainBad s c o then .next (failMx s c o 0x19 0)
    else
      let (s, ev) := drainRows (removeMx s c o.id) c o
      let s := countEvent s c 0xB (some (group s c o.slot).part) o.rows
      let s := modCore s c (fun k => { k with mxflags := k.mxflags ||| ev.setWidth 9 })
      let s := if o.t.getLsbD 21 then emptyBank s c o.bank else s
      .next (fillMx s c o ev.toNat)

/-- The bytes of an image that an mxsave writes through pages of a PROP (R275). -/
def saveCells (bk : Bank) (a : Access) (prop : Bool) : List Host.Cell :=
  let va := ((a.elems.head?).map (·.va)).getD 0
  (a.elems.filter (fun e => e.attr.prop == prop && decide (e.va - va < imageBytes (cplxFmt bk.fmt)))).flatMap (fun e =>
    (List.range 8).flatMap (fun i => leCells (e.pa + 8 * i) 8 (imageWord bk ((e.va - va) / 8 + i))))

/-- An image of which more is to be translated, because its format was not known at its issue: the operation goes on with the whole of
it, faults as kind D, or parks (R222, R339; DEDUCED, log 21). -/
def widenImage (s : State) (c : Nat) (o : MxOp) (a : Access) : State :=
  let va := ((a.elems.head?).map (·.va)).getD 0
  let full := { a with stat := .walking, elems := lineElems va (imageBytes true) }
  match decideAccess s c o.team full true with
  | .ready a' => putMx (fillWalks s c full) c { o with access := some a' }
  | .fault cz v _ => failMx (fillWalks s c full) c o cz v
  | .park k v =>
    parkAccess (putMx (fillWalks s c full) c { o with access := some { full with stat := .parked k v } }) c
      (.entry c o.slot 18 false o.seq) k v (originOf c o.slot) 0 a.kind
  | .walks => s

/-- MXSAVE_START (R219, R220, R275): every line of the image is written. -/
def execMxsaveStart (s : State) : Host.Outcome State Fault Refusal :=
  let c := selAt s 0
  match nextMx s c false with
  | some o =>
    (match o.kind, o.access with
      | .save, some a =>
        let bk := bankAt s c o.bank
        if a.stat == .ready && orderOk s c o.slot a && !unanswered s c a.sent (a.elems.map (·.pa)) then
          if bankBad s c o.bank 0 32768 then .next (failMx s c o 0x19 0)
          else if a.elems.length < imageBytes (cplxFmt bk.fmt) / 64 then .next (widenImage s c o a)
          else
            let (s1, w1) := performWrite s (some c) none (dieOf c) false (saveCells bk a false)
            let (s2, w2) := performWrite s1 (some c) none (dieOf c) true (saveCells bk a true)
            let w := tmax w1 w2
            .next (fillMx (raisePwt (removeMx s2 c o.id) c o.slot w) c o w.toNat)
        else .next s
      | _, _ => .next s)
  | none => .next s

/-- The cells of an image that are not 0 (R58, R275). -/
def imageCells (s : State) (c : Nat) (a : Access) (cplx : Bool) : Tbl Cell :=
  let va := ((a.elems.head?).map (·.va)).getD 0
  cellsOf (fun n => physRead s (some c) (imageAddr a (va + 64 + 8 * n)) 8) cplx

/-- An mxload that performs nothing: its bank is left EMPTY (R275). -/
def refuseLoad (s : State) (c : Nat) (o : MxOp) (cause fva : Nat) : State :=
  blankBank (emptyBank (failMx s c o cause fva) c o.bank) c o.bank

/-- An mxload whose whole image is translated starts (R275): its data is read, and an uncorrectable error in it shows at the
retirement (R191, R278). DESIGN CHOICE (log 11): the whole image is read in this one step, where the spec spreads its reads over the
cycles up to the retirement and does not say what a line that is stored meanwhile reads as. -/
def startLoad (s : State) (c : Nat) (o : MxOp) (a : Access) (head : Nat) : State :=
  let cplx := cplxFmt (head % 8)
  let va := ((a.elems.head?).map (·.va)).getD 0
  let bad := (List.range (imageBytes cplx / 64)).any (fun i => readFails s (imageAddr a (va + 64 * i)) 64)
  putMx { s with fresh := s.fresh + 1 } c { o with
    access := some { a with sent := coreTime s c }, started := true
    due := cycleOf s c + (imageBytes cplx - 64) / 64 + 40, fmt := head % 8
    ref := imageRef (head % 8) (head / 8 % 512), span := head.testBit 12, bad := bad, res := imageCells s c a cplx }

/-- MXLOAD_START (R250, R275): the header is read; a complex image's further pages are translated now (log 21). -/
def execMxloadStart (s : State) : Host.Outcome State Fault Refusal :=
  let c := selAt s 0
  match nextMx s c true with
  | some o =>
    (match o.kind, o.access with
      | .load, some a =>
        if a.stat == .ready && startReady s c (some (o.slot, o.seq)) 0 && !(a.elems.any (fun e => planeDown s e.pa)) then
          let va := ((a.elems.head?).map (·.va)).getD 0
          let head := imageHead s c a
          if readFails s (imageAddr a va) 64 then .next (startLoad s c o a 0)
          else if 4 < head % 8 ∨ head / 2 ^ 13 ≠ 0 then .next (refuseLoad s c o 0x04 va)
          else if cplxFmt (head % 8) then
            let full := { a with stat := .walking, elems := lineElems va (imageBytes true) }
            (match decideAccess s c o.team full true with
              | .ready a' => .next (startLoad (fillWalks s c full) c o a' head)
              | .fault cz v _ => .next (refuseLoad (fillWalks s c full) c o cz v)
              | .park k v =>
                .next (parkAccess (putMx (fillWalks s c full) c { o with access := some { full with stat := .parked k v } }) c
                  (.entry c o.slot 18 false o.seq) k v (originOf c o.slot) 0 .mxload)
              | .walks => .next s)
          else .next (startLoad s c o a head)
        else .next s
      | _, _ => .next s)
  | none => .next s

/-- MXLOAD_RETIRE (R275, R278) -/
def execMxloadRetire (s : State) : Host.Outcome State Fault Refusal :=
  let c := selAt s 0
  match retiringMx s c .load with
  | none => .next s
  | some o =>
    let s := closePair s c
    if o.bad then .next (blankBank (failMx s c o 0x19 0) c o.bank)
    else
      let s := loadBank (removeMx s c o.id) c o
      .next (fillMx s c o (core s c).tl.toNat)

end Sys2Proof.Machine
end

