-- ==== Sys2Proof/Machine/Modes.lean ====
section
/-! DEFINITION. The modes in force of the firmware functions (R365, R421, R422, R430). -/

namespace Sys2Proof.Machine

/-- The firmware functions with a mode of their own, in the order of MODETAB (R421). -/
inductive Func where
  | sched | fault | fabric | thermal
  deriving DecidableEq, Repr

/-- The place of a function's field in MODETAB. -/
def Func.code : Func → Nat
  | .sched => 0 | .fault => 1 | .fabric => 2 | .thermal => 3

/-- The Newt that carries a function, for a die (R418, R419). -/
def newtOf (f : Func) (d : Nat) : Nat := match f with | .sched | .fault => d | .fabric => 9 | .thermal => 8

/-- The Newt that a Molt works on (R430, R432). -/
def moltNewt (m : Molt) : Nat := if m.func = 0 then m.die else if m.func = 1 then 8 else 9

/-- Whether hardware mode holds on a Newt: a heartbeat failure, or a Molt state from QUIESCE on but COMMIT (R420, R430). -/
def hwHeld (s : State) (n : Nat) : Bool :=
  (tget {} s.pkg.newts n).failed || (tget {} s.pkg.newts n).waiting ||
    (moltNewt s.pkg.molt == n && ((decide (3 ≤ s.pkg.molt.step) && decide (s.pkg.molt.step ≤ 9)) || s.pkg.molt.step == 11))

/-- The mode in force: 0 Newt, 1 hardware, 2 host-assisted (R421, R422). -/
def modeOf (s : State) (f : Func) (d : Nat) : Nat :=
  let n := newtOf f d
  let cfg := ((tget 0 s.pkg.taken n).extractLsb' (2 * f.code) 2).toNat
  if cfg ≠ 0 then cfg else if hwHeld s n then 1 else 0

/-- The highest mode code of a function on any scheduler Newt (R421). -/
def modeAny (s : State) (f : Func) : Nat := (List.range 8).foldl (fun m d => max m (modeOf s f d)) 0

/-- MODETAB as it reads (R421). -/
def modetabRead (s : State) : Nat :=
  s.pkg.modetab.toNat % 256 + modeAny s .sched * 2 ^ 8 + modeAny s .fault * 2 ^ 10 + modeOf s .fabric 0 * 2 ^ 12 + modeOf s .thermal 0 * 2 ^ 14

/-- MOLTSTAT as it reads (R429). -/
def moltstat (s : State) : Nat :=
  s.pkg.molt.step % 16 * 2 ^ 8 + s.pkg.molt.err.toNat * 2 ^ 16 + s.pkg.molt.die % 256 * 2 ^ 24 + s.pkg.molt.ver.toNat * 2 ^ 32

/-- MODEDIE: the dies whose scheduler and fault service are in hardware mode (R421). -/
def modeDie (s : State) : Nat :=
  ((List.range 8).map (fun d => if modeOf s .sched d = 1 ∧ modeOf s .fault d = 1 then 2 ^ d else 0)).sum

/-- A partition is enabled once its quotas are set (R351). -/
def partEnabled (s : State) (p : Nat) : Bool := (part s p).pquota != 0

/-- Whether a write of MODETAB is held: a Molt or a repair is active (R422). -/
def modesHeld (s : State) : Bool := s.pkg.molt.step != 0 || s.pkg.molt.repairing.isSome

/-- Whether a Molt, a repair or a bring-up is active (R429). -/
def moltActive (s : State) : Bool := s.pkg.molt.step != 0 || s.pkg.molt.repairing.isSome || s.pkg.molt.bringup

/-- MGBUSY: requests to the management Newt are held (R433). -/
def mgBusy (s : State) : Bool := s.pkg.molt.func == 1 && s.pkg.molt.step != 0

/-- A request to the management Newt is held with what the host handed in (R433). -/
def holdRequest (s : State) (i : Instr) : State := modPkg s (fun k => { k with mgHeld := k.mgHeld ++ [(encode i, s.sel)] })

end Sys2Proof.Machine
end

