-- ==== Sys2Proof/Machine/Queues.lean ====
section
/-! DEFINITION. Rings of the device, tenant events, launch records, finishing a record, and the ln operations
(R302 to R319, R326, R349, R403, R404). -/

namespace Sys2Proof.Machine

/-! ### Partitions and waiting dispatchers (R351, R357) -/

/-- DIEMASK of a partition. -/
def dieMask (s : State) (p : Nat) : BitVec 8 := (part s p).pquota.extractLsb' 21 8

/-- Whether a partition may use a die that is in service. -/
def dieAllowed (s : State) (p d : Nat) : Bool := (dieMask s p).getLsbD d && dieUp s d

/-- Whether a dispatcher that waits scans its candidates again after a partition's resources have been freed on a die (R357). -/
def wakesFor (s : State) (f d : Nat) (p : Placing) : Bool :=
  dieAllowed s p.src.part d && (p.wait == .resource || (p.wait == .quota && p.src.part == f))

/-- The dispatchers that some selection of records concerns scan their candidates again. -/
def rescanFor (s : State) (sel : Placing → Bool) : State :=
  { s with dies := s.dies.map (fun q => (q.1, { q.2 with held := q.2.held.map (fun p => if sel p then { p with rescan := true } else p) })) }

/-- A cycle of a core ends: what was freed in it counts from now on (R357). -/
def endFreed (s : State) (c : Nat) : State :=
  let fs := (core s c).freed
  modCore (rescanFor s (fun p => fs.any (fun f => wakesFor s f.part (dieOf c) p))) c (fun k => { k with freed := [] })

/-! ### Adds by the device (R305, R318) -/

/-- Whether n bytes hold a hidden write: an atomic waits for it (R241). -/
def hiddenIn (s : State) (a n : Nat) : Bool := (List.range n).any (fun i => hiddenAt s (a + i))

/-- Whether an add at a virtual address waits for a hidden write there (R241). -/
def addWaits (s : State) (d p va : Nat) : Bool :=
  va % 8 == 0 && (match devAddr s d p va true with | some (pa, _) => hiddenIn s pa 8 | none => false)

/-- An atomic 64-bit add by the device at a virtual address (R215, R305, R318): the state and the new value, or none where
no add takes place. -/
def devAdd (s : State) (d p va : Nat) (x : BitVec 64) : Option (State × Nat) :=
  if va % 8 ≠ 0 then none
  else
    match devAddr s d p va true with
    | none => none
    | some (pa, attr) =>
      if readFails s pa 8 then none
      else
        let v := (latestRead s pa 8 + x.toNat) % 2 ^ 64
        some ((devWrite s d attr.prop pa 8 v).1, v)

/-! ### Rings whose producer is the device (R303, R319, R325, R326) -/

/-- The key of a partition's completion posting queue, of its tenant event queue, and of the slip log. -/
def postKey (p : Nat) : Nat := p
def eventKey (p : Nat) : Nat := 8 + p
def slipKey : Nat := 16

/-- An entry of 32 bytes to a ring: written, or dropped and counted, or discarded where no BASE is set (R303). The flag says
that this is the first loss of a run; the tick is the W of the entry, or 0. -/
def ringPost (s : State) (key d v : Nat) : State × Bool × BitVec 64 :=
  let r := tget {} s.rings key
  match r.base with
  | none => (s, false, 0)
  | some b =>
    if r.pi.toNat - r.ci.toNat = r.n then
      let lost := if r.lost = BitVec.allOnes 32 then r.lost else r.lost + 1
      ({ s with rings := tput s.rings key { r with lost := lost, losing := true } }, !r.losing, 0)
    else
      let (s, w) := devWrite s d true (b + r.pi.toNat % r.n * 32) 32 v
      ({ s with rings := tput s.rings key { r with pi := r.pi + 1 } }, false, w)

/-- An event for a partition (R326): its kind and detail. -/
def postEvent (s : State) (p d kind detail : Nat) : State :=
  (ringPost s (eventKey p) d (kind + (gtime s d).toNat * 2 ^ 64 + detail % 2 ^ 128 * 2 ^ 128)).1

/-- An event for every enabled partition. -/
def postAll (s : State) (d kind detail : Nat) : State :=
  ((List.range 8).filter (partEnabled s)).foldl (fun s p => postEvent s p d kind detail) s

/-- An entry to a posting queue or the slip log, with the event of a first loss (kind 6), and the W of the entry. -/
def postRing (s : State) (key p d v : Nat) : State × BitVec 64 :=
  let (s, first, w) := ringPost s key d v
  (if first then postEvent s p d 6 ((tget {} s.rings key).lost.toNat + (if key = slipKey then 1 else 0) * 2 ^ 32) else s, w)

/-! ### Finishing a record (R308, R318, R319, R403, R404) -/

/-- The status word of a record (R308). -/
def statusWord (s : State) (d status : Nat) : Nat := status + (gtime s d).toNat % 2 ^ 56 * 2 ^ 8

/-- Where host memory stands among the cells: region 0x1 for the addresses that a device access reaches (R201), and beyond all
regions for the 64-bit addresses above them that UITAB names (R403, R404). -/
def hostAddr (a : Nat) : Nat := if a < 2 ^ 48 then 2 ^ 48 + a else 2 ^ 64 + a % 2 ^ 64

/-- A word of host memory. -/
def hostWord (s : State) (a n : Nat) : Nat := leNat ((List.range n).map (fun i => memByte s.mem (hostAddr a + i)))

/-- A word of host memory written. -/
def putHost (s : State) (a n v : Nat) : State := { s with mem := memPuts s.mem (leCells (hostAddr a) n v) }

/-- Whether a host link is up (R436). -/
def linkUp (s : State) (l : Nat) : Bool := decide (l < 2) && (l == 0 || !s.pkg.capmask.getLsbD 39)

/-- The user-level interrupt of a host target (R404): PCOUNT rises by 1, and the doorbell is written or an MSI-X sent. A link that
is down carries nothing (R436). -/
def userInterrupt (s : State) (p : Nat) (target : BitVec 64) : State :=
  let link := target.toNat / 2 ^ 16 % 256
  let vec := target.toNat % 2 ^ 16
  let e : BitVec 256 := tget 0 s.pkg.uitab (link * 4096 + vec)
  if !linkUp s link then s
  else if !e.getLsbD 0 || (e.extractLsb' 1 3).toNat != p then
    modPkg s (fun k =>
      let n : BitVec 32 := tget 0 k.uierr link
      { k with uierr := tput k.uierr link (if n = BitVec.allOnes 32 then n else n + 1) })
  else
    let da := (e.extractLsb' 192 64).toNat
    let old : BitVec 64 := BitVec.ofNat 64 (hostWord s da 8)
    let new : BitVec 64 := old.extractLsb' 32 32 ++ (old.extractLsb' 0 32 + 1)
    let s := putHost s da 8 new.toNat
    if old.getLsbD 32 then
      let ua := (e.extractLsb' 128 64).toNat
      let s := putHost s ua 4 vec
      { s with out := s.out ++ [.doorbell link ua vec] }
    else { s with out := s.out ++ [.msix link (e.extractLsb' 32 16).toNat] }

/-- Whether a posting has reached its W (R404). -/
def noticeDue (s : State) (n : Notice) : Bool := decide (n.w.toNat ≤ (gtime s n.die).toNat)

/-- The interrupts whose posting entries have reached their W are raised, oldest first (R404). -/
def raiseNotices (s : State) : State :=
  let due := s.pkg.notices.filter (noticeDue s)
  let s := modPkg s (fun k => { k with notices := k.notices.filter (fun n => !noticeDue s n) })
  due.foldl (fun s n => userInterrupt s n.part n.target) s

/-- Steps 3 to 5 of R318 for a record whose status word is written: counter, posting, interrupt. -/
def finishAdd (s : State) (f : Finish) : State :=
  let (s, v) :=
    if f.lr.counter = 0 then (s, 0)
    else
      match devAdd s f.die f.part f.lr.counter f.lr.incr with
      | some (s, v) => (s, v)
      | none => (postEvent s f.part f.die 8 (f.lr.counter + f.rcd * 2 ^ 64), 0)
  if f.lr.flags.getLsbD 2 then
    let (s, w) := postRing s (postKey f.part) f.part f.die ((gtime s f.die).toNat + f.rcd * 2 ^ 64 + f.word * 2 ^ 128 + v * 2 ^ 192)
    raiseNotices (modPkg s (fun k => { k with notices := k.notices ++ [{ part := f.part, target := f.lr.target, die := f.die, w := w }] }))
  else s

/-- The add of a record, and what follows it, wait while the counter holds a hidden write (R241). -/
def finishNext (s : State) (f : Finish) : State :=
  if f.lr.counter ≠ 0 ∧ addWaits s f.die f.part f.lr.counter then modPkg s (fun k => { k with finishes := k.finishes ++ [f] })
  else finishAdd s f

/-- The adds that waited go on, oldest first. -/
def resumeFinishes (s : State) : State := s.pkg.finishes.foldl finishNext (modPkg s (fun k => { k with finishes := [] }))

/-- Steps 2 to 5 of R318 for a record that a partition's queue or group named: status word, counter, posting, interrupt. -/
def finishRecord (s : State) (d p rcd : Nat) (r : LaunchRec) (status : Nat) : State :=
  let word := statusWord s d status
  let s := match devAddr s d p (rcd + 112) true with
    | some (pa, attr) => if regionOf pa = 0 then (devWrite s d attr.prop pa 8 word).1 else s
    | none => s
  finishNext s { die := d, part := p, rcd := rcd, lr := r, word := word }

/-- A record finished without running: refused or cancelled; a record that cannot be read leaves an event only (R308). -/
def finishUnrun (s : State) (d p rcd status : Nat) : State :=
  match readRecord s d p rcd with
  | none => postEvent s p d 4 (rcd + 2 * 2 ^ 64)
  | some (r, _) => finishRecord s d p rcd r status

/-- The released Skein entry of a record becomes FINISHED, and is freed (R347, R349). -/
def skeinFinish (s : State) (p rcd : Nat) : State :=
  modPkg s (fun k => { k with skein := k.skein.filter (fun e => !(e.part == p && e.rcd == rcd && e.st == 1)) })

/-! ### Pending-launch queues (R309 to R311, R316) -/

/-- The 16 bytes of a segment entry (R310). -/
def SegEntry.word (e : SegEntry) : BitVec 128 :=
  BitVec.ofNat 128 (e.rcd % 2 ^ 52 + e.ticket.toNat * 2 ^ 64 + e.canc.toNat * 2 ^ 96)

/-- The address of an entry of a die's segment pool: which part of the die's stacked DRAM holds the pool is open (R310, log 17). -/
def segAddr (d place : Nat) : Nat := d * 2 ^ 36 + Config.segmentPool d % (36 * 2 ^ 20 - 256) * 1024 + place * 16

/-- A write of a Newt in its die's stacked DRAM. -/
def newtWrite (s : State) (d a n v : Nat) : State := (devWrite s d true a n v).1

/-- The Newt writes an entry into its segment. -/
def putSegEntry (s : State) (d : Nat) (e : SegEntry) : State := newtWrite s d (segAddr d e.place) 16 e.word.toNat

/-- Whether an entry of a segment meets an uncorrectable error (R191). -/
def segFails (s : State) (d : Nat) (e : SegEntry) : Bool := failingAt s (segAddr d e.place) 16

/-- An entry as its segment holds it; one in error is passed over as a cancelled one is (R191; DESIGN CHOICE, log 53). -/
def segEntryNow (s : State) (d : Nat) (e : SegEntry) : SegEntry :=
  let w : BitVec 128 := BitVec.ofNat 128 (latestRead s (segAddr d e.place) 16)
  { e with rcd := (w.extractLsb' 0 52).toNat, ticket := w.extractLsb' 64 32, canc := w.getLsbD 96 || segFails s d e }

/-- Segments of a core's list, oldest first. -/
def segsOf (s : State) (c : Nat) : List (List SegEntry) := tget [] (die s (dieOf c)).segs c

/-- The segment list of a core replaced, with PLS. -/
def setSegs (s : State) (c : Nat) (l : List (List SegEntry)) : State :=
  let l := l.filter (fun x => !x.isEmpty)
  modCore (modDie s (dieOf c) (fun d => { d with segs := tput d.segs c l })) c (fun k => { k with pls := l.length })

/-- The core whose cycles tell when a record became ready: its own, or the first of the die. -/
def readyClock (d : Nat) (r : Ready) : Nat :=
  match r.core with | some c => if dieOf c = d then c else d * 72 | none => d * 72

/-- The order of records that became ready in one cycle: by core, then by command queue; those of the timetable by the tick of their
release, and of one tick by RF (R349). -/
def readyOrder (r : Ready) : Nat :=
  if r.skein then 2 ^ 20 + r.num else match r.core, r.queue with | some c, _ => c | none, some q => 576 + q | none, none => 2 ^ 20

/-- A record becomes ready for the dispatcher of a die (R358). -/
def addReady (s : State) (d : Nat) (r : Ready) : State :=
  let r := { r with stamp := cycleOf s (readyClock d r) + 1 }
  let later (e : Ready) : Bool := (e.stamp == r.stamp || (e.skein && r.skein)) && decide (readyOrder r < readyOrder e)
  modDie s d (fun x => { x with ready := x.ready.filter (fun e => !later e) ++ [r] ++ x.ready.filter later })

/-- The head of a core's queue is ready for the dispatcher of its die (R358); a core of a die that is out of service hands
its records to the next die in service (R435). A head that waits for a dispatcher, on whatever die, is ready once; one that was taken
is on its way out (R450). -/
def headReady (s : State) (c : Nat) : State :=
  match (core s c).plq with
  | [] => s
  | e :: _ =>
    if (core s c).took || s.dies.any (fun d => d.2.ready.any (fun r => r.core == some c)) then s
    else addReady s (nextDie s (dieOf c)) { rcd := e.rcd, part := e.part, core := some c, parent := e.parent, pusher := e.pusher }

/-- An entry appended to a core's hardware queue. -/
def plqPush (s : State) (c : Nat) (e : SegEntry) : State := headReady (modCore s c (fun k => { k with plq := k.plq ++ [e] })) c

/-- Entries of a core's hardware queue removed; a new head becomes ready. -/
def plqDrop (s : State) (c : Nat) (t : BitVec 32) : State :=
  let head := (core s c).plq.head?.map (·.ticket) == some t
  let s := modCore s c (fun k => { k with plq := k.plq.filter (fun e => e.ticket != t) })
  let s := if head then
      { s with dies := s.dies.map (fun q => (q.1, { q.2 with ready := q.2.ready.filter (fun r => r.core != some c) })) }
    else s
  headReady s c

/-- The entry word of a push (R313). -/
def pushWord (s : State) (c status : Nat) (t : BitVec 32) : Slice :=
  BitVec.ofNat 128 (status + (core s c).plq.length % 8 * 2 ^ 8 + (core s c).pls % 2 ^ 16 * 2 ^ 16 + t.toNat * 2 ^ 32)

/-- The entry of a push that core tc accepted, in a queue of core c, as its cycle ends (R450). What asked a core that is out of service
fills with the cycle of the pushing core. -/
def answerAccepted (s : State) (tc c : Nat) (e : QEntry) : QEntry :=
  match e.pend with
  | .accepted x status t =>
    if x = tc ∨ (c = tc ∧ !coreUp s x) then
      { e with val := splat (pushWord s x status t), pend := .full, filled := cycleOf s c + 1, was := none }
    else e
  | _ => e

/-- The entries of pushes that a core accepted in the cycle that ends fill with its queue as it now stands (R450). -/
def fillAccepted (s : State) (tc : Nat) : State :=
  { s with cores := s.cores.map (fun k => (k.1, { k.2 with groups := k.2.groups.map (fun g =>
      (g.1, { g.2 with ports := g.2.ports.map (fun p =>
        if p.1 = 22 then (22, { p.2 with q := p.2.q.map (answerAccepted s tc k.1) }) else p) })) })) }

/-- A head that was taken leaves its queue, and the next one is ready (R450). -/
def dropTaken (s : State) (c : Nat) : State :=
  if (core s c).took then headReady (modCore s c (fun k => { k with plq := k.plq.drop 1, took := false })) c else s

/-- A core's queue at the end of a cycle: a head that was taken leaves it, the pushes that it accepted have their answer, and those of
the next cycle are decided on what it holds now (R450). -/
def endQueueCycle (s : State) (c : Nat) : State :=
  let s := dropTaken s c
  let s := modCore s c (fun k => { k with plq0 := (k.plq.length, k.pls), pushed := 0 })
  fillAccepted s c

/-- Whether a hand-over to a core is pending (R313). -/
def handing (s : State) (c : Nat) : Bool := (die s (dieOf c)).hoq.any (fun h => h.core == c)

/-- The entry of a handed-over push fills (R313, R424). -/
def fillPushed (s : State) (h : Handover) (status : Nat) : State :=
  let g := group s h.pcore h.pslot
  match (portOf g false 22).q.findIdx? (fun e => e.pend == .pushed h.core h.rcd h.ticket) with
  | some i =>
    let v := pushWord s h.core status (if status = 1 then h.ticket else 0)
    modGroup s h.pcore h.pslot (fun g => fillEntry g (cycleOf s h.pcore) false 22 i (splat v))
  | none => s

/-- A hand-over leaves the list of its die. -/
def dropHandover (s : State) (h : Handover) : State :=
  modDie s (dieOf h.core) (fun d => { d with hoq := d.hoq.filter (fun x => x != h) })

/-- A push that was refused (status 2) counts for no ticket: later tickets still pending at the core move down by one
(R309, R313; log 17). -/
def unissue (s : State) (c : Nat) (t : BitVec 32) : State :=
  let low (x : BitVec 32) : BitVec 32 := if x = t ∨ (x - t).toNat ≥ 2 ^ 31 then x else x - 1
  let s := modCore s c (fun k => { k with ptk := k.ptk - 1 })
  let s := modDie s (dieOf c) (fun d => { d with hoq := d.hoq.map (fun h => if h.core = c then { h with ticket := low h.ticket } else h) })
  { s with cores := s.cores.map (fun q => (q.1, { q.2 with groups := q.2.groups.map (fun r =>
      (r.1, modPort r.2 22 (fun p => { p with q := p.q.map (fun e =>
        match e.pend with
        | .pushed c' rcd x => if c' = c then { e with pend := .pushed c' rcd (low x) } else e
        | _ => e) }))) })) }

/-! ### The ln operations (R312 to R316) -/

/-- A fault against the trigger's slot. -/
def lnFault (s : State) (c sl cause fva : Nat) (o : Opnd) : State := slotFault s c sl cause fva ((lowest o.en).getD 0)

/-- The target core of aux; none where it names no core (R312, R315). -/
def lnTarget (c : Nat) (o : Opnd) : Option Nat :=
  if o.aux.getLsbD 10 then some c
  else
    let n := (o.aux.extractLsb' 0 10).toNat
    if n < 576 then some n else none

/-- An ln trigger whose target exists. -/
def withTarget (s : State) (c sl : Nat) (o : Opnd) (f : State → Nat → State) : State :=
  match lnTarget c o with | some t => f s t | none => lnFault s c sl 0x04 0 o

/-- push (R313): the wait of its entry. -/
def execLnPush (t : Trig) (s : State) : Host.Outcome State Fault Refusal :=
  .next (runTrig (.lnPush t) .ln t s (fun s c sl k o => withTarget s c sl o (fun s tc =>
    let a := (uniform o.en o.t).toNat % 2 ^ 52
    if a % 256 ≠ 0 then lnFault s c sl 0x08 a o
    else
      let n := placeOf s c sl
      addEntry s c sl k 22 o 0 (.push n tc a))))

/-- The ticket at the head of a core's FIFO, or PTK when it is empty (R312). -/
def headTicket (s : State) (c : Nat) : BitVec 32 :=
  match (core s c).plq ++ (segsOf s c).flatten.filter (fun e => !e.canc) with
  | e :: _ => e.ticket
  | [] => ((((die s (dieOf c)).hoq.find? (fun h => h.core == c)).map (·.ticket)).getD (core s c).ptk)

/-- stat (R312) -/
def execLnStat (t : Trig) (s : State) : Host.Outcome State Fault Refusal :=
  .next (runTrig (.lnStat t) .ln t s (fun s c sl k o => withTarget s c sl o (fun s tc =>
    addTimed s c sl k 22 o 4 (BitVec.ofNat 128 ((core s tc).plq.length % 8 + (core s tc).pls % 2 ^ 16 * 2 ^ 16 +
      (headTicket s tc).toNat * 2 ^ 32)))))

/-- Whether a ticket counts as issued at a core (R314). -/
def ticketIssued (s : State) (c : Nat) (t : BitVec 32) : Bool := decide (((core s c).ptk - 1 - t).toNat < 2 ^ 31)

/-- The segment entries of a core with a ticket, marked as cancelled. -/
def markSegs (s : State) (c : Nat) (t : BitVec 32) : State :=
  modDie s (dieOf c) (fun d => { d with segs := tput d.segs c ((segsOf s c).map (fun l =>
    l.map (fun x => if x.ticket = t then { x with canc := true } else x))) })

/-- A segment entry of a core is cancelled: CANC is set (R314). -/
def cancelSeg (s : State) (c : Nat) (e : SegEntry) : State :=
  markSegs (putSegEntry s (dieOf c) { e with canc := true }) c e.ticket

/-- The outcome of a cancel and the state (R314, R424): a head that is taken in the cycle has left the queue. A push that is still
handed over fills with status 1 (log 17). -/
def cancelTicket (s : State) (c : Nat) (t : BitVec 32) : Nat × State :=
  let d := die s (dieOf c)
  match ((core s c).plq.drop (core s c).took.toNat).find? (fun e => e.ticket == t) with
  | some e => (0, finishUnrun (plqDrop s c t) (dieOf c) e.part e.rcd 5)
  | none =>
    match (segsOf s c).flatten.find? (fun e => e.ticket == t && !e.canc) with
    | some e => (0, finishUnrun (cancelSeg s c e) (dieOf c) e.part e.rcd 5)
    | none =>
      match d.hoq.find? (fun h => h.core == c && h.ticket == t) with
      | some h => (0, finishUnrun (dropHandover (fillPushed s h 1) h) (dieOf c) h.part h.rcd 5)
      | none =>
        if modeOf s .sched (dieOf c) = 2 ∧ d.taken.any (fun x => x.1 == c && x.2.ticket == t) then
          if d.hcanc.length < 16 then (3, modDie s (dieOf c) (fun d => { d with hcanc := d.hcanc ++ [(c, t)] })) else (2, s)
        else (if ticketIssued s c t then 1 else 2, s)

/-- cancel (R314) -/
def execLnCancel (t : Trig) (s : State) : Host.Outcome State Fault Refusal :=
  .next (runTrig (.lnCancel t) .ln t s (fun s c sl k o => withTarget s c sl o (fun s tc =>
    let (out, s) := cancelTicket s tc ((uniform o.en o.t).setWidth 32)
    addTimed s c sl k 22 o 0 (BitVec.ofNat 128 out))))

/-- A push is accepted into the hardware queue, handed over, or refused (R313, R424), on the occupancy at the start of the core's
cycle and what pushes have added since; an answer of status 0 or 3 comes at the end of the cycle (R450; DEDUCED, log 17: also in a
cycle without a take). -/
def acceptPush (s : State) (c sl i tc rcd : Nat) : State :=
  let g := group s c sl
  let pend (s : State) (p : Pend) : State := modGroup s c sl (fun g => match entryAt g false 22 i with
    | some e => setEntry g false 22 i { e with pend := p }
    | none => g)
  let fill (s : State) (v : Slice) : State := modGroup s c sl (fun g => fillEntry g (cycleOf s c) false 22 i (splat v))
  if !coreUp s tc then pend s (.accepted tc 3 0)
  else
    let k := core s tc
    let t := k.ptk
    if k.plq0.1 + k.pushed < 4 ∧ k.plq.length < 4 ∧ k.plq0.2 = 0 ∧ !handing s tc then
      let s := plqPush s tc { rcd := rcd, ticket := t, part := g.part, parent := some g.team, pusher := some c }
      pend (modCore s tc (fun k => { k with ptk := k.ptk + 1, pushed := k.pushed + 1 })) (.accepted tc 0 t)
    else if modeOf s .sched (dieOf tc) ≠ 0 ∧ 64 ≤ (die s (dieOf tc)).hoq.length then fill s (pushWord s tc 2 0)
    else
      let s := modCore s tc (fun k => { k with ptk := k.ptk + 1 })
      let s := modDie s (dieOf tc) (fun d => { d with hoq := d.hoq ++
        [{ core := tc, ticket := t, rcd := rcd, pcore := c, pslot := sl, part := g.part, parent := some g.team }] })
      pend s (.pushed tc rcd t)

/-- Whether a push may be accepted in this cycle: one of a group in a cycle (R313), and at a core in order of the pushing core
and then of the slot (R316). -/
def pushTurn (s : State) (c sl tc : Nat) : Bool :=
  (group s c sl).pushAt != cycleOf s c + 1 &&
    (match (core s tc).pushLast with
      | some (n, x) => n != cycleOf s tc || decide (x ≤ c * 16 + sl)
      | none => true)

/-- A push has been accepted in this cycle. -/
def notePush (s : State) (c sl tc : Nat) : State :=
  modCore (modGroup s c sl (fun g => { g with pushAt := cycleOf s c + 1 })) tc
    (fun k => { k with pushLast := some (k.cycle, c * 16 + sl) })

/-- LN_PUSH_ACCEPT (R313, R316): the oldest waiting push of a group, once its wait is over (selection: core, slot, place). -/
def execLnPushAccept (s : State) : Host.Outcome State Fault Refusal :=
  let c := selAt s 0
  let sl := selAt s 1
  let i := selAt s 2
  let q := (portOf (group s c sl) false 22).q
  let waiting (e : QEntry) : Bool := match e.pend with | .push _ _ _ => true | _ => false
  match (q[i]?).map (fun (e : QEntry) => e.pend) with
  | some (.push n tc rcd) =>
    if released s c sl n true && !(q.take i).any waiting && pushTurn s c sl tc then .next (notePush (acceptPush s c sl i tc rcd) c sl tc)
    else .next s
  | _ => .next s

/-! ### Segments (R310, R311) -/

/-- The numbers of the segments of a die's pool that no list holds (R310). -/
def freeSegs (d : Die) : List Nat :=
  let used := (d.segs.flatMap (fun p => p.2.filterMap (fun l => l.head?))).map (fun e => e.place / 64)
  (List.range 256).filter (fun n => !used.contains n)

/-- The place of a new entry of a core: behind the last one in its segment, or first in a new segment; none where the pool is used
up. Which free segment is taken is open (log 17). -/
def segPlace (s : State) (c : Nat) : Option Nat :=
  let free := freeSegs (die s (dieOf c))
  let fresh : Option Nat := if free.isEmpty then none else some (64 * free.getD (Config.choice s.fresh % free.length) 0)
  match (segsOf s c).getLast? with
  | some x =>
    match x.getLast? with
    | some e => if x.length < 64 then some (e.place / 64 * 64 + (e.place + 1) % 64) else fresh
    | none => fresh
  | none => fresh

/-- An entry appended to a core's last segment, or to a new one. -/
def appendSeg (l : List (List SegEntry)) (e : SegEntry) : List (List SegEntry) :=
  match l.reverse with
  | x :: rest => if x.length < 64 then (rest.reverse ++ [x ++ [e]]) else l ++ [[e]]
  | [] => [[e]]

/-- SEGMENT_LINK: the scheduler Newt serves the oldest hand-over: it writes the entry at the tail of the core's segments (R310, R313;
selection: die). -/
def execSegmentLink (s : State) : Host.Outcome State Fault Refusal :=
  let d := selAt s 0
  match (die s d).hoq with
  | [] => .next s
  | h :: _ =>
    if modeOf s .sched d ≠ 0 then .next s
    else
      match segPlace s h.core with
      | none => .next (unissue (dropHandover (fillPushed s h 2) h) h.core h.ticket)
      | some n =>
        let e : SegEntry :=
          { rcd := h.rcd, ticket := h.ticket, part := h.part, parent := h.parent, pusher := some h.pcore, place := n }
        let s := putSegEntry { s with fresh := s.fresh + 1 } d e
        .next (dropHandover (fillPushed (setSegs s h.core (appendSeg (segsOf s h.core) e)) h 1) h)

/-- The oldest entry of a core's segments that is not cancelled, and what is left. -/
def takeSeg (l : List (List SegEntry)) : Option SegEntry × List (List SegEntry) :=
  l.foldl (fun (p : Option SegEntry × List (List SegEntry)) x =>
    match p.1 with
    | some _ => (p.1, p.2 ++ [x])
    | none =>
      match x.dropWhile (fun e => e.canc) with
      | e :: rest => (some e, p.2 ++ [rest])
      | [] => p) (none, [])

/-- The entries of a core's segments in error that stand before its oldest good one are lost, each with a launch-refused event
(R191, R326; DESIGN CHOICE, log 53). -/
def loseSegs (s : State) (c : Nat) : State :=
  let d := dieOf c
  let front := (segsOf s c).flatten.takeWhile (fun e => (segEntryNow s d e).canc)
  (front.filter (fun e => segFails s d e && !e.canc)).foldl (fun s e => postEvent s e.part d 4 (2 * 2 ^ 64)) s

/-- SEGMENT_REFILL: the oldest segment entry, as the pool holds it, moves into a free hardware entry (R310, R311; selection: core). -/
def execSegmentRefill (s : State) : Host.Outcome State Fault Refusal :=
  let c := selAt s 0
  if modeOf s .sched (dieOf c) = 0 ∧ (core s c).plq.length < 4 then
    match takeSeg ((segsOf s c).map (fun l => l.map (segEntryNow s (dieOf c)))) with
    | (some e, l) => .next (plqPush (setSegs (loseSegs s c) c l) c e)
    | (none, _) => .next (setSegs (loseSegs s c) c [])
  else .next s

end Sys2Proof.Machine
end

