-- ==== Sys2Proof/Machine/Move.lean ====
section
/-! DEFINITION. Moves to the register files, null and ports (R70 to R72, R106, R231). -/

namespace Sys2Proof.Machine

/-- The lanes of a g register written (R71). -/
def writeG (g : Group) (i : Nat) (m : Mask) (v : Row) : Group :=
  let old := tget 0 g.g i
  { g with g := tput g.g i (mkGRow (fun L => if m.getLsbD L then (lane v L).setWidth 32 else glane old L)) }

/-- k takes the value of the lowest-numbered enabled lane; with no enabled lane nothing is written (R71). -/
def writeK (g : Group) (i : Nat) (m : Mask) (v : Row) : Group :=
  if m = 0 then g else { g with k := tput g.k i ((uniform m v).setWidth 32) }

/-- q is set in each enabled lane when bits [31:0] are nonzero (R71), under the names in force (R103). -/
def writeQ (g : Group) (i : Nat) (m : Mask) (v : Row) : Group :=
  let p := physQ g i
  if p = 0 then g
  else
    let old := readPhysQ g p
    putQ g p (mkMask (fun L => if m.getLsbD L then (lane v L).setWidth 32 != (0 : BitVec 32) else old.getLsbD L))

/-- A v row written in the enabled lanes; a leased row raises a lease fault against the slot (R71, R106, R274). DESIGN CHOICE: a move
with no enabled lane neither reads nor writes the row, and raises none (log 49). -/
def writeV (s : State) (c sl i : Nat) (m : Mask) (v : Row) : State :=
  let row := (group s c sl).vbase + i
  if m = 0 then s
  else if rowLeased s c row then
    slotFault (countEvent s c 0xF (some (group s c sl).part) 1) c sl 0x0B 0 ((lowest m).getD 0)
  else modCore (clearSlices s c row m) c (fun k => { k with acc := tput k.acc row (merge m v (tget 0 k.acc row)) })

/-- MOVE: a register file or null takes the value that the slot captured (R71). -/
def execMove (src : Src) (dst : Dst) (s : State) : Host.Outcome State Fault Refusal :=
  .next (runMove (.move src dst) s (fun s c sl k =>
    let g := group s c sl
    let m := tget 0 g.bun.en k
    let v := tget 0 g.bun.val k
    match dst with
    | .g i => modGroup (clearLanes s (gregAddr c g.gbase i.toNat) 4 m) c sl (fun g => writeG g i.toNat m v)
    | .v i => writeV s c sl i.toNat m v
    | .k i => modGroup s c sl (fun g => writeK g i.toNat m v)
    | .q i => modGroup s c sl (fun g => writeQ g i.toNat m v)
    | .null => s))

/-- A move to spN.a pushes a vector into an active write stream (R231): a fault is raised against the slot, and then the
vector writes nothing and the position stays (R234). -/
def pushVector (s : State) (c sl k u : Nat) (m : Mask) (v : Row) : State :=
  let g := group s c sl
  let st := tget {} g.streams u
  if m = 0 ∨ !st.active ∨ !streamDir st then s
  else
    let a : Access := { kind := .streamWrite, lanes := m, elems := streamElems st st.pos m, data := v, seq := placeOf s c sl, part := g.part
                        priv := g.hmode }
    beginAccess s c sl k u a (fun s a =>
      modGroup s c sl (fun g =>
        let st := tget {} g.streams u
        { g with streams := tput g.streams u { st with pos := st.pos + 32 * streamPer st, unwritten := st.unwritten ++ [a] } }))

/-- PORT_LATCH: port a, b or aux (R72), and the push of a write stream (R231). -/
def execPortLatch (src : Src) (unit : BitVec 5) (port : PortName) (s : State) : Host.Outcome State Fault Refusal :=
  .next (runMove (.portLatch src unit port) s (fun s c sl k =>
    let g := group s c sl
    let m := tget 0 g.bun.en k
    let v := tget 0 g.bun.val k
    let u := unit.toNat
    let s := modGroup s c sl (fun g => modPort g u (fun x => latchPort x port m v))
    if port = .a ∧ 13 ≤ u ∧ u ≤ 16 then pushVector s c sl k u m v else s))

end Sys2Proof.Machine
end

