-- ==== Sys2Proof/Machine/Sp.lean ====
section
/-! DEFINITION. The sp operations and the vectors of streams (R226 to R237). -/

namespace Sys2Proof.Machine

/-- The key of word w of parameter set st of unit u. -/
def setKey (u st w : Nat) : Nat := u * 64 + st * 8 + w

/-- The set that aux selects (R229). -/
def setOf (o : Opnd) : Nat := (o.aux.extractLsb' 0 3).toNat

/-- The parameter set as a stream copies it. -/
def copySet (g : Group) (u st : Nat) : Tbl (BitVec 32) := (List.range 8).map (fun w => (w, tget 0 g.sets (setKey u st w)))

/-- A stream stops: a read stream discards its queue; pushed vectors are still written (R232). -/
def stopStream (g : Group) (u : Nat) : Group :=
  let st := tget {} g.streams u
  let g := if st.active && !streamDir st then setPort g false u { portOf g false u with q := [] } else g
  { g with streams := tput g.streams u { st with active := false } }

/-- spcfg (R229) -/
def execSpSpcfg (t : Trig) (s : State) : Host.Outcome State Fault Refusal :=
  .next (runTrig (.spSpcfg t) .sp t s (fun s c sl _ o =>
    modGroup s c sl (fun g =>
      { g with sets := tput g.sets (setKey (unitCode .sp t) (setOf o) t.typ.toNat) ((uniform o.en o.t).setWidth 32) })))

/-- spbase (R229) -/
def execSpSpbase (t : Trig) (s : State) : Host.Outcome State Fault Refusal :=
  .next (runTrig (.spSpbase t) .sp t s (fun s c sl _ o =>
    let v := uniform o.en o.t
    let u := unitCode .sp t
    modGroup s c sl (fun g =>
      let w1 := tget 0 g.sets (setKey u (setOf o) 1)
      let sets := tput g.sets (setKey u (setOf o) 0) (v.setWidth 32)
      { g with sets := tput sets (setKey u (setOf o) 1) (w1.extractLsb' 20 12 ++ v.extractLsb' 32 20) })))

/-- Whether base and strides of the dimensions in use are multiples of the element size (R230). -/
def streamAligned (st : Stream) : Bool :=
  streamBase st % streamEw st == 0 &&
    (List.range (streamNd st)).all (fun k => (tget 0 st.words (4 + k)).toNat % streamEw st == 0)

/-- spstart (R230): the copy of the set is checked, and the stream starts at position T[31:0]. -/
def execSpSpstart (t : Trig) (s : State) : Host.Outcome State Fault Refusal :=
  .next (runTrig (.spSpstart t) .sp t s (fun s c sl _ o =>
    let u := unitCode .sp t
    let ln := (lowest o.en).getD 0
    let s := modGroup s c sl (fun g => stopStream g u)
    let g := group s c sl
    let st : Stream :=
      { active := true, set := setOf o, words := copySet g u (setOf o), pos := ((uniform o.en o.t).setWidth 32).toNat
        seq := placeOf s c sl, priv := g.hmode, lanes := o.en, unwritten := (tget {} g.streams u).unwritten }
    let w1 := tget 0 st.words 1
    if w1.extractLsb' 27 5 ≠ 0 ∨ 5 ≤ (w1.extractLsb' 20 3).toNat then slotFault s c sl 0x04 0 ln
    else if !streamAligned st then slotFault s c sl 0x08 0 ln
    else
      modGroup s c sl (fun g => streamFill { g with streams := tput g.streams u st } u)))

/-- spskip (R232) -/
def execSpSpskip (t : Trig) (s : State) : Host.Outcome State Fault Refusal :=
  .next (runTrig (.spSpskip t) .sp t s (fun s c sl _ o =>
    let u := unitCode .sp t
    let n := ((uniform o.en o.t).setWidth 32 : BitVec 32).toNat
    modGroup s c sl (fun g =>
      let st := tget {} g.streams u
      if !st.active then g
      else
        let g := { g with streams := tput g.streams u { st with pos := st.pos + n } }
        if streamDir st then g else streamFill (setPort g false u { portOf g false u with q := [] }) u)))

/-- Whether a vector of a stream is held by a watermark or a parked fault (R233). -/
def streamWaits (g : Group) (u : Nat) : Bool :=
  let waits (a : Access) : Bool := a.held || (match a.stat with | .parked _ _ => true | _ => false)
  (portOf g false u).q.any (fun e => match e.pend with | .mem a => waits a | _ => false) ||
    (tget {} g.streams u).unwritten.any waits

/-- The status word of a stream (R233). DESIGN CHOICE (log 53): R233 speaks of the active stream; when none is active (never
started, stopped or faulted) SET, DIR, END and POS read as those of the last stream, and before the first as those of a stream at
position 0 of a set of zeros. -/
def streamStatus (g : Group) (u : Nat) : BitVec 64 :=
  let st := tget {} g.streams u
  let qn := if streamDir st then st.unwritten.length else (portOf g false u).q.length
  BitVec.ofNat 64
    (st.pos % 2 ^ 32 + qn % 16 * 2 ^ 32 + st.flt.toNat * 2 ^ 50 + (streamWaits g u).toNat * 2 ^ 51 +
      (decide (streamN st ≤ st.pos)).toNat * 2 ^ 52 + (streamDir st).toNat * 2 ^ 53 + st.active.toNat * 2 ^ 54 +
      st.set % 8 * 2 ^ 55)

/-- spstat (R233): the status word in b of every enabled lane. -/
def execSpSpstat (t : Trig) (s : State) : Host.Outcome State Fault Refusal :=
  .next (runTrig (.spSpstat t) .sp t s (fun s c sl _ o =>
    let u := unitCode .sp t
    modGroup s c sl (fun g =>
      modPort g u (fun p => { p with b := merge o.en (splat (lo64 (streamStatus g u))) p.b }))))

/-- spstop (R232) -/
def execSpSpstop (t : Trig) (s : State) : Host.Outcome State Fault Refusal :=
  .next (runTrig (.spSpstop t) .sp t s (fun s c sl _ _ => modGroup s c sl (fun g => stopStream g (unitCode .sp t))))

/-! ### The events of streams (R231, R234, R235) -/

/-- Entry i of a stream's queue becomes full with a fault to be taken at its pop (R234). -/
def vectorFault (s : State) (c sl u i cause fva ln : Nat) : State :=
  modGroup s c sl (fun g => match entryAt g false u i with
    | some e => setEntry g false u i { e with pend := .full, filled := cycleOf s c + 1, err := some (cause, fva, ln) }
    | none => g)

/-- Elements of a vector are read: those whose bit of `later` is 0. The others are read at another moment, so that each element
returns the old or the new value of a store that comes in between (R235). The vector fills once every element has been read. -/
def readVector (s : State) (c sl u i later : Nat) (a : Access) : State :=
  let (s, v, a) := performLoad s c later (fun n => BitVec.ofNat 128 n) { a with held := false }
  modGroup s c sl (fun g => match entryAt g false u i with
    | some e =>
      if a.elems.isEmpty then fillEntry g (cycleOf s c) false u i (e.val ||| v)
      else setEntry g false u i { e with val := e.val ||| v, pend := .mem a }
    | none => g)

/-- The vector at place i of a stream's queue is translated, compared and read, but for the elements left for later (R234, R235). -/
def fetchVector (s : State) (c sl u i later : Nat) (a : Access) : State :=
  let put (s : State) (a : Access) : State :=
    modGroup s c sl (fun g => match entryAt g false u i with
      | some e => setEntry g false u i { e with pend := .mem a }
      | none => g)
  match a.stat with
  | .parked _ _ => s
  | .walking =>
    if a.held then s else
    (match decideAccess s c (group s c sl).team a true with
      | .ready a' => put (fillWalks s c a) a'
      | .fault cz v l => vectorFault (leaseEvent (fillWalks s c a) c a.part cz) c sl u i cz v l
      | .park k v => parkOrHold (fillWalks s c a) c sl u false a k v
      | .walks => s)
  | .ready =>
    if (core s c).landed || unanswered s c a.sent (a.elems.map (·.pa)) then s else
    match compareAccess s c a.part a.elems with
    | .held => put s { a with held := true }
    | .abandoned => vectorFault s c sl u i 0x18 (abandonedAt s c a).1 (abandonedAt s c a).2
    | .pass =>
      if !orderOk s c sl a then s
      else
        match badElem s c a with
        | some e => { vectorFault s c sl u i 0x19 e.va e.lane with fresh := s.fresh + 1 }
        | none => readVector s c sl u i later a

/-- STREAM_VECTOR_FETCH: the oldest pending vector of a read stream (selection: core, slot, sp unit, the elements left for later). -/
def execStreamVectorFetch (s : State) : Host.Outcome State Fault Refusal :=
  let c := selAt s 0
  let sl := selAt s 1
  let u := 13 + selAt s 2 % 4
  let g := group s c sl
  match (portOf g false u).q.findIdx? isPending with
  | none => .next s
  | some i =>
    match entryAt g false u i with
    | some e => .next (match accOf e.pend with | some a => fetchVector s c sl u i (selAt s 3) (vectorAccess g a) | none => s)
    | none => .next s

/-- STREAM_VECTOR_WRITE: the oldest pushed vector is written, but for the parts left for later, and its W reaches PWT (R111, R208, R231;
selection: core, slot, sp unit, the parts left). -/
def execStreamVectorWrite (s : State) : Host.Outcome State Fault Refusal :=
  let c := selAt s 0
  let sl := selAt s 1
  let u := 13 + selAt s 2 % 4
  match (tget {} (group s c sl).streams u).unwritten with
  | [] => .next s
  | a :: _ =>
    if a.stat == .ready && orderOk s c sl a && !(core s c).landed && !unanswered s c a.sent (a.elems.map (·.pa)) then
      let (s, a) := performStore s c (selAt s 3) a
      .next (if a.elems.isEmpty then raisePwt (dropAccess s c sl u false a.seq) c sl a.w else putAccess s c sl u false a)
    else .next s

end Sys2Proof.Machine
end

