-- ==== Sys2Proof/Machine/Ss.lean ====
section
/-! DEFINITION. The ss operations, and replay, invalidation, publication and instruction-cache locks (R334, R339, R342 to
R346, R372 to R378). -/

namespace Sys2Proof.Machine

/-! ### System registers (R373) -/

/-- Whether a register has a value of its own in each lane. -/
def perLaneReg (n : Nat) : Bool := decide (0x13 ≤ n ∧ n ≤ 0x19)

/-- The value of a system register; gt is GTIME of the issue cycle (R373). -/
def sysValue (s : State) (c sl n : Nat) (gt : BitVec 64) : Row :=
  let g := group s c sl
  let p := part s g.part
  let u (v : BitVec 64) : Row := splat (lo64 v)
  match n with
  | 0x00 => u (g.fpstat.setWidth 64)
  | 0x01 => u g.ferec
  | 0x02 => u s.pkg.capmask
  | 0x03 => u gt
  | 0x10 => u g.fraddr
  | 0x11 => u g.frmask
  | 0x12 => u g.frcause
  | 0x13 => g.frstage
  | 0x20 => u (BitVec.ofNat 64 g.vbase)
  | 0x21 => u (BitVec.ofNat 64 g.part)
  | 0x22 => u (BitVec.ofNat 64 sl)
  | 0x30 => u p.tvec
  | 0x31 => u p.savebase
  | 0x32 => u p.pferr
  | n => if perLaneReg n then tget 0 g.frsv (n - 0x14) else 0

/-- The reserved bits of a writable register (R41, R43, R368, R373). -/
def sysReserved (n : Nat) : BitVec 128 :=
  match n with
  | 0x00 => BitVec.ofNat 128 (3 * 2 ^ 30)
  | 0x01 => BitVec.ofNat 128 ((2 ^ 10 - 1) * 2 ^ 53)
  | 0x10 => BitVec.ofNat 128 ((2 ^ 17 - 1) * 2 ^ 47)
  | 0x11 => BitVec.ofNat 128 ((2 ^ 58 - 1) * 2 ^ 6)
  | 0x13 => BitVec.ofNat 128 ((2 ^ 58 - 1) * 2 ^ 64)
  | _ => 0

/-- wrsys takes effect (R44, R373): the low word of the uniform value, or each enabled lane's own value. FRSTAGE[63:0] is
uniform (R368): it takes the value of the lowest enabled lane. -/
def sysWrite (g : Group) (n : Nat) (m : Mask) (t : Row) : Group :=
  let u := uniform m t
  match n with
  | 0x00 => { g with fpstat := u.setWidth 32, ferec := g.ferec &&& ~~~(1#64 <<< 63) }
  | 0x01 => { g with ferec := u.setWidth 64 }
  | 0x10 => { g with fraddr := u.setWidth 64 }
  | 0x11 => { g with frmask := u.setWidth 64 }
  | 0x12 => { g with frcause := u.setWidth 64 }
  | 0x13 =>
    let r := merge m t g.frstage
    { g with frstage := mkRow (fun L => (lane r L).extractLsb' 64 64 ++ u.extractLsb' 0 64) }
  | n => if perLaneReg n then { g with frsv := tput g.frsv (n - 0x14) (merge m t (tget 0 g.frsv (n - 0x14))) } else g

/-! ### Triggers -/

/-- An entry of ss, with the value that it already holds. -/
def ssEntry (s : State) (c sl k : Nat) (o : Opnd) (v : Row) (p : Pend) : State := addEntry s c sl k 21 o v p

/-- A fault against the trigger's slot. -/
def ssFault (s : State) (c sl cause fva : Nat) (o : Opnd) : State := slotFault s c sl cause fva ((lowest o.en).getD 0)

/-- The register that aux names. -/
def sysNo (o : Opnd) : Nat := (o.aux.extractLsb' 0 8).toNat

/-- The uniform address of a trigger (R372). -/
def ssAddr (o : Opnd) : Nat := (uniform o.en o.t).toNat % 2 ^ 52

/-- The uniform length a[31:0] (R372). -/
def ssLen (o : Opnd) : Nat := (uniform o.en o.a).toNat % 2 ^ 32

/-- rdsys (R373) -/
def execSsRdsys (t : Trig) (s : State) : Host.Outcome State Fault Refusal :=
  .next (runTrig (.ssRdsys t) .ss t s (fun s c sl k o =>
    ssEntry s c sl k o (splat (lo64 (coreTime s c))) (.rdsys (cycleOf s c + 2) (sysNo o))))

/-- wrsys (R373): nonzero reserved bits fault against the slot. -/
def execSsWrsys (t : Trig) (s : State) : Host.Outcome State Fault Refusal :=
  .next (runTrig (.ssWrsys t) .ss t s (fun s c sl k o =>
    let n := sysNo o
    let bad : Bool :=
      if perLaneReg n then lanes32.any (fun L => o.en.getLsbD L && (lane o.t L &&& sysReserved n != 0))
      else uniform o.en o.t &&& sysReserved n != 0
    if bad then ssFault s c sl 0x04 0 o
    else ssEntry s c sl k o 0 (.wrsys (cycleOf s c + 2) n o.t)))

/-- trap (R374): it is taken at the end of the bundle. -/
def execSsTrap (t : Trig) (s : State) : Host.Outcome State Fault Refusal :=
  .next (runTrig (.ssTrap t) .ss t s (fun s c sl k o =>
    modGroup s c sl (fun g => { g with bun := { g.bun with trap := some (k, (uniform o.en o.t).setWidth 7) } })))

/-- rti (R375): it is taken at the end of the bundle. -/
def execSsRti (t : Trig) (s : State) : Host.Outcome State Fault Refusal :=
  .next (runTrig (.ssRti t) .ss t s (fun s c sl _ _ =>
    modGroup s c sl (fun g => { g with bun := { g.bun with rti := true } })))

/-- tlbinv (R334) -/
def execSsTlbinv (t : Trig) (s : State) : Host.Outcome State Fault Refusal :=
  .next (runTrig (.ssTlbinv t) .ss t s (fun s c sl k o =>
    let n := placeOf s c sl
    ssEntry s c sl k o 0 (.tlbinv n (t.typ == 1) (ssAddr o) false [] [])))

/-- replay (R339) -/
def execSsReplay (t : Trig) (s : State) : Host.Outcome State Fault Refusal :=
  .next (runTrig (.ssReplay t) .ss t s (fun s c sl k o =>
    let n := placeOf s c sl
    ssEntry s c sl k o 0 (.replay n (t.typ == 1) (ssAddr o) false [] 0 false)))

/-- pub (R346) -/
def execSsPub (t : Trig) (s : State) : Host.Outcome State Fault Refusal :=
  .next (runTrig (.ssPub t) .ss t s (fun s c sl k o =>
    if ssLen o = 0 then ssFault s c sl 0x04 0 o
    else
      let n := placeOf s c sl
      ssEntry s c sl k o 0 (.pub n t.mod (ssAddr o) (ssLen o))))

/-- A lock operation (R343). -/
def lockTrigger (lock : Bool) (s : State) (c sl k : Nat) (o : Opnd) : State :=
  if ssLen o = 0 then ssFault s c sl 0x04 0 o
  else
    let n := placeOf s c sl
    ssEntry s c sl k o 0 (.iclock n lock (ssAddr o) (ssLen o))

/-- iclock (R343) -/
def execSsIclock (t : Trig) (s : State) : Host.Outcome State Fault Refusal :=
  .next (runTrig (.ssIclock t) .ss t s (fun s c sl k o => lockTrigger true s c sl k o))

/-- icunlock (R343) -/
def execSsIcunlock (t : Trig) (s : State) : Host.Outcome State Fault Refusal :=
  .next (runTrig (.ssIcunlock t) .ss t s (fun s c sl k o => lockTrigger false s c sl k o))

/-- A save of a team begins (R360): the groups of every team of its cluster stop at their next bundle boundary. Causes:
1 slice, 2 PREEMPT, 3 swap-out, 4 repair, 5 ctxsave. A save that has begun is not replaced. -/
def beginSave (s : State) (tid why : Nat) : State :=
  let t := team s tid
  (clusterTeams s t.grid t.cluster).foldl (fun s p =>
    if p.2.saveFor ≠ 0 then s
    else
      p.2.slots.foldl (fun s q => modGroup s p.2.core q.2 (askSave (cycleOf s p.2.core)))
        (modTeam s p.1 (fun t => { t with saveFor := why, retry := 0 }))) s

/-- ctxsave (R377) -/
def execSsCtxsave (t : Trig) (s : State) : Host.Outcome State Fault Refusal :=
  .next (runTrig (.ssCtxsave t) .ss t s (fun s c sl k o =>
    let g := group s c sl
    let r := (grid s (team s g.team).grid).lr
    if r.w * r.h ≠ 1 then ssFault s c sl 0x04 0 o
    else if ssAddr o % 256 ≠ 0 then ssFault s c sl 0x08 (ssAddr o) o
    else
      beginSave (ssEntry s c sl k o 0 (.ctxsave (ssAddr o) (!(uniform o.en o.a).getLsbD 0))) g.team 5))

/-- Where an image at a virtual address of a group stands, or the fault of a load of its header (R222, R378; log 23: an
absent page faults too). -/
def imagePlace (s : State) (c sl va : Nat) : Except Nat Nat :=
  let g := group s c sl
  let a : Access := { kind := .load, part := g.part, priv := g.hmode, elems := [{ lane := 0, off := 0, len := 8, va := va }] }
  match decideAccess s c g.team a true with
  | .ready a' => .ok (((a'.elems.head?).map (·.pa)).getD 0)
  | .fault cz _ _ => .error cz
  | _ => .error 0x0A

/-- Whether the header at a physical address is malformed (R362, R378): marker, version, stepping, reserved fields. -/
def headerBad (s : State) (c pa : Nat) : Bool :=
  let h (off n : Nat) : Nat := physRead s (some c) (pa + off) n
  h 0 4 != 0x49584D54 || h 4 1 != 1 || h 5 1 != 0xA1 || h 7 1 != 0 || h 28 4 != 0

/-- ctxload (R378): the checks against the slot; its status comes with the fill. A header that meets an uncorrectable error faults
(R191). -/
def execSsCtxload (t : Trig) (s : State) : Host.Outcome State Fault Refusal :=
  .next (runTrig (.ssCtxload t) .ss t s (fun s c sl k o =>
    let va := ssAddr o
    if va % 256 ≠ 0 then ssFault s c sl 0x08 va o
    else
      match imagePlace s c sl va with
      | .error cz => ssFault s c sl cz va o
      | .ok pa =>
        if readFails s pa Image.groupsAt then ssFault s c sl 0x19 va o
        else if !headerBad s c pa && featureAbsent s (imageHere s (dieOf c) (group s c sl).part va pa) then ssFault s c sl 0x0E va o
        else ssEntry s c sl k o 0 (.ctxload (cycleOf s c) va)))

/-! ### The ss entry that a step works on (selection: core, slot, place; the bank of the unit is the handler's) -/

/-- Where entry i of the group's ss queue stands: the bank and what it waits for. ss operations other than rdsys, wrsys and
trap are privileged, so they stand in the handler bank. -/
def ssWait (s : State) : Option Pend := (entryAt (group s (selAt s 0) (selAt s 1)) true 21 (selAt s 2)).map (·.pend)

/-- The wait of the entry replaced. -/
def setSsWait (s : State) (p : Pend) : State :=
  modGroup s (selAt s 0) (selAt s 1) (fun g => match entryAt g true 21 (selAt s 2) with
    | some e => setEntry g true 21 (selAt s 2) { e with pend := p }
    | none => g)

/-- The entry fills. -/
def fillSs (s : State) (v : Slice) : State :=
  modGroup s (selAt s 0) (selAt s 1) (fun g => fillEntry g (cycleOf s (selAt s 0)) true 21 (selAt s 2) (splat v))

/-! ### tlbinv (R334) -/

/-- Whether a TLB entry is dropped. -/
def tlbHit (p : Nat) (all : Bool) (va : Nat) (e : TlbEntry) : Bool := e.part == p && (all || tlbMatch e p va)

/-- Entries dropped from every TLB of the package, and the older translations with them (R333). -/
def tlbDrop (s : State) (p : Nat) (all : Bool) (va : Nat) : State :=
  { s with
    past := s.past.filter (fun e => !tlbHit p all va e)
    cores := s.cores.map (fun q => (q.1, { q.2 with tlb := q.2.tlb.filter (fun e => !tlbHit p all va e) }))
    dies := s.dies.map (fun q => (q.1, { q.2 with l2tlb := q.2.l2tlb.filter (fun e => !tlbHit p all va e) })) }

/-- The accesses of the package that are not performed: core, slot, access. -/
def openAccesses (s : State) : List (Nat × Nat × Access) :=
  s.cores.flatMap (fun q =>
    q.2.groups.flatMap (fun r =>
      ((allEntries r.2).filterMap (fun x => accOf x.2.2.2.pend) ++ r.2.streams.flatMap (fun u => u.2.unwritten)).map
        (fun a => (q.1, r.1, a))) ++
      q.2.mxops.filterMap (fun o => o.access.map (fun a => (q.1, o.slot, a))))

/-- The accesses that translated through an entry to be dropped. -/
def throughDropped (s : State) (p : Nat) (all : Bool) (va : Nat) : List (Nat × Nat × Nat) :=
  let pages := (s.past ++ s.cores.flatMap (fun q => q.2.tlb) ++ s.dies.flatMap (fun q => q.2.l2tlb)).filter (tlbHit p all va)
  ((openAccesses s).filter (fun x => x.2.2.part == p && x.2.2.stat == .ready &&
    x.2.2.elems.any (fun e => pages.any (fun t => tlbMatch t p e.va)))).map (fun x => (x.1, x.2.1, x.2.2.seq))

/-- The walks of a partition in progress: die + 8 × number. -/
def walksOf (s : State) (p : Nat) : List Nat :=
  s.dies.flatMap (fun q => (q.2.walks.filter (fun w => w.part == p)).map (fun w => q.1 + 8 * w.id))


/-- TLBINV_COMPLETE: the invalidation starts once earlier writes are done (R376); what the walks that it met have installed is
dropped once they have ended; and it completes once the accesses that translated through a dropped entry have been performed
(R334). -/
def execTlbinvComplete (s : State) : Host.Outcome State Fault Refusal :=
  let c := selAt s 0
  let sl := selAt s 1
  let p := (group s c sl).part
  match ssWait s with
  | some (.tlbinv n all va false _ _) =>
    if released s c sl n true then
      .next (tlbDrop (setSsWait s (.tlbinv n all va true (walksOf s p) (throughDropped s p all va))) p all va)
    else .next s
  | some (.tlbinv n all va true (w :: ws) accs) =>
    let now := walksOf s p
    if (w :: ws).all (fun w => !now.contains w) then
      .next (tlbDrop (setSsWait s (.tlbinv n all va true [] (accs ++ throughDropped s p all va))) p all va)
    else .next s
  | some (.tlbinv _ _ _ true [] accs) =>
    let open_ := (openAccesses s).map (fun x => (x.1, x.2.1, x.2.2.seq))
    .next (if accs.all (fun a => !open_.contains a) then fillSs s 0 else s)
  | _ => .next s

/-! ### replay (R337 to R339) -/

/-- A parked access leaves the parked set. -/
def unpark (s : State) (id : Nat) : State := { s with parked := s.parked.filter (fun p => p.id != id) }

/-- An entry of an access in the parked set, or of a restored group, is walked again: it is ready to be performed, parks anew, or
faults (R117, R339). A leased row makes it wait now (R274). -/
def walkAgain (s : State) (c sl u : Nat) (hand : Bool) (seq : Nat) : State :=
  let ask (a : Access) : Access := { (if a.kind = .streamRead then vectorAccess (group s c sl) a else a) with again := true }
  match (findAccess s c sl u hand seq).map ask with
  | none => s
  | some a =>
    match decideAccess s c (group s c sl).team a true with
    | .ready a' => putAccess (fillWalks s c a) c sl u hand a'
    | .park k v => parkOrHold (fillWalks s c a) c sl u hand a k v
    | .walks => s
    | .fault cz v l =>
      let s := fillWalks s c a
      if a.kind = .streamRead then
        (match entryOfSeq (group s c sl) hand u seq with
          | some i =>
            modGroup s c sl (fun g => match entryAt g hand u i with
              | some e => setEntry g hand u i { e with pend := .full, filled := cycleOf s c + 1, err := some (cz, v, l) }
              | none => g)
          | none => s)
      else
        let at_ := match entryOfSeq (group s c sl) hand u seq with
          | some i => ((entryAt (group s c sl) hand u i).map (·.addr)).getD 0
          | none =>
            (((portOf (group s c sl) false 18).q.find? (fun e => match e.pend with
              | .mx id => (core s c).mxops.any (fun o => o.id == id && o.slot == sl && o.seq == seq)
              | _ => false)).map (·.addr)).getD 0
        postLate (dropAccess s c sl u hand seq) c sl (dFault cz v u at_)

/-- One access of S is walked again (R339); a frozen channel resumes (R293). -/
def replayOne (s : State) (id : Nat) : State :=
  match s.parked.find? (fun p => p.id == id) with
  | none => s
  | some p =>
    let s := unpark s id
    match p.ref with
    | .entry c sl u hand seq => walkAgain s c sl u hand seq
    | .chan c ch =>
      modCore s c (fun k =>
        let q := tget {} k.chans ch
        if q.st = .frozen then
          { k with chans := tput k.chans ch { q with st := .landing, key := none, sent := coreTime s c } }
        else k)

/-- Whether a key holds an address of a partition. -/
def keyHolds (k : Key) (p va : Nat) : Bool := k.part == p && decide (k.base ≤ va) && decide (va < k.base + 2 ^ k.size)

/-- The core of a parked access. -/
def ParkRef.core (r : ParkRef) : Nat := match r with | .entry c _ _ _ _ => c | .chan c _ => c

/-- The faults of the copy channels that stand FROZEN in the images of a die, as a replay that covers them parks them again
(R299). -/
def frozenFaults (s : State) (d : Nat) (covers : Key → Bool) : List FbEntry :=
  (s.images.filter (fun im => dieOf im.team.core == d)).flatMap (fun im => im.chans.filterMap (fun q =>
    match q.2.key with
    | some k =>
      if q.2.st = .frozen ∧ covers k = true then
        some { cause := q.2.fcode, kind := kindCode (if q.2.side then .copyDst else .copySrc), key := k, part := k.part, chan := q.1
               origin := im.team.core + 2 ^ 14, team := im.tid, count := 1, va := q.2.fva, gtime := gtime s d }
      else none
    | none => none))

/-- S of a replay, and the fault buffer without the entries that it removes (R339): the numbers of the accesses, DROP as it
stood, and the state. Faults that arrive in the same cycle are outside S, and their entries stay (R340). -/
def fixS (s : State) (d p : Nat) (all : Bool) (va : Nat) : List Nat × Bool × State :=
  let mine := s.parked.filter (fun x =>
    x.die == d && (all || keyHolds x.key p va) && x.stamp != cycleOf s x.ref.core + 1)
  let drop := dropBefore s (die s d)
  let covers (k : Key) : Bool := all || keyHolds k p va
  let lost := (die s d).lost.filter (inThisCycle s)
  let s := removeFaults s d (fun e => covers e.key && !inThisCycle s e)
  let s := if all then lost.foldl (fun s e => faultBuffer s d e) (modDie s d (fun x => { x with drop := false, dropBy := none, lost := [] })) else s
  (mine.map (·.id), drop, (frozenFaults s d covers).foldl (fun s e => faultBuffer s d e) s)

/-- REPLAY_WALK: S is fixed when the replay may start; then one access of S is walked again. With no replay entry selected,
an access of the host's replay of the core's die is walked (R339, R423). -/
def execReplayWalk (s : State) : Host.Outcome State Fault Refusal :=
  let c := selAt s 0
  let sl := selAt s 1
  match ssWait s with
  | some (.replay n all va false _ _ _) =>
    if released s c sl n true then
      let (ids, drop, s') := fixS s (dieOf c) (group s c sl).part all va
      .next (setSsWait s' (.replay n all va true ids ids.length drop))
    else .next s
  | some (.replay n all va true (id :: rest) k drop) => .next (replayOne (setSsWait s (.replay n all va true rest k drop)) id)
  | some (.replay _ _ _ true [] _ _) => .next s
  | _ =>
    match (die s (dieOf c)).fbTodo with
    | [] => .next s
    | id :: rest => .next (replayOne (modDie s (dieOf c) (fun d => { d with fbTodo := rest })) id)

/-- REPLAY_COMPLETE: the entry fills with the size of S and DROP (R375). -/
def execReplayComplete (s : State) : Host.Outcome State Fault Refusal :=
  match ssWait s with
  | some (.replay _ _ _ true [] k drop) => .next (fillSs s (BitVec.ofNat 128 (k % 2 ^ 32 + drop.toNat * 2 ^ 32)))
  | _ => .next s

/-! ### pub (R346) -/

/-- The first addresses of the parts of a range that lie in one 4 KiB page. -/
def rangePages (va len : Nat) : List Nat :=
  (List.range ((va + len - 1) / 4096 - va / 4096 + 1)).map (fun i => (va / 4096 + i) * 4096)

/-- Whether a physical line is a line of a virtual range for the cores of die d, by the pages that translate: of a page with
REPL 1 each die has its own (R207). -/
def lineInRange (s : State) (c d p : Nat) (va len line : Nat) : Bool :=
  (rangePages va len).any (fun v =>
    match fetchOn s c d p true v with
    | .ok pa _ =>
      let l := line * 64
      decide (pa ≤ l) && decide (l < pa + 4096) &&
        decide (va / 64 * 64 ≤ v + (l - pa)) && decide (v + (l - pa) < va + len)
    | .fault _ => false)

/-- The cores that a scope reaches from a group's core (R346). -/
def scopeCores (s : State) (c sl : Nat) (scope : BitVec 3) : List Nat :=
  let all := s.cores.map (·.1)
  match scope.toNat with
  | 0 | 1 | 2 => [c]
  | 3 =>
    let t := team s (group s c sl).team
    (clusterTeams s t.grid t.cluster).map (fun p => p.2.core)
  | 4 => all.filter (fun x => dieOf x == dieOf c)
  | _ => all

/-- Whether a group has an active loop (R182). -/
def looping (g : Group) : Bool := decide (0 < remOf g.lcnt)

/-- The line that holds LTOP is kept in the fetch buffer while a loop is active (R178): where it is missing, it comes from its
home, if it translates and holds no error that a fetch would meet (R191). -/
def keepLoopLine (s : State) (c : Nat) (g : Group) : Group :=
  let line := g.ltop.toNat / 2
  if !looping g || (tfind g.fetch line).isSome then g
  else
    match fetchTranslate s c g.part g.hmode (line * 64) with
    | .ok pa _ =>
      if failingAt s (pa / 64 * 64) 64 then g
      else { g with fetch := tput g.fetch line (homeLine s (some c) (pa / 64)), flines := tput g.flines line (pa / 64) }
    | .fault _ => g

/-- A group loses the lines of a range from its fetch buffer, whatever virtual address it reached them by (R346). -/
def dropFetched (s : State) (from_ c p va len : Nat) (g : Group) : Group :=
  let gone (l : Nat × BitVec 512) : Bool :=
    (g.part == p && decide (va / 64 ≤ l.1) && decide (l.1 * 64 < va + len)) ||
      (match tfind g.flines l.1 with | some x => lineInRange s from_ (dieOf c) p va len x | none => false)
  keepLoopLine s c { g with fetch := g.fetch.filter (fun l => !gone l) }

/-- One core discards the lines of a range; a locked line is fetched again (R346), one in error by the fetch that needs it (R191). -/
def discardLines (s : State) (from_ p va len c : Nat) : State :=
  modCore s c (fun k => { k with
    icache := k.icache.filterMap (fun l =>
      if lineInRange s from_ (dieOf c) p va len l.1 then
        (if k.locks.any (fun x => x.2 == l.1) && !failingAt s (l.1 * 64) 64 then some (l.1, homeLine s (some c) l.1) else none)
      else some l)
    groups := k.groups.map (fun q => (q.1, dropFetched s from_ c p va len q.2)) })

/-- PUB_COMPLETE: every core within the scope has discarded the range (R346, R376). -/
def execPubComplete (s : State) : Host.Outcome State Fault Refusal :=
  let c := selAt s 0
  let sl := selAt s 1
  match ssWait s with
  | some (.pub n scope va len) =>
    if released s c sl n false then
      .next (fillSs ((scopeCores s c sl scope).foldl (fun s x => discardLines s c (group s c sl).part va len x) s) 0)
    else .next s
  | _ => .next s

/-! ### Locks (R342, R343) -/

/-- The physical lines of a virtual range widened to whole lines; none where a line fails its translation. -/
def rangeLines (s : State) (c p va len : Nat) : List (Option Nat) :=
  (List.range ((va + len - 1) / 64 - va / 64 + 1)).map (fun i =>
    match fetchTranslate s c p true ((va / 64 + i) * 64) with | .ok pa _ => some (pa / 64) | .fault _ => none)

/-- Lines of an instruction cache with a line filled: 2,048 at most, a locked one never evicted (R195, R343). -/
def icacheFill (v : Nat) (k : Core) (l : Nat) (d : BitVec 512) : Tbl (BitVec 512) :=
  let rest := k.icache.filter (fun x => x.1 != l)
  let free := rest.filter (fun x => !(k.locks.any (fun y => y.2 == x.1)))
  let rest := if rest.length < 2048 then rest
    else match free[v % free.length]? with | some x => rest.filter (fun y => y.1 != x.1) | none => rest
  tput rest l d

/-- A line is locked for a partition: it comes into the instruction cache if it is not there, over an unlocked line if the cache
is full (R195, R342). A line in error stays out, and the fetch that needs it meets the error (R191). -/
def lockLine (s : State) (c p l : Nat) : State :=
  let (v, s) := choose s (2 ^ 64)
  modCore s c (fun k =>
    let k' := { k with locks := k.locks ++ [(p, l)] }
    if (tfind k.icache l).isSome || failingAt s (l * 64) 64 then k' else { k' with icache := icacheFill v k' l (homeLine s (some c) l) })

/-- iclock (R343): the status and the state. A line that fails translation is found before the table's room is
(log 24). -/
def lockLines (s : State) (c p va len : Nat) : Nat × State :=
  let ls := rangeLines s c p va len
  if ls.any Option.isNone then (2, s)
  else
    let new := (distinct (ls.filterMap id)).filter (fun l => !(core s c).locks.contains (p, l))
    if 512 < (core s c).locks.length + new.length then (1, s)
    else (0, new.foldl (fun s l => lockLine s c p l) s)

/-- icunlock (R343): the number removed and the state. -/
def unlockLines (s : State) (c p va len : Nat) : Nat × State :=
  let ls := (rangeLines s c p va len).filterMap id
  let gone := (core s c).locks.filter (fun x => x.1 == p && ls.contains x.2)
  (gone.length, modCore s c (fun k => { k with locks := k.locks.filter (fun x => !gone.contains x) }))

end Sys2Proof.Machine
end

