-- ==== Sys2Proof/Machine/Cycle.lean ====
section
/-! DEFINITION. The steps of a core's cycle: issue, results, fetch, yields, walks, traps at a boundary, released accesses
and the end of the cycle (R26 to R29, R78, R79, R181, R224, R330, R337, R341, R369, R385, R416). -/

namespace Sys2Proof.Machine

/-! ### Issue -/

/-- BUNDLE_ISSUE (R26, R27, R73; selection: core). -/
def execBundleIssue (s : State) : Host.Outcome State Fault Refusal :=
  let c := selAt s 0
  if !mayIssue s c then .next s
  else
    match chosen s c with
    | none => .next s
    | some sl =>
      match nextBundle (group s c sl) with
      | none => .next s
      | some b =>
        .next { (modCore (issueBundle s c sl b) c (fun k => { k with issued := some sl, lastIssue := k.cycle + 1 })) with
          cur := some (c, sl) }

/-! ### Results -/

/-- Whether one operation in flight is written before another (R78). -/
def writesBefore (x y : InFlight) : Bool :=
  decide (x.due < y.due) || (x.due == y.due && (decide (x.issued < y.issued) || (x.issued == y.issued && decide (x.slot < y.slot))))

/-- The operation of a group whose result is written next. -/
def nextResult (g : Group) : Option InFlight :=
  g.pipe.foldl (fun o x => match o with | none => some x | some y => if writesBefore x y then some x else o) none

/-- Whether a wrsys of the group is due in this cycle: it takes effect before a flag is raised (R44). -/
def wrsysDue (g : Group) (cyc : Nat) : Bool :=
  (allEntries g).any (fun x => match x.2.2.2.pend with | .wrsys due _ _ => decide (due ≤ cyc) | _ => false)

/-- Whether a later-triggered operation of the same unit writes r in the same cycle: the value of this one is never seen (R78). -/
def outwritten (g : Group) (x : InFlight) : Bool :=
  g.pipe.any (fun y => y.unit == x.unit && y.hand == x.hand && y.due == x.due && writesBefore x y)

/-- The r port of a unit, and for rexp its b port, takes the result in the enabled lanes (R77, R78, R170, R171). -/
def writeResult (g : Group) (x : InFlight) : Group :=
  let p := portOf g x.hand x.unit
  let p := { p with
    r := if outwritten g x then p.r else merge x.lanes x.val p.r
    b := match x.bval with | some v => merge x.lanes v p.b | none => p.b }
  raiseFlags (setPort { g with pipe := g.pipe.erase x } x.hand x.unit p) x.slot x.addr x.flags

/-- FIXED_LATENCY_RESULT_WRITE: at the end of its cycle, after the issue of that cycle (R78; selection: core, slot). -/
def execFixedLatencyResultWrite (s : State) : Host.Outcome State Fault Refusal :=
  let c := selAt s 0
  let sl := selAt s 1
  let g := group s c sl
  match nextResult g with
  | some x =>
    if x.due ≤ cycleOf s c ∧ issueOver s c ∧ !wrsysDue g (cycleOf s c) then
      .next (modCore (modGroup s c sl (fun g => writeResult g x)) c (fun k => { k with closed := true }))
    else .next s
  | none => .next s

/-- Whether rdsys may read: FPSTAT and FEREC after every fixed-latency operation triggered earlier (R373). -/
def rdsysReady (g : Group) (due reg : Nat) : Bool := decide (2 ≤ reg) || g.pipe.all (fun x => decide (due ≤ x.issued + 2))

/-- The status of a ctxload, and the state: a queued image joins the restore list of the issuing die; a record that its
partition cannot read counts as another partition's (R378; log 13). -/
def ctxload (s : State) (c sl va : Nat) : Nat × State :=
  match imagePlace s c sl va with
  | .error _ => (2, s)
  | .ok pa =>
    if headerBad s c pa then (2, s)
    else
      let p := (group s c sl).part
      let d := dieOf c
      let rcd := physRead s (some c) (pa + 16) 8 % 2 ^ 52
      if devRead s d p (rcd + 19) 1 ≠ some p then (3, s)
      else
        (0, queueImage s d p rcd (physRead s (some c) (pa + 24) 4) (imageHere s d p va pa))

/-- RESULT_ENTRY_FILL: a pending entry fills (R79; selection: core, slot, unit, bank, place). -/
def execResultEntryFill (s : State) : Host.Outcome State Fault Refusal :=
  let c := selAt s 0
  let sl := selAt s 1
  let u := selAt s 2
  let hand := selAt s 3 == 1
  let i := selAt s 4
  let g := group s c sl
  let cyc := cycleOf s c
  let fill (s : State) (v : Row) : State := modGroup s c sl (fun g => fillEntry g cyc hand u i v)
  match entryAt g hand u i with
  | none => .next s
  | some e =>
    match e.pend with
    | .timed due => .next (if due ≤ cyc then fill s e.val else s)
    | .mem a => .next (if u = 11 ∨ u = 12 then fillAccess s c sl u hand i a else s)
    | .rdsys due reg =>
      .next (if due ≤ cyc ∧ rdsysReady g due reg then fill s (sysValue s c sl reg ((lane e.val 0).setWidth 64)) else s)
    | .wrsys due reg t =>
      .next (if due ≤ cyc then
          modGroup (fill s (sysValue s c sl reg 0)) c sl (fun g => sysWrite g reg (~~~e.dis) t)
        else s)
    | .barw b p =>
      let gen := (tget {} (team s g.team).nb b).gen
      .next (if barPassed gen p then fill s (splat (lo32 gen)) else s)
    | .iclock n lock va len =>
      if released s c sl n true then
        let (v, s) := if lock then lockLines s c g.part va len else unlockLines s c g.part va len
        .next (fill s (splat (BitVec.ofNat 128 v)))
      else .next s
    | .ctxload _ va =>
      let (v, s) := ctxload s c sl va
      .next (fill s (splat (BitVec.ofNat 128 v)))
    | _ => .next s

/-- WATERMARK_RELEASE: an access held by the compare is let go, or its channel was abandoned (R224, R225, R234). -/
def execWatermarkRelease (s : State) : Host.Outcome State Fault Refusal :=
  let c := selAt s 0
  let sl := selAt s 1
  let u := selAt s 2
  let hand := selAt s 3 == 1
  let i := selAt s 4
  match (entryAt (group s c sl) hand u i).map (fun (e : QEntry) => e.pend) with
  | some (.mem a) =>
    if a.held && !(core s c).landed then
      let ready := a.stat == .ready
      match (if ready then compareAccess s c a.part a.elems else compareAbsent s c (group s c sl).team a) with
      | .held => .next s
      | .pass =>
        let s := putAccess s c sl u hand { stampPast s c (group s c sl).team a with held := false, sent := coreTime s c }
        .next (if ready then s else walkAgain s c sl u hand a.seq)
      | .abandoned =>
        let (fva, ln) := abandonedAt s c (if ready then a else { a with elems := absentElems s c (group s c sl).team a })
        .next (if a.kind = .streamRead then vectorFault s c sl u i 0x18 fva ln else accessFault s c sl u hand i 0x18 fva)
    else .next s
  | _ => .next s

/-- HIDDEN_WRITE_REVEAL (R241; selection: die). -/
def execHiddenWriteReveal (s : State) : Host.Outcome State Fault Refusal := .next (revealOne s (selAt s 0))

/-! ### Fetch (R29, R195, R341, R345) -/

/-- Whether a group would take the next bundle now, so that a fetch fault is taken (R341). -/
def atBoundary (g : Group) : Bool :=
  !g.ended && !g.busy && !g.saving && !(g.yielding && decide (0 < g.yieldLeft)) && notHeld g

/-- Whether a group's program counter is the furthest advanced of its team (R29). -/
def furthest (s : State) (c : Nat) (g : Group) : Bool :=
  (team s g.team).slots.all (fun p => (group s c p.2).ended || decide ((group s c p.2).pc.toNat ≤ g.pc.toNat))

/-- A line in the fetch buffer of a group, with its physical line. -/
def takeLine (g : Group) (line l : Nat) (d : BitVec 512) : Group :=
  { g with fetch := tput g.fetch line d, flines := tput g.flines line l }

/-- A fetched line goes to the group that asked; a line further on to every group of its team that may fetch it (R29). -/
def deliverLine (s : State) (c sl n line l : Nat) (t : TlbEntry) (d : BitVec 512) : State :=
  if n = 0 then modGroup s c sl (fun g => takeLine g line l d)
  else
    (team s (group s c sl).team).slots.foldl (fun s p =>
      modGroup s c p.2 (fun g => if t.attr.priv && !g.hmode then g else takeLine g line l d)) s

/-- INSTRUCTION_FETCH_FILL: the line of the group's next bundle, or the n-th line after it, which the furthest advanced group of a
team prefetches for the whole team (R29), comes from the instruction cache, or from its home into it (selection: core, slot, n).
Whether a line that the cache held has been evicted is open (R345), unless it is locked. -/
def execInstructionFetchFill (s : State) : Host.Outcome State Fault Refusal :=
  let c := selAt s 0
  let sl := selAt s 1
  let n := selAt s 2
  let g := group s c sl
  let line := (g.pc.toNat / 2 + n) % 2 ^ 46
  if (group? s c sl).isNone || g.ended || (n != 0 && !furthest s c g) then .next s
  else
    match fetchTranslate s c g.part g.hmode (line * 64) with
    | .fault cause =>
      .next (if n = 0 && atBoundary g && (tfind g.fetch line).isNone && (g.hmode || g.redo || g.late.isEmpty) then
          fetchTrap (fetchWalk s c g.part (line * 64)) c sl cause
        else s)
    | .ok pa t =>
      let s := fetchWalk s c g.part (line * 64)
      let l := pa / 64
      let (v, s) := choose s (2 ^ 64)
      let held := if v % 2 = 0 || (core s c).locks.any (fun x => x.2 == l) then tfind (core s c).icache l else none
      match held with
      | some d => .next (deliverLine s c sl n line l t d)
      | none =>
        if failingAt s (l * 64) 64 then
          .next (if n = 0 && atBoundary g && (g.hmode || g.redo || g.late.isEmpty) then fetchTrap s c sl 0x19 else s)
        else
          let d := homeLine s (some c) l
          let s := modCore (l2Fill s l 0) c (fun k => { k with icache := icacheFill (v / 2) k l d })
          .next (deliverLine s c sl n line l t d)

/-! ### Yields (R181) -/

/-- YIELD_EXPIRY (selection: core, slot). -/
def execYieldExpiry (s : State) : Host.Outcome State Fault Refusal :=
  let g := group s (selAt s 0) (selAt s 1)
  .next (if g.yielding && g.yieldLeft == 0 then modGroup s (selAt s 0) (selAt s 1) (fun g => { g with yielding := false }) else s)

/-! ### Walks and the fault buffer (R330, R337) -/

/-- A push whose walk found a fault writes nothing, and its stream's position stays (R234); a stream that the same bundle started
since is another one (R230). -/
def unpush (s : State) (c sl u : Nat) (a : Access) : State :=
  if a.kind = .streamWrite then
    modGroup s c sl (fun g =>
      let st := tget {} g.streams u
      if g.bun.seq ≤ st.seq then g
      else { g with streams := tput g.streams u { st with pos := st.pos - 32 * streamPer st } })
  else s

/-- What the walk of an access decides, for the slot that waits for it (R222, R330, R369). -/
def walkDone (s : State) (w : Walk) (a : Access) : State :=
  match decideAccess s w.core (group s w.core w.slot).team a true with
  | .ready a' => putAccess (fillWalks s w.core a) w.core w.slot w.unit w.hand a'
  | .park k v => parkOrHold (fillWalks s w.core a) w.core w.slot w.unit w.hand a k v
  | .walks => s
  | .fault cz v l =>
    let s := leaseEvent (fillWalks s w.core a) w.core a.part cz
    modGroup (unpush (dropAccess s w.core w.slot w.unit w.hand w.seq) w.core w.slot w.unit a) w.core w.slot (fun g =>
      { g with bun := { g.bun with faults := { slot := w.bslot, cause := cz, fva := v, lane := l } :: g.bun.faults } })

/-- PAGE_WALK_COMPLETE: the walks of an access end, and its slot is decided (R330, R369; selection: die, walk). -/
def execPageWalkComplete (s : State) : Host.Outcome State Fault Refusal :=
  let d := selAt s 0
  match (die s d).walks.find? (fun w => w.id == selAt s 1) with
  | none => .next s
  | some w =>
    let s := modDie s d (fun x => { x with walks := x.walks.filter (fun y => y.id != w.id) })
    let s := match findAccess s w.core w.slot w.unit w.hand w.seq with | some a => walkDone s w a | none => s
    let s := modGroup s w.core w.slot (fun g => { g with bun := { g.bun with undecided := g.bun.undecided.erase w.bslot } })
    .next (settle s w.core w.slot)

/-- The record of kind B for a fault-buffer entry (R368, R370). -/
def bFault (e : FbEntry) (drop : Bool) : LateFault :=
  { bKind := true, cause := 0x10 + e.cause, fva := e.va
    stage := BitVec.ofNat 64 (e.origin % 2 ^ 16 + e.chan % 2 ^ 8 * 2 ^ 16 + e.shown % 2 ^ 24 * 2 ^ 24 + drop.toNat * 2 ^ 53 +
      keySize e.key.size * 2 ^ 56 + e.kind % 8 * 2 ^ 59) }

/-- Whether a group can take a delivered fault now (R337). -/
def canTake (s : State) (c sl : Nat) : Bool :=
  let g := group s c sl
  !g.ended && !g.hmode && !g.saving

/-- How the oldest entry of a fault buffer is delivered: to a slot of a core, not at all, or not yet (R337). -/
inductive Delivery where
  | to (core slot : Nat)
  | gone
  | waits
  deriving DecidableEq, Repr

/-- The delivery of an entry to a slot, if its group can take it. -/
def deliverTo (s : State) (c sl : Nat) : Delivery := if canTake s c sl then .to c sl else .waits

/-- The lowest-numbered resident group of a team that has not ended takes an entry (R337). -/
def deliverTeam (s : State) (tid : Nat) : Delivery :=
  let t := team s tid
  match (liveGids t).findSome? (fun i => tfind t.slots i) with
  | some sl => deliverTo s t.core sl
  | none => .gone

/-- Where an entry goes (R337): to its origin group; if that has ended, or for a copy channel, to the lowest-numbered group of
the team that has not ended. The entry of a saved group waits for it; that of a team that has retired, or whose groups have all ended,
goes nowhere, saved or not. -/
def deliveryOf (s : State) (e : FbEntry) : Delivery :=
  match tfind s.teams e.team with
  | none =>
    if s.images.any (fun im => im.tid == e.team && !im.team.retired && !(liveGids im.team).isEmpty) then .waits else .gone
  | some t =>
    if e.origin.testBit 14 || t.endedMask.getLsbD e.gid then deliverTeam s e.team
    else
      match tfind t.slots e.gid with
      | some sl => deliverTo s t.core sl
      | none => .gone

/-- FAULT_BUFFER_DELIVERY: the scheduler Newt delivers the oldest entry (R337; selection: die). -/
def execFaultBufferDelivery (s : State) : Host.Outcome State Fault Refusal :=
  let d := selAt s 0
  match (die s d).fb with
  | [] => .next s
  | e :: _ =>
    if modeOf s .fault d ≠ 0 then .next s
    else
      match deliveryOf s e with
      | .waits => .next s
      | .gone => .next (popFault s d)
      | .to c sl => .next (postLate (popFault s d) c sl (bFault (asRemoved s d e) (die s d).drop))

/-- DEFERRED_TRAP_ENTRY: a fault of kind D or B is taken at the group's bundle boundary, once the bundle that rti
re-performs is done (R369, R375; selection: core, slot). -/
def execDeferredTrapEntry (s : State) : Host.Outcome State Fault Refusal :=
  let c := selAt s 0
  let sl := selAt s 1
  let g := group s c sl
  match g.late with
  | [] => .next s
  | f :: rest =>
    if g.ended || g.busy || g.hmode || g.redo || g.saving then .next s
    else .next (lateTrap (modGroup s c sl (fun g => { g with late := rest })) c sl f)

/-! ### Errors (R191) -/

/-- UNCORRECTABLE_ERROR: a unit of a memory that the device corrects fails (R191; selection: address). The addresses of the residue
banks are those of bankUnitAddr. -/
def execUncorrectableError (s : State) : Host.Outcome State Fault Refusal :=
  let a := selAt s 0
  let bank := decide (2 ^ 52 ≤ a) && decide (a < bankUnitAddr 576 0 0) && a % 16 == 0
  if bank || ((regionOf a == 0 || regionOf a == 8) && physOk s a) then
    let u := if bank then a else (unitAt a).1
    .next (if s.failing.contains u then s else { s with failing := s.failing ++ [u] })
  else .next s

/-! ### The end of a cycle -/

/-- What keeps a group from issuing, as the events of R385 see it. -/
inductive Parking where
  | watermark | barrier | counter | no
  deriving DecidableEq, Repr

/-- How the read of slot i parks its group (R385, R390). -/
def slotParking (s : State) (c sl : Nat) (g : Group) (b : Bundle) (i : Nat) : Parking :=
  let m := slotFields b.word i
  if slotMask g b i = 0 then .no
  else if vRowCompare s c g b i = .held then .watermark
  else
    let byTrig : Parking := match trigFieldsOf m with
      | some (.sy, op, _) =>
        if trigStalls s c g (latched s c sl g b m.dunit.toNat) .sy op then .barrier else .no
      | _ => .no
    match readsQueue m.src with
    | some u =>
      if readsNow b i then
        match (port g u).q with
        | e :: _ =>
          (match e.pend with
            | .mem a => if a.held then .watermark else byTrig
            | .wmwait _ _ => .watermark
            | .bar _ | .barw _ _ | .cbar => .barrier
            | .twait _ _ | .mwait _ _ _ => .counter
            | _ => byTrig)
        | [] => byTrig
      else byTrig
    | none => byTrig

/-- How a group is parked. -/
def groupParking (s : State) (c sl : Nat) (g : Group) : Parking :=
  if g.ended || g.saving || g.busy then .no
  else
    match nextBundle g with
    | none => .no
    | some b =>
      if (issueFault s c sl g b).isSome then .no
      else ((openSlots b).map (slotParking s c sl g b)).foldl (fun x y => if x = .no then y else x) .no

/-- Events of a whole cycle, as its start finds them (R385). -/
def cycleEvents (s : State) (c : Nat) : List (Nat × Option Nat × Nat) :=
  let gs := (core s c).groups
  let ofKind (p : Parking) (code : Nat) : List (Nat × Option Nat × Nat) :=
    (gs.filter (fun x => groupParking s c x.1 x.2 == p)).map (fun x => (code, some x.2.part, 1))
  (0, none, 1) :: (if (eligibleSlots s c).isEmpty then [(3, none, 1)] else []) ++ ofKind .watermark 4 ++ ofKind .barrier 5 ++
    ofKind .counter 6 ++ ((stepping s c).toList.map (fun p => (0xA, some p, 1))) ++
    (gs.filter (fun x => atBoundary x.2 && (nextBundle x.2).isNone)).map (fun x => (0xE, some x.2.part, 1))

/-- A counter after a cycle (R384, R385). -/
def pmcNext (sel : BitVec 32) (v : BitVec 64) (evs : List (Nat × Option Nat × Nat)) : BitVec 64 :=
  let evt := (sel.extractLsb' 0 8).toNat
  let p := (sel.extractLsb' 8 3).toNat
  if sel.getLsbD 12 && decide (evt < 16) then
    v + BitVec.ofNat 64 ((evs.filter (fun e => e.1 == evt && (!sel.getLsbD 11 || e.2.1 == some p))).foldl (fun n e => n + e.2.2) 0)
  else v

/-- Whether something of a group is still to come about in this cycle: a result, an entry of a fixed time, a yield. -/
def dueNow (g : Group) (cyc : Nat) : Bool :=
  g.pipe.any (fun x => decide (x.due ≤ cyc)) || (g.yielding && g.yieldLeft == 0) ||
    (allEntries g).any (fun x => waitDue cyc x.2.2.2 || match x.2.2.2.pend with
      | .timed due => decide (due ≤ cyc)
      | .rdsys due reg => decide (due ≤ cyc) && rdsysReady g due reg
      | .wrsys due _ _ => decide (due ≤ cyc)
      | _ => false)

/-- An access to another package that something keeps from being performed is not on its way yet (R407). -/
def stampSent (s : State) (c sl : Nat) (a : Access) : Access :=
  if a.stat == .ready && a.elems.any (fun e => remoteAt s e.pa) && (a.held || !orderOk s c sl a) then { a with sent := coreTime s c }
  else a

/-- The pushed vectors of a stream, stamped: only the oldest can be on its way (R231). -/
def stampPushes (s : State) (c sl : Nat) : List Access → List Access
  | [] => []
  | a :: t => stampSent s c sl a :: t.map (fun b => { b with sent := coreTime s c })

/-- The access of an engine operation, stamped: one that waits for its turn or its start has sent nothing (R250, R266, R407). -/
def stampMx (s : State) (c : Nat) (o : MxOp) : MxOp :=
  { o with access := o.access.map (fun a => if mxWaits s c o then { a with sent := coreTime s c } else stampSent s c o.slot a) }

/-- The accesses of a group's queue and streams, stamped. -/
def stampGroup (s : State) (c sl : Nat) (g : Group) : Group :=
  let ports (t : Tbl Port) : Tbl Port := t.map (fun p => (p.1, { p.2 with q := p.2.q.map (fun e => match e.pend with
    | .mem a => { e with pend := .mem (stampSent s c sl a) }
    | _ => e) }))
  { g with
    ports := ports g.ports, hports := ports g.hports
    streams := g.streams.map (fun p => (p.1, { p.2 with unwritten := stampPushes s c sl p.2.unwritten })) }

/-- A group as a cycle ends: the cycles that it has been eligible without issuing (R27), its yield (R181), and what its waits on
channels and counters find at the start of the next one (R396, R398). -/
def groupCycle (s : State) (c : Nat) (k : Core) (sl : Nat) (g : Group) : Group :=
  let sy := portOf g false 20
  setPort { g with
      waited := if k.issued ≠ some sl ∧ k.ready.contains sl then g.waited + 1 else 0
      yieldLeft := g.yieldLeft - 1 }
    false 20 { sy with q := sy.q.map (fun e => meetTwait s c (k.cycle + 1) (meetWmwait { k with cycle := k.cycle + 1 } e)) }

/-- A channel at the start of a cycle: its watermark, and the pointers of its ring, are those of the compares of the cycle (R291,
R297). While its start, an earlier channel or a leased row keeps it, or it does not land, its next element is not on its way (R250,
R292, R274, R407). -/
def chanCycle (s : State) (c : Nat) (q : Chan) : Chan :=
  let waits := q.st != .landing || q.wov || q.wls || !startReady s c q.wait q.minT
  let q := { q with cwm0 := q.cwm, sent := if waits then coreTime s c else q.sent }
  if ringBound q then
    let r := ringNow s q
    { r with landLog := if r.wp0 = q.wp0 then q.landLog else (r.wp0.toNat, coreTime s c) :: q.landLog }
  else q

/-- A core at the start of the next cycle. What cpwm and cpstat report in it is what its channels hold now (R295). -/
def coreCycle (s : State) (c : Nat) (k : Core) : Core :=
  let k : Core := { k with
    pmc := (List.range 16).foldl (fun t i => tput t i (pmcNext (tget 0 k.pmsel i) (tget 0 k.pmc i) k.events)) k.pmc
    chans := k.chans.map (fun q => (q.1, chanCycle s c q.2))
    mxops := k.mxops.map (stampMx s c) }
  { k with
    events := [], issued := none, closed := false, landed := false, cycle := k.cycle + 1
    shown := k.chans.map (fun q => (q.1, (wmWord q.2, statWord q.2)))
    groups := k.groups.map (fun p => (p.1, groupCycle s c k p.1 (stampGroup s c p.1 p.2))) }

/-- The groups that the start of a cycle finds eligible (R26, R28), and its events (R385). -/
def startCycle (s : State) (c : Nat) : State :=
  let s := modCore s c (fun k => { k with ready := (k.groups.filter (fun p => eligible s c p.1 p.2)).map (·.1) })
  modCore s c (fun k => { k with events := cycleEvents s c })

/-- CORE_CYCLE: a core's cycle ends once everything that falls in it has come about: its results, its compares, the ends of its
waits and its arrivals among it; its queue then loses a head that was taken, and what was freed in it counts (R291, R357, R385, R393,
R396, R398, R450; selection: core). -/
def execCoreCycle (s : State) : Host.Outcome State Fault Refusal :=
  let c := selAt s 0
  let k := core s c
  if !coreRuns s c || !issueOver s c || releaseDue s c || k.groups.any (fun p => dueNow p.2 k.cycle || fallsNow s c p.1) then .next s
  else
    let s := endFreed (endQueueCycle s c) c
    .next (startCycle (evictTlbs (modCore s c (coreCycle s c)) c) c)

end Sys2Proof.Machine
end

