-- ==== Sys2Proof/Machine/Sched.lean ====
section
/-! DEFINITION. Freeing, retirement and completion, and the dispatchers: taking records and placing teams (R20 to R25, R33,
R200, R298, R308, R317, R318, R344, R349, R351 to R358). -/

namespace Sys2Proof.Machine

/-! ### Partitions and grids (R351, R361) -/

/-- PCMAX of a partition. -/
def pcMax (s : State) (p : Nat) : Nat := ((part s p).pquota.extractLsb' 19 2).toNat

/-- TSLICE of a partition, in ticks. -/
def sliceTicks (s : State) (p : Nat) : Nat := ((part s p).pquota.extractLsb' 0 16).toNat * 1024

/-- The resident teams of a grid that have not retired. -/
def residentTeams (s : State) (key : Nat) : List (Nat × Team) := s.teams.filter (fun p => p.2.grid == key && !p.2.retired)

/-- A grid is suspended once PREEMPT has named it and every placed team is saved (R361, R367). -/
def suspended (s : State) (key : Nat) : Bool :=
  (grid s key).preempt && (grid s key).ending.isNone && (residentTeams s key).isEmpty

/-- A PREEMPT that meets the retirement of its grid's last team posts status 6 (R361). -/
def postEnded (s : State) (d p rcd : Nat) : State :=
  (postRing s (postKey p) p d ((gtime s d).toNat + rcd % 2 ^ 52 * 2 ^ 64 + statusWord s d 6 * 2 ^ 128)).1

/-- Resources of a core have been freed: placements see them from the next cycle on (R357). -/
def noteFreed (s : State) (c : Nat) (f : Freed) : State := modCore s c (fun k => { k with freed := f :: k.freed })

/-- What a team frees on its core besides its groups' slots and g blocks (R24). -/
def freedOf (t : Team) : Freed := { part := t.part, rows := t.rowRuns, spad := [t.spad], oba := [t.oba], obb := [t.obb] }

/-! ### Freed resources (R23, R24, R298) -/

/-- Whether every operation that a group started has completed (R23). -/
def opsDone (s : State) (c sl : Nat) (g : Group) : Bool :=
  g.pipe.isEmpty && !(allEntries g).any (fun x => isPending x.2.2.2) && g.streams.all (fun p => p.2.unwritten.isEmpty) &&
    !(core s c).mxops.any (fun o => o.slot == sl)

/-- The channels that a team owns on its core. -/
def ownedChans (s : State) (tid : Nat) : List (Nat × Chan) := (core s (team s tid).core).chans.filter (fun q => q.2.own == some tid)

/-- Whether a channel of a team is still landing a copy: its team does not retire (R298). -/
def stillLanding (s : State) (tid : Nat) : Bool := (ownedChans s tid).any (fun q => q.2.st == .landing && !ringBound q.2)

/-- The locks of a partition on a core are released once it has no team left there (R344). -/
def releaseLocks (s : State) (c p : Nat) : State :=
  if s.teams.any (fun t => t.2.core == c && t.2.part == p && !t.2.retired) then s
  else modCore s c (fun k => { k with locks := k.locks.filter (fun l => l.1 != p) })

/-- The banks of a pair that a team owns become EMPTY with no owner (R267). -/
def releaseBanks (s : State) (c tid : Nat) : State :=
  modCore s (leaderOf c) (fun k => { k with banks := k.banks.map (fun b => if b.2.owner = some tid then (b.1, {}) else b) })

/-- The resources of a cluster are freed on all of its cores once every team of it has retired (R24). -/
def freeCluster (s : State) (key cid : Nat) : State :=
  let ts := clusterTeams s key cid
  if ts.all (fun p => p.2.retired) then
    let s := ts.foldl (fun s p => noteFreed s p.2.core (freedOf p.2)) s
    { s with
      teams := s.teams.filter (fun p => !(p.2.grid == key && p.2.cluster == cid))
      clusters := s.clusters.filter (fun b => !(b.grid == key && b.cluster == cid)) }
  else s

/-- A grid ends with the retirement of its last team, on a core; a PREEMPT of the same cycle posts status 6 (R25, R361). -/
def endGrid (s : State) (key c : Nat) : State :=
  let g := grid s key
  let s := skeinFinish (modGrid s key (fun g => { g with ending := some (gtime s g.die), endAt := (c, cycleOf s c) }))
    g.src.part g.src.rcd
  match g.preAt with
  | some (d, cyc) =>
    if g.preempt && tfind cyc c == some (cycleOf s c) then
      postEnded (modGrid s key (fun g => { g with preempt := false })) d g.src.part g.src.rcd
    else s
  | none => s

/-- A team retires, and its grid with the last one (R24, R25, R298). -/
def retireTeam (s : State) (tid : Nat) : State :=
  let t := team s tid
  if t.retired || !t.slots.isEmpty || stillLanding s tid || (tfind s.teams tid).isNone then s
  else
    let own := ownedChans s tid
    let s := own.foldl (fun s q =>
      if q.2.st == .armed || q.2.st == .frozen || ringBound q.2 then abandonChan s t.core q.1 else s) s
    let w := own.foldl (fun w q => tmax w q.2.lastW) 0
    let s := own.foldl (fun s q => modChan s t.core q.1 (fun _ => {})) s
    let s := releaseBanks s t.core tid
    let s := modTeam s tid (fun t => { t with retired := true, retry := 0 })
    let s := modGrid s t.grid (fun g => { g with retired := g.retired + 1, lastW := tmax g.lastW w })
    let g := grid s t.grid
    let s := if g.retired = g.lr.teams then endGrid s t.grid t.core else s
    releaseLocks (freeCluster s t.grid t.cluster) t.core t.part

/-- A wait of a channel on a group whose slot is freed becomes a wait for the tick of R250. -/
def dropWait (sl : Nat) (t : BitVec 64) (q : Chan) : Chan :=
  match q.wait with | some (x, _) => if x = sl then { q with wait := none, minT := t } else q | none => q

/-- GROUP_SLOT_FREE: the slot and g blocks of an ended group are freed (R23); a free slot tries the retirement of the teams
of the core whose channels have landed since (selection: core, slot). -/
def execGroupSlotFree (s : State) : Host.Outcome State Fault Refusal :=
  let c := selAt s 0
  let sl := selAt s 1
  match group? s c sl with
  | none => .next ((s.teams.filter (fun p => p.2.core == c)).foldl (fun s p => retireTeam s p.1) s)
  | some g =>
    if g.ended && opsDone s c sl g then
      let s := modCore s c (fun k => { k with
        groups := tdel k.groups sl, chans := k.chans.map (fun q => (q.1, dropWait sl (g.pwt + 2) q.2)) })
      let s := noteFreed s c { part := g.part, slots := [sl], blocks := [(g.gbase, g.gcount / 8)] }
      let t := team s g.team
      let s := modTeam s g.team (fun t => { t with slots := tdel t.slots g.gid })
      .next (retireTeam (modGrid s t.grid (fun x => { x with lastW := tmax x.lastW g.pwt })) g.team)
    else .next s

/-- GRID_COMPLETION: the steps of R318 for a grid that has retired, once its writes have reached their W; the dispatcher
forgets it (R361; selection: partition, record address). -/
def execGridCompletion (s : State) : Host.Outcome State Fault Refusal :=
  let key := gridKey (selAt s 0) (selAt s 1)
  match tfind s.grids key with
  | none => .next s
  | some g =>
    if g.ending.isSome && decide ((g.lastW + 2).toNat ≤ (gtime s g.die).toNat) then
      .next { finishRecord s g.die g.src.part g.src.rcd g.lr 0 with grids := tdel s.grids key }
    else .next s

/-! ### Fit (R352, R356, R357) -/

/-- The lowest free run of n of `total` units beside the runs in use. -/
def firstFit (used : List (Nat × Nat)) (total n : Nat) : Option Nat :=
  if n = 0 then some 0
  else
    let ok (x : Nat) : Bool := decide (x + n ≤ total) && used.all (fun r => decide (x + n ≤ r.1) || decide (r.1 + r.2 ≤ x))
    ((0 :: used.map (fun r => r.1 + r.2)).filter ok).foldl
      (fun o x => match o with | none => some x | some y => some (min x y)) none

/-- Runs of n units for each of a list of groups, in order. -/
def runsFor (used : List (Nat × Nat)) (total n : Nat) : List Nat → Option (List (Nat × Nat))
  | [] => some []
  | i :: rest =>
    match firstFit used total n with
    | none => none
    | some x => (runsFor (if n = 0 then used else (x, n) :: used) total n rest).map (fun l => (i, x) :: l)

/-- What a team needs of a core. -/
structure Need where
  part : Nat
  gids : List Nat
  blocks : Nat
  rows : Nat
  spad : Nat
  oba : Nat
  obb : Nat
  deriving DecidableEq, Repr

/-- What a team of a record needs. -/
def needOf (lr : LaunchRec) : Need :=
  { part := lr.part, gids := List.range lr.groups, blocks := lr.gcount / 8, rows := lr.vrows, spad := lr.spad / 256, oba := lr.oba / 256
    obb := lr.obb / 256 }

/-- The six counts of a need: slots, g blocks, rows, scratchpad, operand buffers A and B. -/
def Need.counts (n : Need) : List Nat :=
  [n.gids.length, n.gids.length * n.blocks, n.gids.length * n.rows, n.spad, n.oba, n.obb]

/-- What a core has of each. -/
def coreTotals : List Nat := [16, 128, 512, 2048, 256, 256]

/-- The teams that hold resources of a core. -/
def teamsOn (s : State) (c : Nat) : List Team := (s.teams.filter (fun p => p.2.core == c)).map (·.2)

/-- What stands on a core for a test of this cycle: what its groups and teams hold, and what was freed in the cycle (R357). -/
def standingOn (s : State) (c : Nat) : List Freed :=
  (core s c).freed ++ (core s c).groups.map (fun p =>
    { part := p.2.part, slots := [p.1], blocks := [(p.2.gbase, p.2.gcount / 8)] }) ++ (teamsOn s c).map freedOf

/-- What the partitions that f selects hold of each on a core. -/
def heldCounts (s : State) (c : Nat) (f : Nat → Bool) : List Nat :=
  let hs := (standingOn s c).filter (fun x => f x.part)
  let sum (g : Freed → List (Nat × Nat)) : Nat := ((hs.flatMap g).map (·.2)).foldl (· + ·) 0
  [(hs.flatMap (·.slots)).length, sum (·.blocks), sum (·.rows), sum (·.spad), sum (·.oba), sum (·.obb)]

/-- The quotas of a partition (R351). -/
def quotas (s : State) (p : Nat) : List Nat :=
  let q := (part s p).pquota
  let o := (part s p).pobq
  [(q.extractLsb' 59 5).toNat, (q.extractLsb' 51 8).toNat, (q.extractLsb' 41 10).toNat, (q.extractLsb' 29 12).toNat,
    (o.extractLsb' 16 9).toNat, (o.extractLsb' 0 9).toNat]

/-- Whether every count of the first list and the second together stays within the third. -/
def within (a b lim : List Nat) : Bool := (a.zip (b.zip lim)).all (fun x => decide (x.1 + x.2.1 ≤ x.2.2))

/-- Where a team would stand on a core. -/
structure Alloc where
  slots : List (Nat × Nat)
  blocks : List (Nat × Nat)
  rows : List (Nat × Nat)
  spad : Nat
  oba : Nat
  obb : Nat
  deriving DecidableEq, Repr

/-- How a candidate core or rectangle stands (R357). -/
inductive Fit (α : Type) where
  | fits (a : α)
  | run
  | quota
  | lack
  deriving DecidableEq, Repr

/-- The runs that a team takes on a core (R356), if each is there. -/
def allocOn (s : State) (c : Nat) (n : Need) : Option Alloc :=
  let hs := standingOn s c
  let used (g : Freed → List (Nat × Nat)) : List (Nat × Nat) := (hs.flatMap g).filter (fun r => r.2 != 0)
  let slots := ((List.range 16).filter (fun i => !hs.any (fun x => x.slots.contains i))).take n.gids.length
  match runsFor (used (·.blocks)) 128 n.blocks n.gids, runsFor (used (·.rows)) 512 n.rows n.gids, firstFit (used (·.spad)) 2048 n.spad,
    firstFit (used (·.oba)) 256 n.oba, firstFit (used (·.obb)) 256 n.obb with
  | some b, some r, some x, some y, some z =>
    if slots.length = n.gids.length then some { slots := n.gids.zip slots, blocks := b, rows := r, spad := x, oba := y, obb := z }
    else none
  | _, _, _, _, _ => none

/-- How a core stands to a team. -/
def fitCore (s : State) (c : Nat) (n : Need) : Fit Alloc :=
  if !within n.counts (heldCounts s c (fun _ => true)) coreTotals then .lack
  else if !within n.counts (heldCounts s c (fun p => p == n.part)) (quotas s n.part) then .quota
  else match allocOn s c n with | some a => .fits a | none => .run

/-- How a rectangle stands to a cluster: every core must fit its team (R356). -/
def fitAll (s : State) : List (Nat × Need) → Fit (List (Nat × Alloc))
  | [] => .fits []
  | (c, n) :: rest =>
    match fitCore s c n, fitAll s rest with
    | .fits a, .fits l => .fits ((c, a) :: l)
    | .lack, _ => .lack
    | _, .lack => .lack
    | .quota, _ => .quota
    | _, .quota => .quota
    | _, _ => .run

/-! ### Candidates (R354, R355) -/

/-- The cores of a rectangle by its origin, in the order of the team ids of its cluster (R21). -/
def rectCores (c w h : Nat) : List Nat := (List.range h).flatMap (fun y => (List.range w).map (fun x => c + 12 * y + x))

/-- The origins of a die at which a rectangle lies inside the mesh, on cores in service. -/
def origins (s : State) (d w h : Nat) : List Nat :=
  ((List.range 72).filter (fun i => decide (i % 12 + w ≤ 12) && decide (i / 12 + h ≤ 6) &&
    (rectCores (d * 72 + i) w h).all (coreUp s))).map (fun i => d * 72 + i)

/-- The candidates of a cluster from its home die on (R355). -/
def candidates (s : State) (p home w h : Nat) : List Nat :=
  (((List.range 8).map (fun i => (home + i) % 8)).filter (dieAllowed s p)).flatMap (fun d => origins s d w h)

/-- The physical address of a record's tile, if it is a page in stacked DRAM, and its REPL (R354). -/
def tilePage (s : State) (lr : LaunchRec) : Option (Nat × Bool) :=
  if lr.home = 255 then none
  else
    let k (i : Nat) : Nat := ((lr.consts[i]?).getD 0).toNat
    let va := k lr.home + k (lr.home + 1) % 2 ^ 20 * 2 ^ 32
    if apertureBase ≤ va then none
    else
      match walk s lr.part va with
      | .leaf t => if regionOf (tlbPhys t va) = 0 ∧ dramOk s (tlbPhys t va) then some (tlbPhys t va, t.attr.repl) else none
      | _ => none

/-- The lowest die that a partition may use. -/
def lowestDie (s : State) (p : Nat) : Nat := ((List.range 8).find? (dieAllowed s p)).getD 0

/-- The home die of a cluster (R354). -/
def homeOf (s : State) (lr : LaunchRec) (src : Ready) (cid : Nat) : Nat :=
  let pa := tilePage s lr
  let d := match pa with
    | some (a, false) => homeDie a
    | _ => match src.pusher with | some c => dieOf c | none => lowestDie s lr.part
  match lr.hash with
  | 1 => (d + cid) % 8
  | 2 =>
    ((hmixWord (BitVec.ofNat 32 ((pa.map (·.1)).getD 0 / 2 ^ 21 % 2 ^ 15)) (BitVec.ofNat 32 cid)).extractLsb' 29 3).toNat
  | _ => d

/-! ### Placing a cluster (R20, R21, R100 to R104, R200, R226, R254, R317) -/

/-- The priority class of a grid's groups (R353). -/
def classOf (s : State) (lr : LaunchRec) : Nat := min lr.cls (pcMax s lr.part)

/-- A group as it is placed. -/
def newGroup (s : State) (lr : LaunchRec) (tid c : Nat) (a : Alloc) (i : Nat) : Group :=
  { team := tid, gid := i, part := lr.part, cls := classOf s lr, age := cycleOf s c, rotate := lr.flags.getLsbD 0, gcount := lr.gcount
    gbase := tget 0 a.blocks i, vrows := lr.vrows, vbase := tget 0 a.rows i
    k := lr.consts.zipIdx.map (fun p => (p.2, p.1)), pc := lr.entry.extractLsb' 5 47
    sets := (lr.preload.filter (fun q => q.2.getLsbD 15)).foldl (fun t q =>
      (List.range 8).foldl (fun t j =>
        tput t ((13 + (q.2.extractLsb' 13 2).toNat) * 64 + (q.2.extractLsb' 10 3).toNat * 8 + j)
          ((lr.consts[(q.2.extractLsb' 0 7).toNat + j]?).getD 0)) t) [] }

/-- The errors of a range of a core window that is written whole are gone (R191). -/
def forgive (s : State) (a n : Nat) : State :=
  { s with failing := s.failing.filter (fun u => !(decide (a ≤ u) && decide (u < a + n))) }

/-- Bytes of a core window cleared, with their errors (R191, R200). -/
def clearRange (s : State) (a n : Nat) : State := forgive { s with mem := memClear s.mem a n } a n

/-- The memories of a team that is placed are cleared (R200). -/
def clearTeam (s : State) (t : Team) : State :=
  let s := (List.range 3).foldl (fun s i => clearRange s (teamRange t i).1 (teamRange t i).2) s
  t.rowRuns.foldl (fun s r =>
    modCore (clearRange s (windowBase t.core + 0xC0000 + r.1 * 512) (r.2 * 512)) t.core
      (fun k => { k with acc := (List.range r.2).foldl (fun a i => tput a (r.1 + i) 0) k.acc })) s

/-- A team takes a core: its resources and groups, whose registers lose the errors of what stood there, and the acquire floor of the
core (R191, R200, R317). -/
def seatTeam (s : State) (tid c : Nat) (t : Team) (gs : List (Nat × Group)) : State :=
  let s := clearTeam { s with teams := tput s.teams tid t } t
  let s := gs.foldl (fun s p => forgive s (gregAddr c p.2.gbase 0) (p.2.gcount * 128)) s
  modCore s c (fun k => { k with
    groups := gs.foldl (fun x p => tput x p.1 p.2) k.groups, floor := tmax k.floor (coreTime s c) })

/-- One team of a cluster is placed. -/
def placeTeam (s : State) (key : Nat) (lr : LaunchRec) (cid i : Nat) (c : Nat) (a : Alloc) : State :=
  let tid := s.nextTeam
  let t : Team :=
    { grid := key, teamId := cid * (lr.w * lr.h) + i, cluster := cid, cx := i % lr.w, cy := i / lr.w, core := c, part := lr.part
      slots := a.slots, groups := lr.groups, rowRuns := if lr.vrows = 0 then [] else a.rows.map (fun r => (r.2, lr.vrows))
      spad := (a.spad, lr.spad / 256), oba := (a.oba, lr.oba / 256), obb := (a.obb, lr.obb / 256), slice := coreTime s c
      quantum := sliceTicks s lr.part }
  { seatTeam s tid c t (a.slots.map (fun p => (p.2, newGroup s lr tid c a p.1))) with nextTeam := tid + 1 }

/-- All teams of a cluster are placed together (R20). -/
def placeCluster (s : State) (key : Nat) (lr : LaunchRec) (cid : Nat) (l : List (Nat × Alloc)) : State :=
  modGrid (l.zipIdx.foldl (fun s p => placeTeam s key lr cid p.2 p.1.1 p.1.2) s) key (fun g => { g with placed := g.placed + 1 })

/-! ### Taking a record (R33, R308, R349, R352, R358) -/

/-- The Skein entries that stop FRAME from advancing: in an overrun those that overran, else those with the deadline that FRAME
would reach, not FINISHED (R350; log 30). -/
def deadlineOpen (k : Pkg) : List SkeinEntry :=
  k.skein.filter (fun e => if k.stall then e.overrun else e.df == k.frame + 1)

/-- Whether R33 forbids a record, or its dies are all out of service: the shape does not fit the mesh in service. -/
def capabilityLacks (s : State) (lr : LaunchRec) : Bool :=
  !(List.range 8).any (fun d => dieAllowed s lr.part d && !(origins s d lr.w lr.h).isEmpty)

/-- Whether a record's team needs more than a quota allows on any core. -/
def quotaLacks (s : State) (lr : LaunchRec) : Bool := !within (needOf lr).counts [0, 0, 0, 0, 0, 0] (quotas s lr.part)

/-- Whether the dispatcher knows the grid of a record, placed, on its way, or in the timetable. -/
def gridKnown (s : State) (p rcd : Nat) : Bool :=
  (tfind s.grids (gridKey p rcd)).isSome || s.pkg.skein.any (fun e => e.part == p && e.rcd == rcd)

/-- A die's dispatcher starts placing a record. -/
def startPlacing (s : State) (d : Nat) (r : Ready) (lr : LaunchRec) : State :=
  let s := { s with grids := tput s.grids (gridKey r.part r.rcd) { lr := lr, src := r, die := d } }
  modDie s d (fun x => { x with held := x.held ++ [{ rcd := r.rcd, src := r }] })

/-- A record with the Skein flag takes an entry of the timetable; it is released at once if its frame is reached and FRAME does
not stand still in an overrun (R349, R350). -/
def addSkein (s : State) (d : Nat) (r : Ready) (lr : LaunchRec) : State :=
  let frame := s.pkg.frame
  let rf := lr.skein
  let now := decide (rf.toNat ≤ frame.toNat) && !s.pkg.stall
  let df := tmax rf frame + (part s r.part).skdspan.setWidth 64
  let num := (gtime s 8).toNat * 2 ^ 64 + rf.toNat
  let s := modPkg s (fun k => { k with skein := k.skein ++
    [{ rcd := r.rcd, part := r.part, rf := rf, df := df, st := if now then 1 else 0, src := r, die := d, lr := lr }] })
  if now then addReady s d { r with core := none, skein := true, num := num } else s

/-- The status with which a record is refused, or 0 (R308, R349): the first rule that it breaks. -/
def refusal (s : State) (r : Ready) (lr : LaunchRec) (st : Nat) : Nat :=
  let timed := lr.flags.getLsbD 1
  if st ≠ 0 ∨ (timed && !(part s r.part).sken) then 2
  else if lr.part ≠ r.part then 3
  else if capabilityLacks s lr then 1
  else if quotaLacks s lr ∨ (timed ∧ 512 ≤ s.pkg.skein.length) then 4
  else 0

/-- Whether the timetable still holds back a record (R349). -/
def heldBack (s : State) (p rcd : Nat) : Bool := s.pkg.skein.any (fun e => e.part == p && e.rcd == rcd && e.st == 0)

/-- A suspended grid is resumed: its saved teams are restored, and its withdrawn teams placed (R361); a record that the timetable
still holds back waits for its frame (log 44). -/
def resumeGrid (s : State) (d : Nat) (r : Ready) : State :=
  let key := gridKey r.part r.rcd
  let g := grid s key
  if heldBack s r.part r.rcd then
    let back (e : SkeinEntry) : Bool := e.part == r.part && e.rcd == r.rcd
    modPkg { s with grids := tdel s.grids key } (fun k => { k with skein := k.skein.map (fun e =>
      if back e then { e with resumedBy := g.resumedBy ++ r.queue.toList } else e) })
  else
    let s := modGrid s key (fun g => { g with preempt := false, preAt := none, resumedBy := g.resumedBy ++ r.queue.toList })
    if g.placed * (g.lr.w * g.lr.h) < g.lr.teams then
      modDie s d (fun x => { x with held := x.held ++ [{ rcd := r.rcd, src := { g.src with core := r.core, queue := r.queue } }] })
    else s

/-- A record that the dispatcher has taken (R308). -/
def launch (s : State) (d : Nat) (r : Ready) : State :=
  let key := gridKey r.part r.rcd
  if r.skein then
    match s.pkg.skein.find? (fun e => e.part == r.part && e.rcd == r.rcd && e.st == 1) with
    | some e =>
      if (grid s key).preempt then s
      else modGrid (startPlacing s d { e.src with core := none, skein := true } e.lr) key (fun g => { g with resumedBy := e.resumedBy })
    | none => s
  else if gridKnown s r.part r.rcd then
    if suspended s key then resumeGrid s d r else postEvent s r.part d 4 (r.rcd + 7 * 2 ^ 64)
  else
    match readRecord s d r.part r.rcd with
    | none => postEvent s r.part d 4 (r.rcd + 2 * 2 ^ 64)
    | some (lr, st) =>
      match refusal s r lr st with
      | 0 => if lr.flags.getLsbD 1 then addSkein s d r lr else startPlacing s d r lr
      | why => finishRecord s d r.part r.rcd lr why

/-- The head of a core's queue leaves it for the dispatcher, at the end of the cycle (R309, R311, R450); that of a core that has no
cycles, at once. -/
def popHeadRecord (s : State) (c : Nat) : State :=
  if coreRuns s c then modCore s c (fun k => { k with took := true })
  else headReady (modCore s c (fun k => { k with plq := k.plq.drop 1 })) c

/-- A ready record of a die is taken and launched. -/
def takeReady (s : State) (d : Nat) (r : Ready) : State :=
  let s := modDie s d (fun x => { x with ready := x.ready.erase r })
  launch (match r.core with | some c => popHeadRecord s c | none => s) d r

/-- Whether two records come from one queue. -/
def sameQueue (a b : Ready) : Bool :=
  match a.core, b.core with | some x, some y => x == y | none, none => a.queue.isSome && a.queue == b.queue | _, _ => false

/-- Whether a grid has every team placed. -/
def wholePlaced (s : State) (key : Nat) : Bool :=
  match tfind s.grids key with | some g => decide (g.lr.teams ≤ g.placed * (g.lr.w * g.lr.h)) | none => false

/-- Whether a record still stands behind one of its queue that was taken before it: one being placed on any die, one that waits
for another dispatcher, or one of the timetable that is neither placed nor suspended (R358; log 44: a record of the timetable
follows its frame alone). -/
def behindQueue (s : State) (d : Nat) (r : Ready) : Bool :=
  !r.skein &&
    (s.dies.any (fun x => x.2.held.any (fun p => sameQueue p.src r) ||
        (x.1 != d && x.2.ready.any (fun y => sameQueue y r && !y.skein && decide (y.num < r.num)))) ||
      s.pkg.skein.any (fun e => sameQueue e.src r && !wholePlaced s (gridKey e.part e.rcd) && !(grid s (gridKey e.part e.rcd)).preempt))

/-- Whether a record would take an entry of the timetable (R349). -/
def isTimed (s : State) (d : Nat) (r : Ready) : Bool :=
  !r.skein && (match readRecord s d r.part r.rcd with | some (lr, _) => lr.flags.getLsbD 1 | none => false)

/-- DISPATCHER_TAKE: the dispatcher takes the record that became ready first, in a later cycle, of those that stand behind no other
one; in a tick in which FRAME advances it takes after the advance, and a record of the timetable not before the tick has shown
whether FRAME overruns (R349, R350, R358; selection: die). -/
def execDispatcherTake (s : State) : Host.Outcome State Fault Refusal :=
  let d := selAt s 0
  let x := die s d
  match x.held, x.ready.find? (fun r => !behindQueue s d r) with
  | [], some r =>
    if dieUp s d ∧ r.stamp ≤ cycleOf s (readyClock d r) ∧ !(s.pkg.fdue && ((deadlineOpen s.pkg).isEmpty || isTimed s d r)) then
      .next (takeReady s d r)
    else .next s
  | _, _ => .next s

end Sys2Proof.Machine
end

