-- ==== Sys2Proof/Machine/Save.lean ====
section
/-! DEFINITION. Saving and restoring teams: time slices, swap-out, the saved image, the restore lists (R112, R117, R277, R299,
R340, R344, R358 to R364, R367, R377, R390). -/

namespace Sys2Proof.Machine

/-! ### The save area (R367) -/

/-- The save area of a partition: base and length. -/
def saveArea (s : State) (p : Nat) : Nat × Nat :=
  let b := (part s p).savebase
  ((b.extractLsb' 21 31).toNat * 2 ^ 21, (b.extractLsb' 0 16).toNat * 2 ^ 21)

/-- The parts of the save areas that images of a partition take. -/
def areaUsed (s : State) (p : Nat) : List (Nat × Nat) :=
  (s.images.filter (fun im => im.area && im.team.part == p)).map (fun im => (im.pa, im.len)) ++
    (s.teams.filter (fun t => t.2.part == p)).filterMap (fun t => t.2.saveAt)

/-- The open lengths of an image: of its group sections, and of its engine section before the banks (log 13). -/
def openLens (s : State) : Nat × Nat :=
  (64 * (1 + Config.choice s.fresh % 2 ^ 16), 64 * (1 + Config.choice s.fresh / 2 ^ 16 % 2 ^ 16))

/-- A place in the save area, if it has room; which one is open: any free one, or one right behind another image (R367, log 13). -/
def areaPlace (s : State) (p len : Nat) : Option (Nat × Nat) :=
  let (b, n) := saveArea s p
  let used := areaUsed s p
  let ok (x : Nat) : Bool := decide (b ≤ x) && decide (x + len ≤ b + n) &&
    used.all (fun r => decide (x + len ≤ r.1) || decide (r.1 + r.2 ≤ x))
  let v := Config.choice s.fresh / 2 ^ 32
  let xs := ((b + 16 * (v / 2 ^ 32 % (n / 16))) :: b :: used.map (fun r => r.1 + r.2)).filter ok
  (xs[v % 2 ^ 32 % xs.length]?).map (fun x => (x, len))

/-- Places for all teams of a cluster, or none. -/
def placeImages (s : State) (ts : List (Nat × Team)) : Option State :=
  ts.foldl (fun o p => o.bind (fun s => (areaPlace s p.2.part (imageLen (openLens s) p.2)).map (fun x =>
    { modTeam s p.1 (fun t => { t with saveAt := some x, saveLens := openLens s }) with fresh := s.fresh + 1 }))) (some s)

/-- A save of a team and its cluster is requested; with no room it does not begin (R360, R367). -/
def requestSave (s : State) (tid why : Nat) (told : Bool) : State :=
  let t := team s tid
  let ts := clusterTeams s t.grid t.cluster
  if ts.any (fun p => p.2.saveFor != 0) then s
  else
    match placeImages s ts with
    | some s => beginSave s tid why
    | none =>
      let s := { s with fresh := s.fresh + 1 }
      let s := if told then s
        else postEvent s t.part (dieOf t.core) 7 (t.teamId + t.grid % 2 ^ 52 * 2 ^ 64)
      if why = 1 then modTeam s tid (fun t => { t with slice := coreTime s t.core })
      else modTeam s tid (fun t => { t with retry := why })

/-! ### Swap-out (R364) -/

/-- The counters of the records that the groups of a team pushed and whose grids have not finished. -/
def childCounters (s : State) (tid : Nat) : List Nat :=
  let t := team s tid
  let rd (r : Nat) : List Nat := match devRead s (dieOf t.core) t.part (r + 56) 8 with | some v => [v] | none => []
  let mine (p : Option Nat) : Bool := p == some tid
  (s.grids.filter (fun g => mine g.2.src.parent)).map (fun g => g.2.lr.counter) ++
    (s.pkg.skein.filter (fun e => mine e.src.parent)).map (fun e => e.lr.counter) ++
    s.cores.flatMap (fun c => (c.2.plq.filter (fun e => mine e.parent)).flatMap (fun e => rd e.rcd)) ++
    s.dies.flatMap (fun d =>
      (d.2.segs.flatMap (fun x => x.2.flatten.filter (fun e => mine e.parent && !e.canc))).flatMap (fun e => rd e.rcd) ++
        (d.2.hoq.filter (fun h => mine h.parent)).flatMap (fun h => rd h.rcd) ++
        (d.2.taken.filter (fun x => mine x.2.parent)).flatMap (fun x => rd x.2.rcd))

/-- Whether a group is parked on the read of a pending mwait on one of the counters (R364, R390). -/
def waitsOn (s : State) (c sl : Nat) (cs : List Nat) : Bool :=
  let g := group s c sl
  groupParking s c sl g == .counter &&
    (match (portOf g false 20).q with
      | e :: _ =>
        (match e.pend with | .mwait a _ _ => a.elems.all (fun x => x.va != 0 && cs.contains x.va) | _ => false)
      | [] => false)

/-- A team is swap-eligible with every team of its cluster: every group that has not ended waits on a child's counter, and there
is one (R364). -/
def swapEligible (s : State) (tid : Nat) : Bool :=
  let t := team s tid
  let ts := clusterTeams s t.grid t.cluster
  ts.any (fun p => p.2.slots.any (fun q => !(group s p.2.core q.2).ended)) &&
    ts.all (fun p => let cs := childCounters s p.1
      p.2.slots.all (fun q => (group s p.2.core q.2).ended || waitsOn s p.2.core q.2 cs))

/-- Saves that found no room are tried again when an image leaves the area or the area changes (R367); a swap-out only in Newt
mode, while the team is still swap-eligible (R365). -/
def retrySaves (s : State) (p : Nat) : State :=
  (s.teams.filter (fun t => t.2.part == p && t.2.retry != 0)).foldl (fun s t =>
    let why := (team s t.1).retry
    if why = 0 then s
    else
      let s := modTeam s t.1 (fun x => { x with retry := 0 })
      if why = 3 ∧ (modeOf s .sched (dieOf t.2.core) ≠ 0 ∨ !swapEligible s t.1) then s else requestSave s t.1 why true) s

/-- Whether a dispatcher's record waits for placement on a die (R357, R364). -/
def waitsOnDie (s : State) (d : Nat) (p : Placing) : Bool :=
  match p.wait with
  | .none => false
  | .fragmentation => dieOf p.cand == d
  | _ => dieAllowed s p.src.part d

/-- SWAP_OUT: a swap-eligible parent is saved while a team of a child grid waits for placement on its die (R364; selection:
team). -/
def execSwapOut (s : State) : Host.Outcome State Fault Refusal :=
  let tid := selAt s 0
  match tfind s.teams tid with
  | none => .next s
  | some t =>
    let d := dieOf t.core
    let waits := s.dies.any (fun x => x.2.held.any (fun p => waitsOnDie s d p && p.src.parent == some tid))
    if waits && modeOf s .sched d == 0 && t.saveFor == 0 && t.retry == 0 && swapEligible s tid then .next (requestSave s tid 3 false) else .next s

/-! ### Time slices (R359) -/

/-- Whether the dispatcher of a die waits on a candidate that includes the team's core. -/
def waitsForCore (s : State) (t : Team) (p : Placing) : Bool :=
  let lr := (grid s (gridKey p.src.part p.rcd)).lr
  match p.wait with
  | .none => false
  | .fragmentation => (rectCores p.cand lr.w lr.h).contains t.core
  | .quota => t.part == p.src.part && (origins s (dieOf t.core) lr.w lr.h).any (fun o => (rectCores o lr.w lr.h).contains t.core) &&
      dieAllowed s p.src.part (dieOf t.core)
  | .resource => (origins s (dieOf t.core) lr.w lr.h).any (fun o => (rectCores o lr.w lr.h).contains t.core) &&
      dieAllowed s p.src.part (dieOf t.core)

/-- TIME_SLICE_EXPIRY: the team is saved if the dispatcher waits for its core, and time slices are on; else its slice starts
again, of the length that its placement found (R351, R359, R365, R434; selection: team). -/
def execTimeSliceExpiry (s : State) : Host.Outcome State Fault Refusal :=
  let tid := selAt s 0
  match tfind s.teams tid with
  | none => .next s
  | some t =>
    let n := t.quantum
    let now := coreTime s t.core
    if t.retired || n == 0 || t.saveFor != 0 || decide (now.toNat < t.slice.toNat + n) then .next s
    else if modeOf s .sched (dieOf t.core) == 0 && s.dies.any (fun d => d.2.held.any (waitsForCore s t)) then .next (requestSave s tid 1 false)
    else .next (modTeam s tid (fun t => { t with slice := now }))

/-! ### What is saved (R117, R277, R299, R362, R363) -/

/-- Whether a pending entry may be saved as it stands (R117, R222, R390). -/
def entrySaves (out : List MxOp) (u : Nat) (e : QEntry) : Bool :=
  match e.pend with
  | .full | .bar _ | .barw _ _ | .cbar | .twait _ _ | .wmwait _ _ | .mwait _ _ _ | .sleep _ | .ctxsave _ _ => true
  | .mem a => decide (13 ≤ u ∧ u ≤ 16) || a.held || (match a.stat with | .parked _ _ => true | _ => false)
  | .mx id => out.any (fun o => o.id == id)
  | _ => false

/-- Whether a group may be saved now (R360): at a bundle boundary, with nothing that must complete first. -/
def groupSaves (out : List MxOp) (g : Group) : Bool :=
  !g.ended && !g.busy && g.saving && g.hold.isNone && g.hhold.isNone && g.arrive.isEmpty && g.pipe.isEmpty &&
    (allEntries g).all (fun x => entrySaves out x.2.1 x.2.2.2) &&
    g.streams.all (fun p => match p.2.unwritten with
      | a :: _ => (match a.stat with | .parked _ _ => true | _ => false)
      | [] => true)

/-- Whether a team may be saved now (R360). -/
def teamSaves (s : State) (tid : Nat) (t : Team) : Bool :=
  let (out, on) := withdrawn s t.core tid
  (t.saveFor != 0 || t.retired) && on.isEmpty && t.slots.all (fun p => groupSaves out (group s t.core p.2)) &&
    (ownedChans s tid).all (fun q => q.2.elemW.isNone && !q.2.aborting)

/-- An entry as an image holds it: a wait on a counter that has reached its value keeps it for the restore (R277, R390). -/
def packEntry (s : State) (c : Nat) (e : QEntry) : QEntry :=
  match e.pend with
  | .twait sel n =>
    let v := ctrValue s c (ctrOf sel)
    if e.met.isSome then { e with met := some (0, false) }
    else if n.toNat ≤ v.toNat then { e with met := some (0, false), val := splat (lo64 v) } else e
  | .wmwait _ _ => { e with met := none }
  | _ => e

/-- A group as its image holds it: pending stream vectors are discarded (R117). Where full vectors stand before them in the queue, P
stays that of the oldest full one, which the next pop takes, and the fetch goes on from the first discarded vector (DEDUCED, log 13:
R117 and R226 give P at the first discarded vector, and R117 keeps the full entries). -/
def packGroup (s : State) (c : Nat) (g : Group) : Group :=
  let g := modPort g 20 (fun p => { p with q := p.q.map (packEntry s c) })
  [13, 14, 15, 16].foldl (fun g u =>
    setPort g false u { portOf g false u with q := (portOf g false u).q.filter (fun e => !isPending e) })
    { g with saving := false, stopAt := 0, waited := 0, fetch := [], flines := [], wake := 0, pushAt := 0 }

/-- A channel as its image holds it: its wait names the group id in place of the slot, and what it had read ahead is read again
(R299). -/
def packChan (t : Team) (q : Chan) : Chan :=
  { q with
    ahead := []
    wait := match q.wait with
      | some (sl, n) => (t.slots.find? (fun p => p.2 == sl)).map (fun p => (p.1, n))
      | none => none }

/-- The feature mask of an image (R363); the formats of its raw banks are given. -/
def featureMask (im : Image) (fmts : List Nat) : BitVec 64 :=
  let gs := im.groups.map (·.2)
  let b (x : Bool) (i : Nat) : Nat := if x then 2 ^ i else 0
  BitVec.ofNat 64 (b (fmts.any (fun f => !cplxFmt f)) 0 + b (fmts.any cplxFmt) 1 +
    b (gs.any (fun g => g.qrot != 0 || (g.lcnt.getLsbD 31 && remOf g.lcnt != 0))) 2 +
    b (gs.any (fun g => g.streams.any (fun t => t.2.active) || g.sets.any (fun w => w.2 != 0))) 3 +
    b (im.chans.any (fun q => q.2.st != .idle)) 4 + b (im.chans.any (fun q => ringBound q.2)) 5 +
    b (im.chans.any (fun q => q.2.halo && q.2.st == .armed)) 6 + b (!im.mxops.isEmpty) 7)

/-- The 64 header bytes of an image, as a number (R362). -/
def headerNat (im : Image) : Nat :=
  0x49584D54 + 1 * 2 ^ 32 + 0xA1 * 2 ^ 40 + im.groups.length % 256 * 2 ^ 48 + im.mask.toNat * 2 ^ 64 + im.team.grid % 2 ^ 52 * 2 ^ 128 +
    im.team.teamId % 2 ^ 32 * 2 ^ 192 + im.len % 2 ^ 64 * 2 ^ 256 + Image.groupsAt * 2 ^ 320 + im.memAt * 2 ^ 384 + im.engineAt * 2 ^ 448

/-- The bytes of a raw bank (R58, R199, R275). -/
def bankBytes (bk : Bank) : List Byte := (List.range (imageBytes (cplxFmt bk.fmt) / 8)).flatMap (fun n => leBytes 8 (imageWord bk n))

/-- The parts of an image with their offsets: header, group sections, team memory, engine section, raw banks (R362). -/
def imageParts (s : State) (im : Image) : List (Nat × List Byte) :=
  [(0, leBytes 64 (headerNat im)), (Image.groupsAt, im.soft.take im.lens.1), (im.memAt, memSection s im.team),
    (im.engineAt, im.soft.drop im.lens.1)] ++
    im.banks.map (fun b => (im.bankAt b, bankBytes (bankAt s (leaderOf im.team.core) b)))

/-- An image is written (R360, R377), with the errors of what it holds (R191): bytes whose address does not translate, or lies
outside the physical map, are lost (log 13). -/
def writeImage (s : State) (im : Image) : State :=
  let cells := (imageParts s im).flatMap (fun p => p.2.zipIdx.filterMap (fun b => (im.addr s true (p.1 + b.2)).map (fun a => (a, b.1))))
  im.spoil (performWrite s none none (dieOf im.team.core) false (cells.filter (fun x => physOk s x.1))).1
    (im.carried s (leaderOf im.team.core))

/-- Where a ctxsave of a team writes: the address, and whether the team joins the restore list (R377). -/
def ctxsaveOf (s : State) (t : Team) : Option (Nat × Bool) :=
  t.slots.findSome? (fun p => (allEntries (group s t.core p.2)).findSome? (fun x => match x.2.2.2.pend with
    | .ctxsave va rejoin => some (va, rejoin)
    | _ => none))

/-- The place of an image: in the save area, or at the address of a ctxsave as the partition's tables translate it (log 13). -/
def imagePa (s : State) (t : Team) (va : Option (Nat × Nat)) : Nat :=
  match t.saveAt, va with
  | some x, _ => x.1
  | none, some (d, va) => ((devAddr s d t.part va true).map (·.1)).getD (2 ^ 53)
  | none, none => 2 ^ 53

/-- The image of a team (R362). -/
def packTeam (s : State) (tid : Nat) (t : Team) : Image :=
  let gs := t.slots.map (fun p => (p.1, group s t.core p.2))
  let dest := ctxsaveOf s t
  let va := if t.saveAt.isSome then none else dest.map (fun x => (dieOf t.core, x.1))
  let lens := if t.saveAt.isSome then t.saveLens else openLens s
  let full : Tbl Bank := (core s (leaderOf t.core)).banks.filter (fun b => b.2.owner == some tid && b.2.full)
  let im : Image :=
    { team := t, tid := tid, pa := imagePa s t va, len := imageLen lens t, va := va, lens := lens
      groups := gs.map (fun p => (p.1, packGroup s t.core p.2))
      rows := gs.flatMap (fun p => (List.range p.2.vrows).map (fun i => (p.1 * 64 + i, tget 0 (core s t.core).acc (p.2.vbase + i))))
      chans := (ownedChans s tid).map (fun q => (q.1, packChan t q.2)), mxops := (withdrawn s t.core tid).1
      banks := full.map (·.1), bad := gs.flatMap (fun p => Image.groupErrors s t.core p.1 p.2), area := t.saveFor != 5, cause := t.saveFor
      savedAt := coreTime s t.core, seenW := (s.hidden.filter (fun h => h.core == some t.core)).foldl (fun w h => tmax w h.w) 0
      listed := t.saveFor != 3 && (t.saveFor != 5 || (dest.map (·.2)).getD true) }
  let im := { im with mask := featureMask im (full.map (fun (b : Nat × Bank) => b.2.fmt)) }
  { im with soft := (List.range (lens.1 + lens.2)).map (Config.softByte im) }

/-- The accesses of a team leave the parked set (R340). -/
def unparkTeam (s : State) (tid : Nat) (t : Team) : State :=
  { s with parked := s.parked.filter (fun p => match p.ref with
      | .entry c sl _ _ _ => !(c == t.core && t.slots.any (fun q => q.2 == sl))
      | .chan c ch => !(c == t.core && (chanOf s c ch).own == some tid)) }

/-- The die whose restore list or dispatcher takes what belongs to a die: the die itself, or while it is out of service the
next one upward that the partition may use (R355, R435). -/
def takingDie (s : State) (p d : Nat) : Nat :=
  let ds := (List.range 8).map (fun i => (d + i) % 8)
  match ds.find? (dieAllowed s p) with
  | some x => if dieUp s d then d else x
  | none => (ds.find? (dieUp s)).getD d

/-- A team leaves its core with its image written (R360 steps 3 and 4). -/
def saveTeam (s : State) (tid : Nat) : State :=
  let t := team s tid
  let im := packTeam s tid t
  let d := dieOf t.core
  let s := writeImage s im
  let s := unparkTeam { s with fresh := s.fresh + 1, archive := im :: s.archive } tid t
  let s := modCore s t.core (fun k => { k with
    groups := k.groups.filter (fun p => !(t.slots.any (fun q => q.2 == p.1)))
    chans := k.chans.map (fun q => if q.2.own = some tid then (q.1, {}) else q) })
  let s := releaseBanks s t.core tid
  let ids := ((core s (leaderOf t.core)).mxops.filter (fun o => o.team == tid)).map (·.id)
  let s := modCore s (leaderOf t.core) (fun k => { k with
    mxops := k.mxops.filter (fun o => o.team != tid), leases := k.leases.filter (fun l => !ids.contains l.2) })
  let s := noteFreed s t.core
    { freedOf t with slots := t.slots.map (·.2), blocks := im.groups.map (fun p => (p.2.gbase, p.2.gcount / 8)) }
  let s := { s with teams := tdel s.teams tid, images := s.images ++ [im] }
  let s := modGrid s t.grid (fun g => { g with lastW := im.groups.foldl (fun w p => tmax w p.2.pwt) g.lastW })
  let s := if im.listed then modDie s (takingDie s t.part d) (fun x => { x with restore := x.restore ++ [tid] }) else s
  releaseLocks s t.core t.part

/-- TEAM_SAVE: a team and its whole cluster are saved once every one of its teams has come to rest (R360; selection: team). -/
def execTeamSave (s : State) : Host.Outcome State Fault Refusal :=
  let tid := selAt s 0
  match tfind s.teams tid with
  | none => .next s
  | some t =>
    let ts := clusterTeams s t.grid t.cluster
    if ts.all (fun p => teamSaves s p.1 p.2) && !ts.all (fun p => p.2.retired) then .next (ts.foldl (fun s p => saveTeam s p.1) s) else .next s

/-! ### Restoring (R22, R112, R117, R277, R299, R358, R363, R390) -/

/-- The images of the cluster of a saved team, in the order of its team ids, as memory holds them. -/
def clusterImages (s : State) (im : Image) : List Image :=
  let lr := (grid s im.team.grid).lr
  (List.range (lr.w * lr.h)).filterMap (fun i => (s.images.find? (fun x => x.team.grid == im.team.grid &&
    x.team.cluster == im.team.cluster && x.team.cy * lr.w + x.team.cx == i && (tfind s.teams x.tid).isNone)).map (fun x => x.now s))

/-- What a saved team needs of a core. -/
def needOfImage (s : State) (im : Image) : Need :=
  { needOf (grid s im.team.grid).lr with gids := im.groups.map (·.1) }

/-- Whether the channels and banks of an image are free on a core, and its engine has room for the image's operations (R266, R277,
R299). -/
def engineFree (s : State) (c : Nat) (im : Image) : Bool :=
  let bs := im.banks ++ im.mxops.map (·.bank)
  let k := core s c
  let with_ : Core := { k with mxops := k.mxops ++ im.mxops }
  im.chans.all (fun q => (chanOf s c q.1).own.isNone && (chanOf s c q.1).st == .idle) &&
    (bs.isEmpty || (leaderOf c == c && decide (mxCount with_ true ≤ 4) && decide (mxCount with_ false ≤ 4) &&
      bs.all (fun b => (bankAt s c b).owner.isNone && !(bankAt s c b).full && !k.mxops.any (fun o => o.bank == b))))

/-- Whether every observer sees the writes of a saved team, and those that its old core showed it before any other, which a core
other than its own must (R219, R241 to R243; DEDUCED, log 13). -/
def writesSeen (s : State) (c : Nat) (im : Image) : Bool :=
  c == im.team.core || ((im.seenW :: im.groups.map (fun p => p.2.pwt)).all (fun w => decide ((w + 2).toNat ≤ (coreTime s c).toNat)))

/-- The lines of the L1 of a core that a team is restored on: on another core than its own, a line that may be older than the save is
evicted, so that no load of the team, or below a watermark of its channels, goes back behind one before it (R243, R252; DEDUCED,
log 13). -/
def keptLines (im : Image) (c : Nat) (l1 : Tbl L1Line) : Tbl L1Line :=
  if c = im.team.core then l1 else l1.filter (fun q => decide (im.savedAt.toNat + 2 < q.2.fill.toNat))

/-- The first candidate that takes a saved cluster, from its die on (R355, R358). -/
def restorePlace (s : State) (d : Nat) (ims : List Image) : Option (List (Image × Nat × Alloc)) :=
  match ims with
  | [] => none
  | im :: _ =>
    let lr := (grid s im.team.grid).lr
    (candidates s im.team.part d lr.w lr.h).findSome? (fun o =>
      let cs := rectCores o lr.w lr.h
      if (cs.zip ims).all (fun x => engineFree s x.1 x.2 && writesSeen s x.1 x.2) then
        match fitAll s ((cs.zip ims).map (fun x => (x.1, needOfImage s x.2))) with
        | .fits l => some (ims.zip l)
        | _ => none
      else none)

/-- Whether an image may be restored now, as far as its grid and the modes go (R361, R363 to R365). -/
def mayRestore (s : State) (d : Nat) (im : Image) : Bool :=
  let g := grid s im.team.grid
  im.listed && (tfind s.grids im.team.grid).isSome && !g.preempt && (tfind s.teams im.tid).isNone &&
    (clusterImages s im).length == g.lr.w * g.lr.h && (clusterImages s im).all (fun x => !featureAbsent s x) &&
    (modeOf s .sched d != 2 || im.hostGo)

/-- The first saved cluster of a die's restore list, of at least a class, that fits a candidate (R358). -/
def restoreChoice (s : State) (d cls : Nat) : Option (List (Image × Nat × Alloc)) :=
  (die s d).restore.findSome? (fun tid =>
    match s.images.find? (fun im => im.tid == tid) with
    | some im =>
      if mayRestore s d im && decide (cls ≤ classOf s (grid s im.team.grid).lr) then restorePlace s d (clusterImages s im) else none
    | none => none)

/-- A group as it comes back: new slot resources, a new age, and the numbers of its engine operations (R117, R353). -/
def unpackGroup (s : State) (c : Nat) (im : Image) (a : Alloc) (gid : Nat) (g : Group) : Group :=
  let lr := (grid s im.team.grid).lr
  let renum (e : QEntry) : QEntry :=
    let e := { e with filled := 0, was := none }
    match e.pend with
    | .mx id =>
      { e with pend := match im.mxops.findIdx? (fun o => o.id == id) with
          | some i => .mx ((core s (leaderOf c)).mxnext + i)
          | none => .mx id }
    | .ctxsave va r =>
      if im.cause = 5 then { e with pend := .full, val := splat (BitVec.ofNat 128 (im.len % 2 ^ 64)) }
      else { e with pend := .ctxsave va r }
    | _ => e
  let ports (t : Tbl Port) : Tbl Port := t.map (fun p => (p.1, { p.2 with q := p.2.q.map renum }))
  { g with
    team := im.tid, gid := gid, part := im.team.part, gcount := lr.gcount, vrows := lr.vrows, rotate := lr.flags.getLsbD 0
    gbase := tget 0 a.blocks gid, vbase := tget 0 a.rows gid, age := cycleOf s c, ports := ports g.ports, hports := ports g.hports
    cls := classOf s lr }

/-- The slot at the restore of the group that held a slot at the save. -/
def newSlot (im : Image) (a : Alloc) (sl : Nat) : Option Nat :=
  (im.team.slots.find? (fun q => q.2 == sl)).bind (fun q => tfind a.slots q.1)

/-- A channel as it comes back (R299): its place in the order, the slot of the group that it waits for, an aperture destination at
the team's new place, and the watermark and pointers that the compares of this cycle read (R291, R297). -/
def unpackChan (s : State) (tid ord : Nat) (a : Alloc) (q : Chan) : Chan :=
  let gen := clusterGen s (team s tid).grid (team s tid).cluster
  let go := q.halo && q.st == .armed && decide (q.bargen.toNat < gen.toNat)
  { ringNow s q with
    cwm0 := q.cwm
    own := some tid, order := ord, wait := q.wait.bind (fun w => (tfind a.slots w.1).map (fun sl => (sl, w.2)))
    st := if go then .landing else q.st, sent := coreTime s (team s tid).core, released := q.released || go
    phys := if q.phys.isSome && decide (apertureBase ≤ q.rdst) then
        (aperture s tid q.rdst (q.gend - q.rdst)).map (fun x => [(x.2, q.rdst, q.gend - q.rdst)])
      else q.phys }

/-- The accesses of a restored group that are issued again: place in program order, unit, bank (R117). -/
def reissues (g : Group) : List (Nat × Nat × Bool) :=
  (allEntries g).filterMap (fun x => (accOf x.2.2.2.pend).map (fun a => (a.seq, x.2.1, x.1))) ++
    g.streams.flatMap (fun p => p.2.unwritten.map (fun a => (a.seq, p.1, false)))

/-- An access issued again is not held until the compare finds it so. -/
def releaseHeld (s : State) (c sl u : Nat) (hand : Bool) (seq : Nat) : State :=
  match findAccess s c sl u hand seq with
  | some a => putAccess s c sl u hand { a with held := false }
  | none => s

/-- A waiting entry of a restored group fills at the restore if what it waits for has come about (R390, R400). -/
def fillWait (s : State) (c sl i : Nat) : State :=
  let g := group s c sl
  match entryAt g false 20 i with
  | none => s
  | some e =>
    match e.pend with
    | .bar b =>
      let nb := tget {} (team s g.team).nb b
      if nb.mask.getLsbD g.gid then s else acquire (fillSy s c sl i (lo32 nb.gen)) c sl false
    | .barw b p =>
      let gen := (tget {} (team s g.team).nb b).gen
      if barPassed gen p then fillSy s c sl i (lo32 gen) else s
    | .cbar =>
      if g.cbarIn then s
      else acquire (fillSy s c sl i (lo32 (clusterGen s (team s g.team).grid (team s g.team).cluster))) c sl true
    | .sleep tick => if tick.toNat ≤ (coreTime s c).toNat then fillSy s c sl i (lo64 (coreTime s c)) else s
    | .twait sel n =>
      let v := if e.met.isSome then (lane e.val 0).setWidth 64 else ctrValue s c (ctrOf sel)
      if e.met.isSome ∨ n.toNat ≤ v.toNat then
        let s := fillSy s c sl i (lo64 v)
        if (ctrOf sel).acquires then acquire s c sl true else s
      else s
    | .mwait a n _ =>
      if a.stat != .ready || !orderOk s c sl a then s
      else if a.elems.all (fun e => regionOf e.pa == 0) then mwaitRead s c sl i a n (fun s => armMwait s c sl i)
      else
        mwaitRead s c sl i a n (fun s => modGroup s c sl (fun g => setEntry g false 20 i { e with pend := .mwait a n (coreTime s c + 1024) }))
    | .wmwait ch a =>
      (match wmwaitStands (core s c) e with
        | .held => s
        | .abandoned => accessFault s c sl 20 false i 0x18 (((a.elems.head?).map (·.va)).getD 0)
        | _ => fillSy s c sl i (BitVec.ofNat 128 ((chanView (chanOf s c ch)).1 % 2 ^ 52)))
    | _ => s

/-- The groups of a team as they come back onto a core, by slot. -/
def imageGroups (s : State) (im : Image) (c : Nat) (a : Alloc) : Tbl Group :=
  a.slots.filterMap (fun p => (tfind im.groups p.1).map (fun g => (p.2, unpackGroup s c im a p.1 g)))

/-- A withdrawn engine operation as it comes back: its number, its slot, and the rows of a drain at the group's new place. -/
def unpackMx (im : Image) (a : Alloc) (id : Nat) (o : MxOp) : MxOp :=
  let gid := (im.team.slots.find? (fun q => q.2 == o.slot)).map (·.1)
  { o with
    id := id, team := im.tid, slot := (newSlot im a o.slot).getD 0
    row0 := match gid with | some i => tget 0 a.rows i + (o.t.extractLsb' 14 6).toNat | none => o.row0 }

/-- A team comes back onto a core: its memories, rows, banks, withdrawn operations and channels (R277, R299), with their errors
(R191). -/
def seatImage (s : State) (im : Image) (c : Nat) (a : Alloc) : State :=
  let lead := leaderOf c
  let base := (core s lead).mxnext
  let t : Team := im.records s { im.team with
    core := c, slots := a.slots, saveFor := 0, saveAt := none, retry := 0, slice := coreTime s c, quantum := sliceTicks s im.team.part
    rowRuns := a.rows.filterMap (fun r => (tfind im.groups r.1).bind (fun g => if g.vrows = 0 then none else some (r.2, g.vrows)))
    spad := (a.spad, im.team.spad.2), oba := (a.oba, im.team.oba.2), obb := (a.obb, im.team.obb.2) }
  let gs := imageGroups s im c a
  let floor := (core s c).floor
  let s := seatTeam s im.tid c t gs
  let s := modCore s c (fun k => { k with
    floor := gs.foldl (fun f p => tmax f p.2.gacq) floor, l1 := keptLines im c k.l1
    acc := im.rows.foldl (fun x r => tput x (tget 0 a.rows (r.1 / 64) + r.1 % 64) r.2) k.acc })
  let bad := im.restored s t (fun i => tget 0 a.rows i) (fun i => tget 0 a.blocks i)
  let s := { s with mem := (List.range 3).foldl (fun m i =>
    memPuts m ((List.range (teamRange t i).2).map (fun j => ((teamRange t i).1 + j, im.byte s (im.rangeAt i + j))))) s.mem }
  let ops := im.mxops.zipIdx.map (fun p => unpackMx im a (base + p.2) p.1)
  let s := modCore s lead (fun k => { k with
    mxnext := base + im.mxops.length, mxops := k.mxops ++ ops
    leases := k.leases ++ (ops.filter (fun o => o.kind == .drain)).flatMap (fun o => (List.range o.rows).map (fun r => (o.row0 + r, o.id)))
    banks := (ops.filter MxOp.isPass).foldl (fun x o => tput x o.bank { tget {} x o.bank with owner := some im.tid }) k.banks })
  let s := im.banks.foldl (fun s b =>
    let x := im.bank s im.tid b
    showSpan (setBank (clearBank s lead b) lead b x) lead b x.spanfl) s
  let s := { s with failing := s.failing ++ bad }
  modCore s c (fun k => { k with chans := im.chans.foldl (fun t q => tput t q.1 { q.2 with own := some im.tid }) k.chans })

/-- The channels of a restored team count as accepted now, in their saved order, and follow their teams (R299). -/
def rekeyChans (s : State) (im : Image) (c : Nat) (a : Alloc) : State :=
  let ord := (core s c).chanOrder
  let sorted := im.chans.map (fun q => (q, (im.chans.filter (fun r => decide (r.2.order < q.2.order))).length))
  let s := sorted.foldl (fun s p => modChan s c p.1.1 (fun _ => unpackChan s im.tid (ord + p.2) a p.1.2)) s
  let s := modCore s c (fun k => { k with chanOrder := ord + im.chans.length })
  im.chans.foldl (fun s q =>
    match q.2.key with
    | some k => if q.2.st = .frozen then
        { s with parked := s.parked ++ [{ id := s.nextPark, die := dieOf c, key := k, ref := .chan c q.1 }], nextPark := s.nextPark + 1 }
      else s
    | none => s) s

/-- A restored team goes on: its accesses are issued again, its waits fill if they may, the line of an active loop is fetched
(R117, R178, R390); and its image leaves the lists. Where the image held an error in what every group needs, each takes a fault of
kind D (R191; DESIGN CHOICE, log 13). -/
def wakeImage (s : State) (im : Image) (c : Nat) (a : Alloc) : State :=
  let gs := a.slots.filterMap (fun p => (group? s c p.2).map (fun g => (p.2, g)))
  let s := gs.foldl (fun s p => (reissues p.2).foldl (fun s x =>
    walkAgain (releaseHeld s c p.1 x.2.1 x.2.2 x.1) c p.1 x.2.1 x.2.2 x.1) s) s
  let s := im.mxops.foldl (fun s o =>
    match o.access with
    | some _ =>
      (match newSlot im a o.slot with
        | some sl => walkAgain s c sl 18 false o.seq
        | none => s)
    | none => s) s
  let s := gs.foldl (fun s p => modGroup s c p.1 (fun g => keepLoopLine s c ([13, 14, 15, 16].foldl streamFill g))) s
  let s := gs.foldl (fun s p => (List.range 8).foldl (fun s i => fillWait s c p.1 i) s) s
  let s := if im.openFails s then gs.foldl (fun s p => postLate s c p.1 (dFault 0x19 ((im.va.map (·.2)).getD 0) 21 (group s c p.1).pc)) s
    else s
  let late := gs.any (fun p => (allEntries p.2).any (fun x => match x.2.2.2.pend with | .ctxsave _ _ => true | _ => false))
  let s := { s with
    images := s.images.filter (fun x => x.tid != im.tid)
    dies := s.dies.map (fun d => (d.1, { d.2 with restore := d.2.restore.filter (fun x => x != im.tid) })) }
  if late then beginSave s im.tid 5 else s

/-- The teams of a cluster come back together (R22, R358): all take their cores before any channel or access looks for one. -/
def restoreTeams (s : State) (l : List (Image × Nat × Alloc)) : State :=
  let s := l.foldl (fun s x => seatImage s x.1 x.2.1 x.2.2) s
  let s := l.foldl (fun s x => rekeyChans s x.1 x.2.1 x.2.2) s
  l.foldl (fun s x => wakeImage s x.1 x.2.1 x.2.2) s

/-- An image that is refused for a feature stays, and an event is posted once (R363). -/
def refuseImages (s : State) (d : Nat) : State :=
  (die s d).restore.foldl (fun s tid =>
    match s.images.find? (fun im => im.tid == tid) with
    | some im =>
      if featureAbsent s im && !im.refused then
        postEvent { s with images := s.images.map (fun x => if x.tid = tid then { x with refused := true } else x) } im.team.part d 4
          (im.team.grid % 2 ^ 52 + 2 ^ 64)
      else s
    | none => s) s


/-- TEAM_RESTORE: the dispatcher of a die restores the first saved cluster that fits (R358; selection: die). -/
def execTeamRestore (s : State) : Host.Outcome State Fault Refusal :=
  let d := selAt s 0
  let s := refuseImages s d
  let cls := match (die s d).held with | p :: _ => classOf s (grid s (gridKey p.src.part p.rcd)).lr | [] => 0
  match restoreChoice s d cls with
  | none => .next s
  | some l =>
    let s := restoreTeams s l
    .next (retrySaves s ((l.head?.map (fun x => x.1.team.part)).getD 0))

/-- Whether the counter of a child on which a group of a saved parent is parked has reached its value (R364): the mwait at the head
of its queue. -/
def parentReady (s : State) (im : Image) : Bool :=
  im.groups.any (fun p => (portOf p.2 false 20).q.head?.any (fun e => match e.pend with
    | .mwait a n _ => a.elems.any (fun x => match devRead s (dieOf im.team.core) im.team.part x.va 8 with
        | some v => decide (n.toNat ≤ v)
        | none => false)
    | _ => false))

/-- SWAPPED_PARENT_WAKE: a swapped-out parent goes to the front of its die's restore list (R364; selection: team). -/
def execSwappedParentWake (s : State) : Host.Outcome State Fault Refusal :=
  match s.images.find? (fun im => im.tid == selAt s 0) with
  | none => .next s
  | some im =>
    let all := clusterImages s im
    if im.cause = 3 ∧ !im.listed ∧ all.any (parentReady s) then
      let ids := all.map (·.tid)
      .next (modDie { s with images := s.images.map (fun x => if ids.contains x.tid then { x with listed := true } else x) }
        (takingDie s im.team.part (dieOf im.team.core))
        (fun d => { d with restore := ids ++ d.restore }))
    else .next s

/-! ### Placement (R20, R357, R358) -/

/-- The teams of a cluster, as needs of the cores of a rectangle. -/
def clusterNeeds (lr : LaunchRec) (o : Nat) : List (Nat × Need) := (rectCores o lr.w lr.h).map (fun c => (c, needOf lr))

/-- The first candidate that takes a cluster. -/
def firstFitting (s : State) (lr : LaunchRec) (os : List Nat) : Option (List (Nat × Alloc)) :=
  os.findSome? (fun o => match fitAll s (clusterNeeds lr o) with | .fits l => some l | _ => none)

/-- The candidates that lack only a contiguous run (R357). -/
def runCandidates (s : State) (lr : LaunchRec) (os : List Nat) : List Nat :=
  os.filter (fun o => fitAll s (clusterNeeds lr o) == .run)

/-- The record that a dispatcher places, changed. -/
def setPlacing (s : State) (d : Nat) (f : Placing → Placing) : State :=
  modDie s d (fun x => { x with held := match x.held with | p :: rest => f p :: rest | [] => [] })

/-- A cluster is placed, and the dispatcher goes on to the next one or is free for the next record. -/
def placed (s : State) (d key : Nat) (lr : LaunchRec) (l : List (Nat × Alloc)) : State :=
  let s := placeCluster s key lr (grid s key).placed l
  if lr.teams ≤ (grid s key).placed * (lr.w * lr.h) then modDie s d (fun x => { x with held := x.held.drop 1 })
  else setPlacing s d (fun p => { p with wait := .none, rescan := false })

/-- A dispatcher that found no fit waits (R357). -/
def startWait (s : State) (d : Nat) (lr : LaunchRec) (os : List Nat) : State :=
  match runCandidates s lr os with
  | o :: _ => setPlacing s d (fun p => { p with wait := .fragmentation, cand := o, since := cycleOf s o, rescan := false })
  | [] =>
    if os.any (fun o => fitAll s (clusterNeeds lr o) == .quota) then setPlacing s d (fun p => { p with wait := .quota, rescan := false })
    else setPlacing s d (fun p => { p with wait := .resource, rescan := false })

/-- Whether a dispatcher keeps waiting without a look at its candidates: in a quota or resource wait until what it waits for has come
about (R357). -/
def stillWaits (p : Placing) : Bool := (p.wait == .quota || p.wait == .resource) && !p.rescan

/-- Whether the candidate of a fragmentation wait may still be taken: its die is allowed and its cores are in service (R355). -/
def candidateUp (s : State) (lr : LaunchRec) (o : Nat) : Bool :=
  dieAllowed s lr.part (dieOf o) && (rectCores o lr.w lr.h).all (coreUp s)

/-- TEAM_PLACEMENT: the dispatcher of a die tests the candidates of the next cluster (R354 to R358; selection: die). A saved
team of the same or a higher class that fits goes first. A fragmentation wait tests its candidate only, unless that is no
candidate any more; a quota or resource wait tests none before it has reason to. -/
def execTeamPlacement (s : State) : Host.Outcome State Fault Refusal :=
  let d := selAt s 0
  match (die s d).held with
  | [] => .next s
  | p :: _ =>
    let key := gridKey p.src.part p.rcd
    let g := grid s key
    if (restoreChoice s d (classOf s g.lr)).isSome then .next s
    else if p.wait = .fragmentation ∧ candidateUp s g.lr p.cand then
      (match fitAll s (clusterNeeds g.lr p.cand) with
        | .fits l => .next (placed s d key g.lr l)
        | _ => .next s)
    else if stillWaits p then .next s
    else
      let os := candidates s g.lr.part (homeOf s g.lr g.src g.placed) g.lr.w g.lr.h
      match firstFitting s g.lr os with
      | some l => .next (placed s d key g.lr l)
      | none => .next (startWait s d g.lr os)

/-- The place of a candidate in the order of R355, from a home die on. -/
def candidateRank (home o : Nat) : Nat := (dieOf o + 8 - home) % 8 * 72 + o % 72

/-- Whether a candidate is one that a fragmentation wait may go on to: short only of a run, or of nothing any more (R357). -/
def waitsOrFits (s : State) (lr : LaunchRec) (o : Nat) : Bool :=
  match fitAll s (clusterNeeds lr o) with | .fits _ | .run => true | _ => false

/-- FRAGMENTATION_WAIT_EXPIRY: 16,384 core cycles have passed with no fit at the start of the last: the counter rises, and the
wait goes on to the next such candidate, or the first one after the last (R357, R386; selection: die). -/
def execFragmentationWaitExpiry (s : State) : Host.Outcome State Fault Refusal :=
  let d := selAt s 0
  match (die s d).held with
  | [] => .next s
  | p :: _ =>
    let g := grid s (gridKey p.src.part p.rcd)
    let fits := match fitAll s (clusterNeeds g.lr p.cand) with | .fits _ => true | _ => false
    if p.wait = .fragmentation ∧ p.since + 16384 ≤ cycleOf s p.cand ∧ !fits then
      let s := modCore s p.cand (fun k => { k with frag := if k.frag = BitVec.allOnes 32 then k.frag else k.frag + 1 })
      let home := homeOf s g.lr g.src g.placed
      let os := (candidates s g.lr.part home g.lr.w g.lr.h).filter (waitsOrFits s g.lr)
      match os.filter (fun o => decide (candidateRank home p.cand < candidateRank home o)) ++ os with
      | o :: _ => .next (setPlacing s d (fun p => { p with cand := o, since := cycleOf s o }))
      | [] => .next (setPlacing s d (fun p => { p with wait := .none }))
    else .next s

end Sys2Proof.Machine
end

