-- ==== Sys2Proof/Machine/HostIf.lean ====
section
/-! DEFINITION. The host at the BARs, host commands, host-assisted service, and the fabric (R303 to R306, R327, R351, R361,
R367, R384, R386, R402 to R407, R420 to R425, R433). -/

namespace Sys2Proof.Machine

/-! ### Descriptors (R303, R304) -/

/-- The key of a host command queue: its partition and number. -/
def hcqKey (p q : Nat) : Nat := p * 64 + q

/-- A host command queue. -/
def hcq (s : State) (p q : Nat) : Hcq := tget {} s.hcqs (hcqKey p q)

/-- A host command queue changed. -/
def modHcq (s : State) (p q : Nat) (f : Hcq → Hcq) : State := { s with hcqs := tput s.hcqs (hcqKey p q) (f (hcq s p q)) }

/-- HCQ_DOORBELL: the host writes PI of a queue (R303; selection: partition, queue, value). A value below PI, or more than N
above CI, is counted in ERR. -/
def execHcqDoorbell (s : State) : Host.Outcome State Fault Refusal :=
  let p := selAt s 0
  let q := selAt s 1
  let x := hcq s p q
  let v := selAt s 2
  if p < 8 ∧ q < 64 ∧ x.enabled ∧ v < 2 ^ 64 then
    if v < x.pi.toNat ∨ x.ci.toNat + x.n < v then
      .next (modHcq s p q (fun x => { x with err := if x.err = BitVec.allOnes 32 then x.err else x.err + 1 }))
    else .next (modHcq s p q (fun x => { x with pi := BitVec.ofNat 64 v }))
  else .next s

/-- The key of a ring of the device by its kind: 0 completion posting, 1 tenant events, 2 slip log. -/
def ringKey (p kind : Nat) : Nat := match kind with | 0 => postKey p | 1 => eventKey p | _ => slipKey

/-- RING_CI_WRITE: the consumer of a device ring writes CI (R303, R326; selection: partition, ring, value). A value below CI or
above PI is ignored; an advance ends a run of losses. -/
def execRingCiWrite (s : State) : Host.Outcome State Fault Refusal :=
  let key := ringKey (selAt s 0 % 8) (selAt s 1)
  let r := tget {} s.rings key
  let v := selAt s 2
  if r.base.isSome ∧ r.ci.toNat ≤ v ∧ v ≤ r.pi.toNat then
    .next { s with rings := tput s.rings key { r with ci := BitVec.ofNat 64 v, losing := r.losing && r.ci.toNat == v } }
  else .next s

/-! ### Commands (R305, R306, R361) -/

/-- The die whose scheduler serves the queues of a partition: the lowest that it may use, in service or under repair: its Newt
serves them until the repair ends (R435; log 25). -/
def serving (s : State) (p : Nat) : Nat :=
  ((List.range 8).find? (fun d => (dieMask s p).getLsbD d && (dieUp s d || s.pkg.molt.repairing == some d))).getD (lowestDie s p)

/-- A record of a host queue is ready for the dispatcher of a die, or of the one that takes its work (R435). -/
def queueReady (s : State) (d : Nat) (r : Ready) : State := addReady s (takingDie s r.part d) r

/-- The physical address of the command at the head of a queue. -/
def commandAt (x : Hcq) : Nat := x.base + x.ci.toNat % x.n * 64

/-- A 64-byte command entry as a number. One that meets an uncorrectable error is read as an entry of no opcode, which is skipped
(R191, R305; DESIGN CHOICE, log 53). -/
def command (s : State) (x : Hcq) : Nat := if failingAt s (commandAt x) 64 then 0xFF else physRead s none (commandAt x) 64

/-- The opcode, flags, word 0 and word 1 of an entry. -/
def cmdOp (w : Nat) : Nat := w % 256
def cmdFlags (w : Nat) : Nat := w / 256 % 256
def cmdWord0 (w : Nat) : Nat := w / 2 ^ 64 % 2 ^ 64
def cmdWord1 (w : Nat) : Nat := w / 2 ^ 128 % 2 ^ 64

/-- Whether an entry is skipped: an opcode of none, or nonzero reserved bytes (R305). -/
def cmdBad (w : Nat) : Bool :=
  decide (4 < cmdOp w) || decide (1 < cmdFlags w) || decide (w / 2 ^ 16 % 2 ^ 48 ≠ 0) || decide (w / 2 ^ 192 ≠ 0)

/-- Whether a launch of a queue has not retired. -/
def launchOpen (s : State) (key : Nat) : Bool :=
  s.grids.any (fun g => g.2.src.queue == some key || g.2.resumedBy.contains key) ||
    s.pkg.skein.any (fun e => e.src.queue == some key || e.resumedBy.contains key) ||
    s.dies.any (fun d => d.2.ready.any (fun r => r.queue == some key))

/-- Whether a queue may give its next command: enabled, with one exposed, and held by no WAITCTR, BARRIER or mode of its
scheduler (R303, R305, R306). -/
def commandReady (s : State) (p q : Nat) : Bool :=
  let x := hcq s p q
  decide (p < 8) && decide (q < 64) && x.enabled && decide (x.ci.toNat < x.pi.toNat) && x.waitctr.isNone &&
    modeOf s .sched (serving s p) != 2 &&
    (cmdBad (command s x) || !(command s x).testBit 8 || !launchOpen s (hcqKey p q))

/-- The state with the head command of a queue taken. -/
def takeCommand (s : State) (p q : Nat) : State := modHcq s p q (fun x => { x with ci := x.ci + 1 })

/-- A command of one kind: taken when it stands at the head of its queue (selection: partition, queue). -/
def runCommand (s : State) (ok : Nat → Bool) (f : State → Nat → Nat → Nat → State) : Host.Outcome State Fault Refusal :=
  let p := selAt s 0
  let q := selAt s 1
  let w := command s (hcq s p q)
  if commandReady s p q && ok w then .next (f (takeCommand s p q) p q w) else .next s

/-- NOP; or an entry that is skipped, with its event (R305). -/
def execNop (s : State) : Host.Outcome State Fault Refusal :=
  runCommand s (fun w => cmdBad w || cmdOp w == 0) (fun s p _ w =>
    if cmdBad w then postEvent s p (serving s p) 4 (cmdWord0 w + 2 * 2 ^ 64) else s)

/-- LAUNCH: the record is ready for the dispatcher (R305, R306). -/
def execLaunch (s : State) : Host.Outcome State Fault Refusal :=
  runCommand s (fun w => !cmdBad w && cmdOp w == 1) (fun s p q w =>
    queueReady s (serving s p) { rcd := cmdWord0 w, part := p, queue := some (hcqKey p q), num := (hcq s p q).ci.toNat })

/-- WAITCTR: later commands of the queue wait (R305). -/
def execWaitctr (s : State) : Host.Outcome State Fault Refusal :=
  runCommand s (fun w => !cmdBad w && cmdOp w == 2) (fun s p q w =>
    modHcq s p q (fun x => { x with waitctr := some (cmdWord0 w, BitVec.ofNat 64 (cmdWord1 w)) }))

/-- SIGNAL: an add at system scope, or the event of kind 8 (R305). It waits for a hidden write of its counter (R241). -/
def execSignal (s : State) : Host.Outcome State Fault Refusal :=
  let p := selAt s 0
  runCommand s (fun w => !cmdBad w && cmdOp w == 3 && !addWaits s (serving s p) p (cmdWord0 w)) (fun s p _ w =>
    match devAdd s (serving s p) p (cmdWord0 w) (BitVec.ofNat 64 (cmdWord1 w)) with
    | some (s, _) => s
    | none => postEvent s p (serving s p) 8 (cmdWord0 w))

/-- PREEMPT of a grid (R361): its teams not yet placed are withdrawn, and its placed teams are saved. A grid whose last team
has retired in this cycle posts status 6. -/
def suspendGrid (s : State) (d p rcd : Nat) : State :=
  let key := gridKey p rcd
  match tfind s.grids key with
  | none =>
    match s.pkg.skein.find? (fun e => e.part == p && e.rcd == rcd) with
    | some e => { s with grids := tput s.grids key { lr := e.lr, src := e.src, die := e.die, preempt := true, resumedBy := e.resumedBy } }
    | none => s
  | some g =>
    if g.preempt then s
    else if g.ending.isSome then (if cycleOf s g.endAt.1 = g.endAt.2 then postEnded s d p rcd else s)
    else
      let s := modGrid s key (fun g => { g with
        preempt := true, preAt := some (d, (residentTeams s key).map (fun t => (t.2.core, cycleOf s t.2.core))) })
      let s := { s with dies := s.dies.map (fun q => (q.1, { q.2 with held := q.2.held.filter (fun h =>
        gridKey h.src.part h.rcd != key) })) }
      (residentTeams s key).foldl (fun s t => requestSave s t.1 2 false) s

/-- PREEMPT of the record at an address: records that name it and wait for a dispatcher have been read when they became ready
(R308), so they are launched first, to be withdrawn (R361; log 44). -/
def preemptGrid (s : State) (d p rcd : Nat) : State :=
  suspendGrid (s.dies.foldl (fun s x => (x.2.ready.filter (fun r => r.part == p && r.rcd == rcd)).foldl
    (fun s r => takeReady s x.1 r) s) s) d p rcd

/-- Whether the launch of a record that a PREEMPT names must see first whether FRAME overruns in this tick (R349, R350). -/
def preemptWaits (s : State) (p rcd : Nat) : Bool :=
  s.pkg.fdue && s.dies.any (fun x => x.2.ready.any (fun r => r.part == p && r.rcd == rcd))

/-- PREEMPT (R361): it waits in hardware mode (R306, R434). -/
def execPreempt (s : State) : Host.Outcome State Fault Refusal :=
  runCommand s (fun w => !cmdBad w && cmdOp w == 4 && modeOf s .sched (serving s (selAt s 0)) == 0 &&
      !preemptWaits s (selAt s 0) (cmdWord0 w)) (fun s p _ w =>
    preemptGrid s (serving s p) p (cmdWord0 w))

/-- COMMAND_QUEUE_RESUME: the counter of a WAITCTR has reached its value (R305; selection: partition, queue). -/
def execCommandQueueResume (s : State) : Host.Outcome State Fault Refusal :=
  let p := selAt s 0
  let q := selAt s 1
  match (hcq s p q).waitctr with
  | none => .next s
  | some (va, n) =>
    match devRead s (serving s p) p va 8 with
    | some v =>
      if va % 8 = 0 ∧ n.toNat ≤ v ∧ modeOf s .sched (serving s p) ≠ 2 then .next (modHcq s p q (fun x => { x with waitctr := none }))
      else .next s
    | none => .next s

/-! ### BAR2 (R201, R241, R402) -/

/-- Whether n bytes of BAR2 are populated. -/
def bar2Ok (s : State) (a n : Nat) : Bool := decide (1 ≤ n) && decide (n ≤ 8) && dramOk s a && dramOk s (a + n - 1)

/-! ### What BAR0 reads (R31, R303, R324, R385 to R388, R403, R408 to R413, R420 to R425, R429, R433, R438) -/

/-- FBSTAT of a die (R423). -/
def fbStat (x : Die) : Nat :=
  (!x.fbTodo.isEmpty).toNat + x.fbRefused.toNat * 2 + x.fbCount % 2 ^ 32 * 2 ^ 16 + x.fbDrop.toNat * 2 ^ 48

/-- A hand-over as HOQ0 to HOQ63 read it, in 16 bytes (R424). -/
def hoqWord (h : Handover) : Nat := h.core % 2 ^ 10 + h.ticket.toNat * 2 ^ 32 + h.rcd % 2 ^ 52 * 2 ^ 64

/-- HOQN of a die: 0 in Newt mode (R424). -/
def hoqN (s : State) (d : Nat) : Nat := if modeOf s .sched d = 0 then 0 else (die s d).hoq.length

/-- A cancel as HCANC0 to HCANC15 read it (R424). -/
def hcancWord (h : Nat × BitVec 32) : Nat := h.1 % 2 ^ 10 + h.2.toNat * 2 ^ 32

/-- THSTAT (R425). -/
def thStat (k : Pkg) : Nat := min k.power (2 ^ 16 - 1) + min k.temp 255 * 2 ^ 16 + k.hotDie % 8 * 2 ^ 24

/-- A register of a die as the host reads it, by its number in the model (log 48). -/
def dieRead (s : State) (d reg j : Nat) : Nat :=
  let x := die s d
  match reg with
  | 0 => (fbEnt x j).toNat
  | 1 => fbCnt x
  | 2 => fbStat x
  | 3 => ((x.hoq[j]?).map hoqWord).getD 0
  | 4 => hoqN s d
  | 5 => ((x.hcanc[j]?).map hcancWord).getD 0
  | 6 => x.hcanc.length
  | 7 => x.hstat.toNat
  | _ => x.agemon.toNat

/-- A register of the package as the host reads it, by its number in the model (log 48). -/
def pkgRead (s : State) (reg j : Nat) : Nat :=
  let k := s.pkg
  match reg with
  | 0 => k.capmask.toNat
  | 1 => modetabRead s
  | 2 => modeDie s
  | 3 => (tget {} k.newts j).nhbt.toNat
  | 4 => k.nfail.toNat
  | 5 => moltstat s
  | 6 => (mgBusy s).toNat
  | 7 => thStat k
  | 8 => planePort s j
  | 9 => k.planefail.toNat
  | 10 => k.planstat.toNat
  | 11 => k.clknow
  | 12 => leNat k.qbuf
  | 13 => (tget 0 k.mr j).toNat
  | 14 => (tget 0 k.uitab j).toNat
  | 15 => (tget 0 k.uierr j).toNat
  | 16 => k.frame.toNat
  | 17 => (tget {} s.eth j).fcserr.toNat
  | 18 => (tget {} s.eth j).noMatch.toNat
  | 19 => (tget {} s.rings j).pi.toNat
  | 20 => (tget {} s.rings j).lost.toNat
  | 21 => (tget {} s.hcqs j).ci.toNat
  | 22 => (tget {} s.hcqs j).err.toNat
  | 23 => (tget {} s.ingest j).drops.toNat
  | 25 => leNat Config.certificate
  | 26 => if j = 0 then k.bands.length else ((k.bands[j - 1]?).map (fun b => b.1 + b.2 * 2 ^ 32)).getD 0
  | 27 => (tget {} s.hcqs j).base
  | 28 => (tget {} s.hcqs j).n
  | 29 => (tget {} s.hcqs j).pi.toNat
  | 30 => (tget {} s.hcqs j).enabled.toNat
  | 31 => k.moltctl.toNat
  | 32 => k.moltaddr.toNat
  | _ => (tget {} s.ingest j).rperr.toNat

/-- A register of a core as the host reads it, by its number in the model (log 48). -/
def coreRead (s : State) (c reg j : Nat) : Nat :=
  match reg with
  | 0 => (tget 0 (core s c).pmc j).toNat
  | _ => (core s c).frag.toNat

/-- A register of BAR0: the package's from 0, a die's from 100, a core's from 200; i names the die or the core and j the entry. -/
def registerRead (s : State) (reg i j : Nat) : Nat :=
  if reg < 100 then pkgRead s reg j else if reg < 200 then dieRead s i (reg - 100) j else coreRead s i (reg - 200) j

/-- BAR2_ACCESS: a read or a write of up to 8 bytes by the host (R402; selection: link, operation, address, length, value).
Operation 0 reads BAR2 and 1 writes it. Operation 2 reads BAR0, whose layout is free: a part with no register is answered as
unsupported; and operation 3 reads 64-bit word `length` of a register named by number and two indices (log 48). -/
def execBar2Access (s : State) : Host.Outcome State Fault Refusal :=
  let l := selAt s 0
  let a := selAt s 2
  let n := selAt s 3
  if !linkUp s l then .next s
  else if selAt s 1 = 2 then .next (if Config.bar0Populated a then s else emit s (.unsupported l))
  else if selAt s 1 = 3 then
    .next (emit s (.readData l (BitVec.ofNat 64 (registerRead s a (selAt s 4) (selAt s 5) / 2 ^ (64 * n)))))
  else if selAt s 1 = 1 then
    .next (if bar2Ok s a n then (performWrite s none (some l) (homeDie a) false (leCells a n (selAt s 4))).1 else s)
  else if !bar2Ok s a n then .next (emit s (.unsupported l))
  else if failingAt s a n then .next (emit s (.failed l))
  else .next (emit s (.readData l (BitVec.ofNat 64 (physRead s none a n))))

/-- The number of an AtomicOp among the atomics of R215: FetchAdd, Swap, CAS. -/
def atomicOpNo (op : Nat) : Nat := match op with | 0 => 0 | 1 => 7 | _ => 8

/-- An atomic by an outside agent at the home (R215, R241, R402, R406): the state, the old value and W. -/
def outsideAtomic (s : State) (via a n op : Nat) (sg : Bool) (x cmp : Nat) : State × Nat × BitVec 64 :=
  let old := physRead s none a n
  if op = 8 ∧ old ≠ cmp % 2 ^ (8 * n) then (s, old, gtime s (homeDie a))
  else
    let nv := atomicNew op (8 * n) sg old (x % 2 ^ (8 * n)) (cmp % 2 ^ (8 * n))
    let (s, w) := performWrite s none (some via) (homeDie a) false (leCells a n nv)
    (s, old, w)


/-- BAR2_ATOMICOP (R402; selection: link, operation, 1 for 64 bits, address, operand, compare). -/
def execBar2Atomicop (s : State) : Host.Outcome State Fault Refusal :=
  let l := selAt s 0
  let n := if selAt s 2 = 1 then 8 else 4
  let a := selAt s 3
  if !linkUp s l then .next s
  else if !bar2Ok s a n ∨ a % n ≠ 0 then .next (emit s (.unsupported l))
  else if failingAt s a n then .next (emit s (.failed l))
  else if hiddenIn s a n then .next s
  else
    let (s, old, _) := outsideAtomic s l a n (atomicOpNo (selAt s 1)) false (selAt s 4) (selAt s 5)
    .next (emit s (.readData l (BitVec.ofNat 64 old)))

/-! ### Registers of BAR0 -/

/-- A power of two from 16 to 65,536 (R303). -/
def ringSize (n : Nat) : Bool := [16, 32, 64, 128, 256, 512, 1024, 2048, 4096, 8192, 16384, 32768, 65536].contains n

/-- Reserved bits of a UITAB entry are zero, and its addresses aligned (R403). -/
def uiOk (e : BitVec 256) : Bool :=
  e.extractLsb' 48 80 == 0 && e.extractLsb' 4 28 == 0 && e.extractLsb' 192 3 == 0 && e.extractLsb' 128 2 == 0

/-- The entry of a device ring changed. -/
def modRing (s : State) (key : Nat) (f : DevRing → DevRing) : State := { s with rings := tput s.rings key (f (tget {} s.rings key)) }

/-- The write of a plain register, by its number in the model (log 2). A value that breaks the register's own limits is
ignored. -/
def registerWrite (s : State) (reg i j v : Nat) : State :=
  match reg with
  | 0 => if i < 8 ∧ j < 64 ∧ v % 64 = 0 then modHcq s i j (fun x => { x with base := v }) else s
  | 1 => if i < 8 ∧ j < 64 ∧ ringSize v then modHcq s i j (fun x => { x with n := v }) else s
  | 2 => if i < 8 ∧ j < 64 then modHcq s i j (fun x => { x with enabled := v % 2 == 1 }) else s
  | 3 => if 16 < i ∨ v % 64 ≠ 0 then s else modRing s i (fun r => { r with base := some v, losing := false })
  | 4 => if 16 < i ∨ !ringSize v then s else modRing s i (fun r => { r with n := v, losing := false })
  | 5 =>
    if i < 2 ∧ j < 4096 ∧ uiOk (BitVec.ofNat 256 v) then
      modPkg s (fun k => { k with uitab := tput k.uitab (i * 4096 + j) (BitVec.ofNat 256 v) })
    else s
  | 7 => modPkg s (fun k => { k with nfail := k.nfail &&& ~~~(BitVec.ofNat 10 v) })
  | 8 => modPkg s (fun k => { k with moltaddr := BitVec.ofNat 64 v })
  | 9 => modPkg s (fun k => { k with qnonce := BitVec.ofNat 384 v })
  | 10 => if v < 1000 ∨ 2 ^ 32 ≤ v then s else modPkg s (fun k => { k with skfnext := BitVec.ofNat 32 v })
  | 11 => if i < 8 then modPart s i (fun p => { p with sken := true }) else s
  | 12 => if i < 8 ∧ 1 ≤ v ∧ v ≤ 255 then modPart s i (fun p => { p with skdspan := BitVec.ofNat 8 v }) else s
  | 13 => putHost s i (min j 64) v
  | 14 => if i < 10 then modPkg s (fun k => { k with flash := tput k.flash i (leBytes (min j 131328) v) }) else s
  | _ => s

/-- REGISTER_WRITE: a BAR0 register with no behaviour of its own (R304, R347, R402, R403, R420, R429, R438; selection:
register, two indices, value). Registers: 0 to 2 BASE, N and enable of a command queue; 3, 4 BASE and N of a device ring;
5 an entry of UITAB; 7 bits of NFAIL to clear; 8 MOLTADDR; 9 QNONCE; 10 SKFPER; 11 SKEN set; 12 SKDSPAN; 13 the host's own
memory; and 14 the image of a Newt in the board's flash, which the host may write (R434). The configuration of a device
ring is held while MGBUSY (R433). -/
def execRegisterWrite (s : State) : Host.Outcome State Fault Refusal :=
  if mgBusy s ∧ (selAt s 0 = 3 ∨ selAt s 0 = 4) then .next (holdRequest s .registerWrite)
  else .next (registerWrite s (selAt s 0) (selAt s 1) (selAt s 2) (selAt s 3))

/-- A measurement register extended by a digest (R388). -/
def mrExtend (s : State) (i : Nat) (d : BitVec 384) : State :=
  modPkg s (fun k => { k with mr := tput k.mr i (extendMr (tget 0 k.mr i) d) })

/-- A measurement register extended by the digest of a change, which is open (R388, R422, R412; log 12). -/
def mrChange (s : State) (i : Nat) : State := { mrExtend s i (Config.changeDigest s.fresh) with fresh := s.fresh + 1 }

/-- Whether PQUOTA holds no value beyond its limits (R351). -/
def pquotaOk (v : BitVec 64) : Bool :=
  decide ((v.extractLsb' 59 5).toNat ≤ 16) && decide ((v.extractLsb' 51 8).toNat ≤ 128) &&
    decide ((v.extractLsb' 41 10).toNat ≤ 512) && decide ((v.extractLsb' 29 12).toNat ≤ 2048) && v.extractLsb' 16 3 == 0

/-- Whether POBQ holds no value beyond its limits (R351). -/
def pobqOk (v : BitVec 32) : Bool :=
  decide ((v.extractLsb' 16 9).toNat ≤ 256) && decide ((v.extractLsb' 0 9).toNat ≤ 256) && v.extractLsb' 25 7 == 0 &&
    v.extractLsb' 9 7 == 0

/-- Whether quotas can be changed: they are frozen in hardware mode of the scheduler (R365; log 26). -/
def quotasOpen (s : State) : Bool := !(List.range 8).any (fun d => dieUp s d && modeOf s .sched d == 1)

/-- A partition's quotas have changed: the change is measured, and its quota waits scan their candidates again (R357, R388). -/
def quotaChanged (s : State) (p : Nat) : State := rescanFor (mrChange s 4) (fun x => x.src.part == p && x.wait == .quota)

/-- PARTITION_QUOTA_WRITE: PQUOTA (0) or POBQ (1) of a partition (R351, R388; selection: partition, which, value). -/
def execPartitionQuotaWrite (s : State) : Host.Outcome State Fault Refusal :=
  let p := selAt s 0
  let v := selAt s 2
  if mgBusy s then .next (holdRequest s .partitionQuotaWrite)
  else if !quotasOpen s ∨ 8 ≤ p then .next s
  else if selAt s 1 = 0 then
    .next (if pquotaOk (BitVec.ofNat 64 v) then quotaChanged (modPart s p (fun x => { x with pquota := BitVec.ofNat 64 v })) p else s)
  else .next (if pobqOk (BitVec.ofNat 32 v) then quotaChanged (modPart s p (fun x => { x with pobq := BitVec.ofNat 32 v })) p else s)

/-- PTROOT_WRITE: every TLB entry of the partition is dropped (R327; selection: partition, value). -/
def execPtrootWrite (s : State) : Host.Outcome State Fault Refusal :=
  let p := selAt s 0
  let v : BitVec 64 := BitVec.ofNat 64 (selAt s 1)
  if mgBusy s then .next (holdRequest s .ptrootWrite)
  else if 8 ≤ p ∨ v.extractLsb' 52 12 ≠ 0 ∨ v.extractLsb' 0 16 ≠ 0 then .next s
  else .next (mrChange (tlbDrop (modPart s p (fun x => { x with ptroot := v })) p true 0) 4)

/-- TVEC_SAVEBASE_WRITE: TVEC (0) or SAVEBASE (1) of a partition (R367; selection: partition, which, value). Saves that found
no room are tried again in a changed area. -/
def execTvecSavebaseWrite (s : State) : Host.Outcome State Fault Refusal :=
  let p := selAt s 0
  let v : BitVec 64 := BitVec.ofNat 64 (selAt s 2)
  if mgBusy s then .next (holdRequest s .tvecSavebaseWrite)
  else if 8 ≤ p then .next s
  else if selAt s 1 = 0 then
    .next (if v.extractLsb' 52 12 = 0 ∧ v.extractLsb' 0 5 = 0 then mrChange (modPart s p (fun x => { x with tvec := v })) 4 else s)
  else
    .next (if v.extractLsb' 52 12 = 0 ∧ v.extractLsb' 16 5 = 0 then
        retrySaves (mrChange (modPart s p (fun x => { x with savebase := v })) 4) p
      else s)

/-- PFERR_CLEAR (R367; selection: partition). -/
def execPferrClear (s : State) : Host.Outcome State Fault Refusal :=
  .next (modPart s (selAt s 0 % 8) (fun x => { x with pferr := 0 }))

/-- PMSEL_WRITE: a selector written, or a counter cleared; a nonzero reserved bit makes the write ignored (R384; selection:
core, index, clear, value). -/
def execPmselWrite (s : State) : Host.Outcome State Fault Refusal :=
  let c := selAt s 0 % 576
  let i := selAt s 1 % 16
  let v := selAt s 3
  if selAt s 2 = 1 then .next (modCore s c (fun k => { k with pmc := tput k.pmc i 0 }))
  else if 2 ^ 13 ≤ v then .next s
  else .next (modCore s c (fun k => { k with pmsel := tput k.pmsel i (BitVec.ofNat 32 v) }))

/-- FRAGMENTATION_COUNTER_CLEAR (R386; selection: core). -/
def execFragmentationCounterClear (s : State) : Host.Outcome State Fault Refusal :=
  .next (modCore s (selAt s 0 % 576) (fun k => { k with frag := 0 }))

/-! ### Fault service by the host (R423) -/

/-- FBPOP (selection: die). -/
def execFbpop (s : State) : Host.Outcome State Fault Refusal :=
  let d := selAt s 0
  .next (if modeOf s .fault d = 0 then s else popFault s d)

/-- FBDELIV (selection: die). -/
def execFbdeliv (s : State) : Host.Outcome State Fault Refusal :=
  let d := selAt s 0
  match (die s d).fb with
  | [] => .next s
  | e :: _ =>
    if modeOf s .fault d = 0 then .next s
    else
      let pop (s : State) : State := modDie (popFault s d) d (fun x => { x with fbRefused := false })
      match deliveryOf s e with
      | .waits => .next (modDie s d (fun x => { x with fbRefused := true }))
      | .gone => .next (pop s)
      | .to c sl => .next (postLate (pop s) c sl (bFault (asRemoved s d e) (die s d).drop))

/-- FBRPL: S is fixed at the write; its accesses are walked by the steps that follow (selection: die, value). -/
def execFbrpl (s : State) : Host.Outcome State Fault Refusal :=
  let d := selAt s 0
  let v := selAt s 1
  if modeOf s .fault d = 0 ∨ (die s d).fbTodo ≠ [] then .next s
  else
    let (ids, drop, s) := fixS s d (v % 8) (v.testBit 3) (v / 2 ^ 12 % 2 ^ 52)
    .next (modDie s d (fun x => { x with fbTodo := ids, fbCount := ids.length, fbDrop := drop }))

/-! ### Scheduling by the host (R365, R424) -/

/-- Whether the scheduler of a die is in host-assisted mode. -/
def hostSched (s : State) (d : Nat) : Bool := modeOf s .sched d == 2

/-- The partition of a record that the host names by address alone: the lowest enabled one whose tables reach a record that
names it (log 27). -/
def recordPart (s : State) (d rcd : Nat) : Option Nat :=
  (List.range 8).find? (fun p => partEnabled s p &&
    match readRecord s d p rcd with | some (r, _) => r.part == p | none => false)

/-- The key of the queue that the HLAUNCH records of a die form. -/
def hostQueue (d : Nat) : Nat := 512 + d

/-- The saved teams of a grid may be restored at the host's word (R361, R424). -/
def hostResume (s : State) (key : Nat) : State :=
  { s with images := s.images.map (fun im => if im.team.grid = key then { im with hostGo := true } else im) }

/-- HLAUNCH (selection: die, value): a LAUNCH of a queue of its own. -/
def execHlaunch (s : State) : Host.Outcome State Fault Refusal :=
  let d := selAt s 0
  let rcd := selAt s 1 % 2 ^ 52
  if modeOf s .sched d = 0 then .next s
  else
    match recordPart s d rcd with
    | none => .next s
    | some p =>
      if !hostSched s (serving s p) then .next (finishUnrun s d p rcd 3)
      else
        let n := (die s d).hlaunched
        .next (queueReady (modDie (hostResume s (gridKey p rcd)) d (fun x => { x with hlaunched := n + 1 })) d
          { rcd := rcd, part := p, queue := some (hostQueue d), num := n })

/-- Whether the dispatchers know a record of a partition: its grid, its timetable entry, or one that is ready for them (R361). -/
def recordKnown (s : State) (p rcd : Nat) : Bool :=
  gridKnown s p rcd || s.dies.any (fun x => x.2.ready.any (fun r => r.part == p && r.rcd == rcd))

/-- HPREEMPT: a PREEMPT of the record wherever it is known (R361, R424; selection: die, value). -/
def execHpreempt (s : State) : Host.Outcome State Fault Refusal :=
  let d := selAt s 0
  let rcd := selAt s 1 % 2 ^ 52
  if !hostSched s d then .next s
  else
    match (List.range 8).find? (fun p => recordKnown s p rcd) with
    | some p => .next (if preemptWaits s p rcd then s else preemptGrid s d p rcd)
    | none => .next s

/-- A bit of HSTAT set or cleared. -/
def setHstat (s : State) (d i : Nat) (b : Bool) : State :=
  modDie s d (fun x => { x with hstat := if b then x.hstat ||| BitVec.ofNat 2 (2 ^ i) else x.hstat &&& ~~~(BitVec.ofNat 2 (2 ^ i)) })

/-- A hand-over is answered (R424): with status 1 the host has taken its ticket; with status 2 the push is refused. -/
def answerHandover (s : State) (d : Nat) (h : Handover) (status : Nat) : State :=
  let s := dropHandover (fillPushed s h status) h
  if status = 1 then
    modDie s d (fun x => { x with taken := x.taken ++
      [(h.core, { rcd := h.rcd, ticket := h.ticket, part := h.part, parent := h.parent, pusher := some h.pcore })] })
  else unissue s h.core h.ticket

/-- HOQDONE (selection: die, low and high 64 bits). -/
def execHoqdone (s : State) : Host.Outcome State Fault Refusal :=
  let d := selAt s 0
  let lo := selAt s 1
  let st := selAt s 2 % 256
  if !hostSched s d ∨ (st ≠ 1 ∧ st ≠ 2) then .next s
  else
    match (die s d).hoq.find? (fun h => h.core == lo % 2 ^ 10 && h.ticket.toNat == lo / 2 ^ 32 % 2 ^ 32) with
    | none => .next (setHstat s d 1 true)
    | some h => .next (setHstat (answerHandover s d h st) d 1 false)

/-- PLSW (selection: die, value). -/
def execPlsw (s : State) : Host.Outcome State Fault Refusal :=
  let d := selAt s 0
  let v := selAt s 1
  let c := v % 2 ^ 10
  .next (if hostSched s d && c < 576 && dieOf c == d then modCore s c (fun k => { k with pls := v / 2 ^ 16 % 2 ^ 16 }) else s)

/-- PLQFILL: the entry, with what the hand-over of its ticket told of it, goes to the core's hardware queue (selection: die,
low and high 64 bits). -/
def execPlqfill (s : State) : Host.Outcome State Fault Refusal :=
  let d := selAt s 0
  let lo := selAt s 1
  let c := lo % 2 ^ 10
  let t : BitVec 32 := BitVec.ofNat 32 (lo / 2 ^ 32)
  let rcd := selAt s 2 % 2 ^ 52
  if !hostSched s d || !(decide (c < 576) && dieOf c == d) then .next s
  else if 4 ≤ (core s c).plq.length then .next (setHstat s d 0 true)
  else
    let e : SegEntry := match (die s d).taken.find? (fun x => x.1 == c && x.2.ticket == t) with
      | some x => { x.2 with rcd := rcd }
      | none => { rcd := rcd, ticket := t, part := (recordPart s d rcd).getD 0 }
    let s := modDie s d (fun x => { x with taken := x.taken.filter (fun y => !(y.1 == c && y.2.ticket == t)) })
    .next (setHstat (plqPush s c e) d 0 false)

/-- HCANCPOP, in every mode (R424; selection: die). -/
def execHcancpop (s : State) : Host.Outcome State Fault Refusal :=
  .next (modDie s (selAt s 0) (fun x => { x with hcanc := x.hcanc.drop 1 }))

/-- HFIN: a record that the host has taken is finished as cancelled (selection: die, value). -/
def execHfin (s : State) : Host.Outcome State Fault Refusal :=
  let d := selAt s 0
  let rcd := selAt s 1 % 2 ^ 52
  if !hostSched s d ∨ selAt s 1 / 2 ^ 56 ≠ 5 then .next s
  else
    match (die s d).taken.find? (fun x => x.2.rcd == rcd) with
    | none => .next (setHstat s d 1 true)
    | some x =>
      let s := modDie s d (fun k => { k with taken := k.taken.erase x })
      .next (setHstat (finishUnrun s d x.2.part rcd 5) d 1 false)

/-! ### The fabric (R405 to R407, R425) -/

/-- Whether the fabric and the Ethernet ports are up (R436). -/
def portsUp (s : State) : Bool := !s.pkg.capmask.getLsbD 39

/-- FABIDW (selection: value): once, in host-assisted mode of the fabric function. -/
def execFabidw (s : State) : Host.Outcome State Fault Refusal :=
  let v := selAt s 0
  .next (if modeOf s .fabric 0 = 2 ∧ s.pkg.fabid = none ∧ v < 192 ∧ portsUp s then modPkg s (fun k => { k with fabid := some v }) else s)

/-- Entry p of PLANEMAP in a written value. -/
def planeField (v p : Nat) : Nat := v / 2 ^ (5 * p) % 32

/-- PLANEMAP, by the fabric Newt or in host-assisted mode by the host (selection: low and high 64 bits); routes are frozen in
hardware mode (R407). -/
def execPlanemap (s : State) : Host.Outcome State Fault Refusal :=
  let v := selAt s 0 % 2 ^ 64 + selAt s 1 % 2 ^ 26 * 2 ^ 64
  let es := (List.range 18).map (planeField v)
  .next (if modeOf s .fabric 0 ≠ 1 ∧ es.all (fun x => decide (x < 18)) then
      modPkg s (fun k => { k with planemap := es.zipIdx.map (fun p => (p.2, p.1)) })
    else s)


/-- The ports that are up. -/
def livePorts (fail : BitVec 18) : List Nat := (List.range 18).filter (fun p => !fail.getLsbD p)

/-- FABRIC_PLANE_FAILOVER: a port goes down; the fabric Newt in Newt mode moves its lines (R407; selection: plane). Which of
the ports that are up takes the lines of a home plane is free (log 28). -/
def execFabricPlaneFailover (s : State) : Host.Outcome State Fault Refusal :=
  let p := selAt s 0 % 18
  let fail := s.pkg.planefail ||| BitVec.ofNat 18 (2 ^ p)
  let s := modPkg s (fun k => { k with planefail := fail })
  let live := livePorts fail
  if live ≠ [] ∧ modeOf s .fabric 0 = 0 then
    let port (i : Nat) : Nat := live.getD (Config.choice (s.fresh + i) % live.length) 0
    .next { modPkg s (fun k => { k with planemap := (List.range 18).map (fun i => (i, if planePort s i = p then port i else planePort s i)) })
      with fresh := s.fresh + 18 }
  else .next s

/-- FABRIC_PLANE_RETURN: a port comes up again, unless Tadpole service keeps every port down (R425, R436; selection: plane). -/
def execFabricPlaneReturn (s : State) : Host.Outcome State Fault Refusal :=
  let p := selAt s 0 % 18
  .next (if portsUp s then modPkg s (fun k => { k with planefail := k.planefail &&& ~~~(BitVec.ofNat 18 (2 ^ p)) }) else s)

/-- The request of another package, carried out at home: the state, the answer and the tick from which it is sent. An address
that is not populated or holds an uncorrectable error is answered with the low 64 bits of a failure (log 15). -/
def remoteAccess (s : State) (port op a n : Nat) (x cmp : Nat) : State × BitVec 128 × BitVec 64 :=
  if op = 0 then (s, BitVec.ofNat 128 (physRead s none a n), gtime s (homeDie a))
  else if op = 1 then
    let (s, w) := performWrite s none (some (16 + port)) (homeDie a) false (leCells a n x)
    (s, 0, w)
  else
    let (s, old, w) := outsideAtomic s (16 + port) a n ((op - 2) % 10) ((op - 2) / 10 == 0 || (op - 2) / 10 == 3) x cmp
    (s, BitVec.ofNat 128 old, w)

/-- FABRIC_REMOTE_ACCESS: a request of another package to region 0x0, performed at most once (R405 to R407; selection: port,
source, sequence number, operation, address, length, low and high data, compare). Operations: 0 read, 1 write, 2 + 10 t + k
atomic k of R215 at TYPE t. -/
def execFabricRemoteAccess (s : State) : Host.Outcome State Fault Refusal :=
  let port := selAt s 0 % 18
  let src := selAt s 1
  let seq := selAt s 2
  let op := selAt s 3
  let a := selAt s 4
  let n := if 2 ≤ op then atWidth (BitVec.ofNat 3 ((op - 2) / 10)) else selAt s 5
  let x := selAt s 6 % 2 ^ 64 + selAt s 7 * 2 ^ 64
  if !portsUp s then .next s
  else
    match s.pkg.seen.find? (fun r => r.1 == src && r.2.1 == seq) with
    | some r => .next (emit s (.fabricAnswer port r.2.2.1 r.2.2.2))
    | none =>
      if !(decide (1 ≤ n) && decide (n ≤ 16) && decide (a + n ≤ 2 ^ 39) && dramOk s a && dramOk s (a + n - 1)) then
        .next (emit s (.unsupported (16 + port)))
      else if op ≠ 1 ∧ failingAt s a n then .next (emit s (.failed (16 + port)))
      else if 2 ≤ op ∧ (hiddenIn s a n ∨ a % n ≠ 0) then .next s
      else
        let (s, v, t) := remoteAccess s port op a n x (selAt s 8)
        .next (emit (modPkg s (fun k => { k with seen := k.seen ++ [(src, seq, v, t)] })) (.fabricAnswer port v t))

/-- A group's access to another package that has had no answer: a translation fault. Whether a write was performed there
before is open. -/
def accessTimeout (s : State) (c sl u : Nat) (hand : Bool) (a : Access) : State :=
  let fva := ((a.elems.head?).map (·.va)).getD 0
  let ln := ((a.elems.head?).map (·.lane)).getD 0
  match entryOfSeq (group s c sl) hand u a.seq with
  | some i => if a.kind = .streamRead then vectorFault s c sl u i 0x0A fva ln else accessFault s c sl u hand i 0x0A fva
  | none => if u = 18 then s else postLate (dropAccess s c sl u hand a.seq) c sl (dFault 0x0A fva u (group s c sl).pc)

/-- FABRIC_ACCESS_TIMEOUT (R407; selection: 0, core, slot, unit, bank, place in program order for an access of a group; 1, core,
channel for a copy, which freezes with FCODE 2; 2, leader core, operation for the matrix engine). -/
def execFabricAccessTimeout (s : State) : Host.Outcome State Fault Refusal :=
  let c := selAt s 1
  match selAt s 0 with
  | 0 =>
    let sl := selAt s 2
    let hand := selAt s 4 == 1
    (match findAccess s c sl (selAt s 3) hand (selAt s 5) with
      | some a =>
        .next (if a.stat == .ready && !a.held && a.kind != .wmwait && timedOut s c a.sent (a.elems.map (·.pa)) then
            accessTimeout s c sl (selAt s 3) hand a
          else s)
      | none => .next s)
  | 1 =>
    let q := chanOf s c (selAt s 2)
    if q.st == .landing && q.ring.isNone && q.elemW.isNone && !q.wov && !q.wls && startReady s c q.wait q.minT then
      match elemTimedOut s c q with
      | some dst =>
        let va := if dst then q.rdst + dstOff q.rshape q.pos else srcAddr q.rshape q.rsrc q.pos
        .next (freezeChan s c (selAt s 2) 2 dst ⟨q.part, va / 4096 * 4096, 12⟩ va (if dst then .copyDst else .copySrc))
      | none => .next s
    else .next s
  | _ =>
    match (core s c).mxops.find? (fun o => o.id == selAt s 2) with
    | some o =>
      (match o.access with
        | some a =>
          let fva := ((a.elems.head?).map (·.va)).getD 0
          let asked := if o.kind = .load then o.started else nextMx s c false == some o
          if a.stat == .ready && asked && timedOut s c a.sent (a.elems.map (·.pa)) then
            .next (if o.kind = .load then refuseLoad s c o 0x0A fva else failMx s c o 0x0A fva)
          else .next s
        | none => .next s)
    | none => .next s

/-! ### The thermal limit by the host (R425) -/

/-- THLIMIT (selection: value): held until the next FRAME advance; another value is refused. -/
def execThlimit (s : State) : Host.Outcome State Fault Refusal :=
  let v := selAt s 0
  .next (if modeOf s .thermal 0 = 2 ∧ 1300 ≤ v ∧ v ≤ 1450 then modPkg s (fun k => { k with thPending := some v }) else s)

end Sys2Proof.Machine
end

