-- ==== Sys2Proof/Machine/Ingest.lean ====
section
/-! DEFINITION. Ethernet ingest (R252, R297, R320 to R323, R408 to R410, R433). -/

namespace Sys2Proof.Machine


/-- A ring. -/
def iring (s : State) (i : Nat) : IngestRing := tget {} s.ingest i

/-- A ring changed. -/
def modIring (s : State) (i : Nat) (f : IngestRing → IngestRing) : State := { s with ingest := tput s.ingest i (f (iring s i)) }


/-! ### Matching (R408, R409) -/

/-- The big-endian 16-bit word at a byte of a frame. -/
def be16 (bs : List Byte) (i : Nat) : Nat := ((bs[i]?).getD 0).toNat * 256 + ((bs[i + 1]?).getD 0).toNat

/-- Whether a frame has a VLAN tag (log 29). -/
def vlanTagged (bs : List Byte) : Bool := be16 bs 12 == 0x8100

/-- The place of the EtherType, after any VLAN tag. -/
def etypeAt (bs : List Byte) : Nat := if vlanTagged bs then 16 else 12

/-- The EtherType. -/
def etype (bs : List Byte) : Nat := be16 bs (etypeAt bs)

/-- The UDP destination port of an unfragmented IPv4 or IPv6 datagram (log 29). -/
def udpPort (bs : List Byte) : Option Nat :=
  let l3 := etypeAt bs + 2
  let b (i : Nat) : Nat := ((bs[l3 + i]?).getD 0).toNat
  if etype bs = 0x0800 ∧ b 9 = 17 ∧ be16 bs (l3 + 6) % 2 ^ 14 = 0 then some (be16 bs (l3 + b 0 % 16 * 4 + 2))
  else if etype bs = 0x86DD ∧ b 6 = 17 then some (be16 bs (l3 + 42))
  else none

/-- Whether a frame matches a rule: every enabled field of a valid rule (R409). -/
def ruleMatches (bs : List Byte) (r : BitVec 64) : Bool :=
  r.getLsbD 63 && (!r.getLsbD 62 || etype bs == (r.extractLsb' 32 16).toNat) &&
    (!r.getLsbD 61 || (vlanTagged bs && be16 bs 14 % 2 ^ 12 == (r.extractLsb' 48 12).toNat)) &&
    (!r.getLsbD 60 || udpPort bs == some (r.extractLsb' 16 16).toNat)

/-- The lowest-numbered rule of a port that a frame matches. -/
def matchRule (p : EthPort) (bs : List Byte) : Option Nat := (List.range 64).find? (fun i => ruleMatches bs (tget 0 p.rules i))

/-- Whether a frame is a pause or PFC frame, which a port ignores: MAC control with the opcode of either (R408). -/
def macControl (bs : List Byte) : Bool := be16 bs 12 == 0x8808 && (be16 bs 14 == 0x0001 || be16 bs 14 == 0x0101)

/-- FRAME_RECEIVE: the last byte of a frame has arrived (R408 to R410; selection: port, whether its FCS is good, its bytes
without the FCS). -/
def execFrameReceive (s : State) : Host.Outcome State Fault Refusal :=
  let p := selAt s 0
  let bs := (s.sel.drop 2).map (BitVec.ofNat 8)
  if !portsUp s ∨ 16 ≤ p then .next s
  else if selAt s 1 ≠ 1 ∨ bs.length + 4 < 64 ∨ 9216 < bs.length + 4 then .next (modEth s p (fun x => { x with fcserr := x.fcserr + 1 }))
  else if macControl bs then .next s
  else
    match matchRule (eth s p) bs with
    | none => .next (modEth s p (fun x => { x with noMatch := x.noMatch + 1 }))
    | some i =>
      .next (modEth s p (fun x => { x with frames := x.frames ++
        [{ bytes := bs, port := p, rule := i, ring := ((tget 0 x.rules i).extractLsb' 0 10).toNat, arrival := portTime s p }] }))

/-! ### Pause (R322, R410) -/


/-- The free space of a ring. -/
def freeSpace (r : IngestRing) : Nat := r.rs - (r.wp.toNat - r.rp.toNat)


/-- A ring starts or ends its pause, and its port sends XOFF or XON with the first or after the last (R322, R410). -/
def pauseCheck (s : State) (i : Nat) : State :=
  let r := iring s i
  let low := decide (freeSpace r < r.high)
  let high := decide (r.high + 65536 ≤ freeSpace r)
  pauseFrames s (modIring s i (fun r => { r with paused := r.enabled && (low || (r.paused && !high)) })) r.port

/-- PAUSE_XOFF_REFRESH: 20 µs after its last XOFF on a priority that it pauses a port repeats it (R410; selection: port). -/
def execPauseXoffRefresh (s : State) : Host.Outcome State Fault Refusal :=
  let p := selAt s 0
  let due (k : Nat) : Bool := pausing s p k && decide ((tget 0 (eth s p).xoff k).toNat + 20000 ≤ (portTime s p).toNat)
  if portsUp s then .next (((List.range 8).filter due).foldl (fun s k => sendXoff s p k) s) else .next s

/-! ### Landing (R321 to R323) -/

/-- Where the records that have landed in a ring end, WP or later. -/
def ringTail (s : State) (i : Nat) : Nat :=
  s.eth.foldl (fun t q => q.2.frames.foldl (fun t f => match f.landed with
    | some (e, _) => if f.ring = i then max t e.toNat else t
    | none => t) t) (iring s i).wp.toNat

/-- RP as it stood at the start of this tick (R323). -/
def rpNow (s : State) (r : IngestRing) : Nat := (if r.rpTick = portTime s r.port then r.rpOld else r.rp).toNat

/-- The cells of a frame's record at an address (R321). -/
def recordCells (a : Nat) (f : Frame) : List Host.Cell :=
  leCells a 16 (f.bytes.length % 2 ^ 16 + f.rule % 64 * 2 ^ 16 + f.port % 16 * 2 ^ 28 + f.arrival.toNat * 2 ^ 64) ++
    (f.bytes ++ List.replicate ((64 - (16 + f.bytes.length) % 64) % 64) 0).zipIdx.map (fun (p : Byte × Nat) => (a + 16 + p.2, p.1))

/-- The cells of a pad record of n bytes: its port and kind; what its other bytes hold is open (log 29). -/
def padCells (s : State) (a n : Nat) (f : Frame) : List Host.Cell :=
  let v := Config.choice s.fresh
  leCells a 8 (v % 2 ^ 16 + v / 2 ^ 16 % 64 * 2 ^ 16 + (1 + f.port % 16 * 16) * 2 ^ 24) ++ leCells (a + 8) (n - 8) (v / 2 ^ 24 % 2 ^ (8 * (n - 8)))

/-- A frame lands whole, or is dropped (R321, R322, R410): the state, and the frame if it has landed. -/
def landFrame (s : State) (f : Frame) : State × Option Frame :=
  let r := iring s f.ring
  let tail := ringTail s f.ring
  let len := (16 + f.bytes.length + 63) / 64 * 64
  let pos := tail % r.rs
  let pad := if r.rs < pos + len then r.rs - pos else 0
  if !r.enabled ∨ r.port ≠ f.port ∨ r.rs < pad + len + (tail - rpNow s r) then
    (modIring s f.ring (fun r => { r with drops := r.drops + 1 }), none)
  else
    let at_ := r.rb + (tail + pad) % r.rs
    let cells := (if pad = 0 then [] else padCells s (r.rb + pos) pad f) ++ recordCells at_ f
    let (s, w) := performWrite { s with fresh := s.fresh + 1 } none none (homeDie r.rb) false cells
    (s, some { f with landed := some (BitVec.ofNat 64 (tail + pad + len), w) })

/-- The first frame of a port that has neither landed nor been dropped: it lands, or is dropped. -/
def landNext (s : State) (p : Nat) : State :=
  let fs := (eth s p).frames
  let before := fs.takeWhile (fun f => f.landed.isSome)
  match fs.drop before.length with
  | [] => s
  | f :: rest =>
    let (s, o) := landFrame s f
    modEth s p (fun x => { x with frames := before ++ o.toList ++ rest })

/-- The lines of the landed bytes leave the L1 of every core with a channel bound to the ring (R252, R297). -/
def dropLines (s : State) (i a n : Nat) : State :=
  { s with cores := s.cores.map (fun q =>
      if q.2.chans.any (fun c => ringBound c.2 && c.2.ring == some i) then
        (q.1, { q.2 with l1 := q.2.l1.filter (fun l => !(decide (a / 64 ≤ l.1) && decide (l.1 * 64 < a + n))) })
      else q) }

/-- The oldest frame's record is served to every observer: WP advances past it, and is written with a release (R321). -/
def advanceWp (s : State) (p : Nat) (f : Frame) (e : BitVec 64) : State :=
  let r := iring s f.ring
  let s := dropLines s f.ring r.rb r.rs
  let s := modIring s f.ring (fun r => { r with wp := e })
  let s := (performWrite s none none (homeDie r.rcb) false (leCells r.rcb 8 e.toNat)).1
  pauseCheck (modEth s p (fun x => { x with frames := x.frames.drop 1 })) f.ring

/-- INGEST_WP_ADVANCE: the next frame of a port lands (0), or WP advances past the oldest landed record (1), in arrival order
(R321, R322; selection: port, which). -/
def execIngestWpAdvance (s : State) : Host.Outcome State Fault Refusal :=
  let p := selAt s 0
  if selAt s 1 = 0 then .next (landNext s p)
  else
    match (eth s p).frames with
    | f :: _ =>
      (match f.landed with
        | some (e, w) =>
          if !(iring s f.ring).enabled then .next (modEth s p (fun x => { x with frames := x.frames.drop 1 }))
          else if w.toNat ≤ (gtime s (homeDie (iring s f.ring).rb)).toNat then .next (advanceWp s p f e)
          else .next s
        | none => .next s)
    | [] => .next s

/-! ### Configuration (R320, R409) -/

/-- Whether a ring's configuration keeps its limits (R320, R321). -/
def ringCfgOk (s : State) (rb rs high rcb part port prio : Nat) : Bool :=
  rs % 65536 == 0 && decide (524288 ≤ rs) && decide (rs ≤ 2 ^ 32) && rb % rs == 0 && high % 65536 == 0 && decide (262144 ≤ high) &&
    decide (2 * high ≤ rs) && rcb % 64 == 0 && decide (part < 8) && decide (port < 16) && decide (prio < 8) &&
    dramOk s rb && dramOk s (rb + rs - 1) && dramOk s rcb

/-- A ring is disabled: a channel bound to it is let go, and its pause ends (R297, R320, R410). -/
def disableRing (s : State) (i : Nat) : State :=
  pauseFrames s (modIring (unbindRing s i) i (fun r => { r with enabled := false, paused := false })) (iring s i).port

/-- RING_CONFIGURE: an enabled ring takes the RP that stands in its control block (R320, R323; selection: ring, enable, RB, RS,
HIGH, RCB, partition, port, priority). -/
def execRingConfigure (s : State) : Host.Outcome State Fault Refusal :=
  let i := selAt s 0
  let r := iring s i
  if mgBusy s then .next (holdRequest s .ringConfigure)
  else if 1024 ≤ i then .next s
  else if selAt s 1 ≠ 1 then .next (disableRing s i)
  else if ringCfgOk s (selAt s 2) (selAt s 3) (selAt s 4) (selAt s 5) (selAt s 6) (selAt s 7) (selAt s 8) then
    let moved := r.rb != selAt s 2 || r.rs != selAt s 3 || r.port != selAt s 7
    let s := if moved then disableRing s i else s
    let s := pauseFrames s (modIring s i (fun r => { r with
      enabled := true, rb := selAt s 2, rs := selAt s 3, high := selAt s 4, rcb := selAt s 5, part := selAt s 6, port := selAt s 7
      prio := selAt s 8 })) (selAt s 7)
    .next (pauseCheck (if moved || !r.enabled || r.rcb != selAt s 5 then ringSee s i (iring s i) else s) i)
  else .next s

/-- Whether a flow rule is accepted: no reserved bit, and no ring of another port (R409). -/
def ruleOk (s : State) (port : Nat) (v : BitVec 64) : Bool :=
  v.extractLsb' 10 3 == 0 &&
    (match tfind s.ingest (v.extractLsb' 0 10).toNat with | some r => r.port == port | none => true)

/-- FLOW_RULE_WRITE (selection: port, rule, value). -/
def execFlowRuleWrite (s : State) : Host.Outcome State Fault Refusal :=
  let p := selAt s 0
  let i := selAt s 1
  let v : BitVec 64 := BitVec.ofNat 64 (selAt s 2)
  if mgBusy s then .next (holdRequest s .flowRuleWrite)
  else if 16 ≤ p ∨ 64 ≤ i ∨ !ruleOk s p v then .next s
  else .next (pauseFrames s (modEth s p (fun x => { x with rules := tput x.rules i v })) p)

end Sys2Proof.Machine
end

