-- ==== Sys2Proof/Machine/Time.lean ====
section
/-! DEFINITION. GTIME, FRAME and the Skein timetable, clock plans and power (R325, R347 to R350, R380, R381, R411 to R417,
R437). -/

namespace Sys2Proof.Machine

/-! ### GTIME (R380) -/

/-- The number of the copy of GTIME that the management Newt's I/O die holds: FRAME goes by it. -/
def x0 : Nat := 8

/-- One more tick for a copy that is not held. -/
def tickCopy (k : Pkg) (i : Nat) : Nat × BitVec 64 :=
  (i, if tget 0 k.gheld i = 0 then tget 0 k.gtime i + 1 else tget 0 k.gtime i)

/-- Every copy of GTIME moves on, held ones later. -/
def tickAll (k : Pkg) : Pkg :=
  { k with gtime := (List.range 10).map (tickCopy k), gheld := (List.range 10).map (fun i => (i, tget 0 k.gheld i - 1)) }

/-- The slip log entry of an overrunning record, and its event (R325, R326; log 30). -/
def slip (s : State) (e : SkeinEntry) : State :=
  let head := s.pkg.frame.toNat + e.df.toNat * 2 ^ 64
  let (s, _) := postRing s slipKey e.part x0 (head + e.rcd * 2 ^ 128 + e.part * 2 ^ 192 + (gtime s x0).toNat % 2 ^ 56 * 2 ^ 200)
  postEvent s e.part x0 3 head

/-- A tick in which FRAME was due ends with deadlines open: the frame overruns (R350). -/
def overrun (s : State) : State :=
  let es := deadlineOpen s.pkg
  let s := (es.filter (fun e => !e.overrun)).foldl slip s
  modPkg s (fun k => { k with
    stall := true, fdue := false, skein := k.skein.map (fun e => if es.contains e then { e with overrun := true } else e) })

/-- Whether the next tick is one in which FRAME advances: FBASE + SKFPER, or the one after the last overrunning entry finished
(R348, R350). -/
def frameNext (k : Pkg) : Bool :=
  if k.stall then !k.skein.any (fun e => e.overrun) else decide (k.fbase.toNat + k.skfper.toNat ≤ (tget 0 k.gtime x0).toNat + 1)

/-- The watch of a Molt has ended without a heartbeat: it falls back in this tick (R430). -/
def watchOver (s : State) : Bool := s.pkg.molt.step == 9 && decide (s.pkg.molt.watch.toNat + 2 ^ 25 < (gtime s x0).toNat)

/-- Whether Tadpole service is offered. -/
def tadpole (k : Pkg) : Bool := k.capmask.getLsbD 39

/-- Whether a Newt runs: in Tadpole service only NEWT0 and NEWT8 do (R436). -/
def newtRuns (s : State) (n : Nat) : Bool := decide (n < 10) && (!tadpole s.pkg || n == 0 || n == 8)

/-- Whether more than 2^25 ticks have passed without a heartbeat of a committed image: its functions fall to hardware mode in this
tick (R420). -/
def timeoutDue (s : State) (n : Nat) : Bool :=
  let x : Newt := tget {} s.pkg.newts n
  let mine := decide (moltNewt s.pkg.molt = n) && decide (3 ≤ s.pkg.molt.step)
  newtRuns s n && x.committed && !x.failed && !mine && decide ((tmax x.nhbt x.since).toNat + 2 ^ 25 < (gtime s n).toNat)

/-- What falls in a tick and has not come about: a FRAME advance that no open deadline holds, the fall-back of a watch, a heartbeat
that is overdue, the end of a sleep (R348, R399, R420, R430). -/
def tickOwes (s : State) : Bool :=
  (s.pkg.fdue && (deadlineOpen s.pkg).isEmpty) || watchOver s || (List.range 10).any (timeoutDue s) ||
    s.cores.any (fun k => k.2.groups.any (fun g => sleepDue (coreTime s k.1) g.2))

/-- GTIME_TICK: the tick ends once everything that falls in it has come about. In the new one the ports read the rings' RP (R323),
adds that waited for a hidden write go on (R241), and interrupts whose posting entries reach their W are raised (R404). -/
def execGtimeTick (s : State) : Host.Outcome State Fault Refusal :=
  .next (if tickOwes s then s
    else
      let s := if s.pkg.fdue then overrun s else s
      let s := modPkg s (fun k => { tickAll k with fdue := decide (tget 0 k.gheld x0 = 0) && frameNext k })
      raiseNotices (resumeFinishes (ringTick s)))

/-- GTIME_RESYNC: the management Newt holds a copy for up to 2 ticks, so that every copy stays within 2 ticks of every other
(selection: copy, ticks). -/
def execGtimeResync (s : State) : Host.Outcome State Fault Refusal :=
  let i := selAt s 0
  let n := selAt s 1
  let k := s.pkg
  if i < 10 ∧ n ≤ 2 ∧ tget 0 k.gheld i = 0 ∧
      (List.range 10).all (fun j => decide ((tget 0 k.gtime j).toNat + n ≤ (tget 0 k.gtime i).toNat + 2)) then
    .next (modPkg s (fun k => { k with gheld := tput k.gheld i n }))
  else .next s

/-! ### Clock plans (R411 to R414) -/

/-- Whether a band holds one of the first 64 harmonics of a frequency in kHz (R412). -/
def harmonicIn (bands : List (Nat × Nat)) (f : Nat) : Bool :=
  (List.range 64).any (fun i => bands.any (fun b => decide (b.1 ≤ (i + 1) * f) && decide ((i + 1) * f ≤ b.2)))

/-- The highest point from hi down to lo, in MHz, whose harmonics lie in no band (R413). -/
def planPoint (bands : List (Nat × Nat)) (lo hi : Nat) : Option Nat :=
  ((List.range (hi + 1 - lo)).map (fun i => hi - i)).find? (fun f => !harmonicIn bands (f * 1000))

/-- The plan for a table: arithmetic, mesh, DRAM and Newt points. In Tadpole service the arithmetic point is fixed (R411). -/
def planFor (k : Pkg) (tadpole : Bool) (bands : List (Nat × Nat)) : Option (Nat × Nat × Nat × Nat) :=
  match (if tadpole then some 700 else planPoint bands 1300 k.climit), planPoint bands 900 1100, planPoint bands 1600 2000,
    planPoint bands 500 600 with
  | some a, some b, some c, some d => some (a, b, c, d)
  | _, _, _, _ => none

/-- The frequencies of the fixed domains, in kHz (R411, R412). -/
def fixedKhz (k : Pkg) : List Nat := [1000000, 156250] ++ (if tadpole k then [700000] else [])

/-- Whether a table is accepted (R412). -/
def tableOk (k : Pkg) (bands : List (Nat × Nat)) : Bool :=
  decide (bands.length ≤ 32) && bands.all (fun b => decide (b.1 ≤ b.2) && decide (b.2 < 2 ^ 32)) &&
    (fixedKhz k).all (fun f => !harmonicIn bands f) && (planFor k (tadpole k) bands).isSome

/-- Pairs of a list. -/
def pairsOf : List Nat → List (Nat × Nat)
  | a :: b :: t => (a, b) :: pairsOf t
  | _ => []

/-- CLOCK_PLAN_WRITE (R412, R388; selection: LO and HI of each band). -/
def execClockPlanWrite (s : State) : Host.Outcome State Fault Refusal :=
  let bands := pairsOf s.sel
  if mgBusy s then .next (holdRequest s .clockPlanWrite)
  else
    let s := mrChange s 3
    if s.sel.length % 2 = 0 ∧ tableOk s.pkg bands then
      .next (modPkg s (fun k => { k with bands := bands, planstat := false, planPending := true }))
    else .next (modPkg s (fun k => { k with planstat := true }))

/-- A plan takes effect (R413, R414). With no plan the old one stays. -/
def applyPlan (k : Pkg) : Pkg :=
  match planFor k (tadpole k) k.bands with
  | some (a, b, c, d) =>
    { k with clknow := a, clkmesh := b, clkdram := c, clknewt := d, spread := k.bands.isEmpty, planPending := false }
  | none => { k with planPending := false }

/-! ### Power (R415 to R417, R425) -/

/-- The sensors exceed a threshold: package power in W, junction temperature in °C (R417). -/
def tooHot (power temp : Nat) : Bool := decide (6000 < power) || decide (105 < temp)

/-- The sensors lie below both thresholds (R417). -/
def belowBoth (k : Pkg) : Bool := decide (k.power < 6000) && decide (k.temp < 105)

/-- The second below both thresholds begins anew while a sensor is not below (R417). -/
def coolStep (k : Pkg) (now : BitVec 64) : Pkg := if belowBoth k then k else { k with coolAt := now }

/-- What the sensors and the host's limit do to the arithmetic limit at a FRAME advance (R417, R425); in hardware mode nothing. -/
def thermalStep (k : Pkg) (mode : Nat) : Pkg :=
  let k := match k.thPending with
    | some v => if mode = 1 then k else { k with climit := v, thPending := none, planPending := true }
    | none => k
  if tooHot k.power k.temp ∧ mode = 0 then { k with climit := max 1300 (k.climit - 25), planPending := true } else k

/-- THERMAL_LIMIT_RAISE: a second below both thresholds has passed (R417). -/
def execThermalLimitRaise (s : State) : Host.Outcome State Fault Refusal :=
  let k := s.pkg
  if modeOf s .thermal 0 = 0 ∧ !mgBusy s ∧ k.climit < 1450 ∧ belowBoth k ∧ k.coolAt.toNat + 10 ^ 9 ≤ (gtime s x0).toNat then
    .next (modPkg s (fun k => { k with climit := min 1450 (k.climit + 25), coolAt := gtime s x0, planPending := true }))
  else .next s

/-- VCORE_CURRENT_LIMIT: the current of a die is too high (R416; selection: die). -/
def execVcoreCurrentLimit (s : State) : Host.Outcome State Fault Refusal :=
  .next (if dieUp s (selAt s 0) then modDie s (selAt s 0) (fun d => { d with limited := true }) else s)

/-- VCORE_LIMIT_RELEASE: the current has fallen (R416; selection: die). -/
def execVcoreLimitRelease (s : State) : Host.Outcome State Fault Refusal :=
  .next (modDie s (selAt s 0 % 8) (fun d => { d with limited := false }))

/-! ### FRAME and the timetable (R347 to R350) -/

/-- Whether an entry is released in the tick in which FRAME reaches a value. -/
def releases (frame : BitVec 64) (e : SkeinEntry) : Bool := e.st == 0 && decide (e.rf.toNat ≤ frame.toNat)

/-- Entries by their release frame, ties in order of arrival. -/
def byFrame (es : List SkeinEntry) : List SkeinEntry :=
  es.foldl (fun l e => l.filter (fun x => decide (x.rf.toNat ≤ e.rf.toNat)) ++ [e] ++ l.filter (fun x => decide (e.rf.toNat < x.rf.toNat))) []

/-- The entries whose frame is reached become RELEASED, and their records are ready for their dispatchers (R349). -/
def releaseEntries (s : State) : State :=
  let f := s.pkg.frame
  let es := byFrame (s.pkg.skein.filter (releases f))
  let s := modPkg s (fun k => { k with skein := k.skein.map (fun e => if releases f e then { e with st := 1 } else e) })
  es.foldl (fun s e => addReady s (takingDie s e.part e.die)
    { e.src with core := none, skein := true, num := (gtime s x0).toNat * 2 ^ 64 + e.rf.toNat }) s

/-- CAPMASK in full service (R32). -/
def capFull : BitVec 64 := 0x0091FF480000FFA1

/-- The images that start at a bring-up are measured: the schedulers of dies 1 to 7 in MR1, the fabric image in MR2 (R388,
log 19). -/
def measureBringup (k : Pkg) : Pkg :=
  let digest (i : Nat) : BitVec 384 := (tget {} k.newts i).digest
  let mr := tput k.mr 1 (((List.range 7).map (fun i => digest (i + 1))).foldl extendMr (tget 0 k.mr 1))
  { k with mr := tput mr 2 (extendMr (tget 0 mr 2) (digest 9)) }

/-- A full bring-up ends, well or not; when it does is open (R437, log 14). Dies with too many failed cores stay out (R15). -/
def endBringup (s : State) : State :=
  let v := Config.choice s.fresh
  let ok := Config.bringupOk s.fresh
  let s := { s with fresh := s.fresh + 1 }
  if !s.pkg.molt.bringup || v % 2 == 1 then s
  else if ok then
    let s := modPkg s (fun k => applyPlan { measureBringup k with
      planefail := 0
      capmask := capFull &&& ~~~(k.dead.setWidth 64 <<< 8), molt := { k.molt with bringup := false, err := 0 }
      newts := k.newts.map (fun q => (q.1, { q.2 with since := if q.1 = 0 ∨ q.1 = 8 then q.2.since else tget 0 k.gtime x0 }))
      fabid := if modeOf s .fabric 0 = 0 then some (v / 2 % 192) else k.fabid })
    postAll s x0 5 s.pkg.capmask.toNat
  else modPkg s (fun k => { k with molt := { k.molt with bringup := false, err := 8, step := 0 } })

/-- FRAME_ADVANCE: FRAME rises by 1, entries are released, and throttle and plan changes take effect; in hardware mode of the
thermal function the last plan stays (R348, R349, R413, R414, R417, R437; selection: what the sensors read: power in W, hottest
junction in °C, its die). -/
def execFrameAdvance (s : State) : Host.Outcome State Fault Refusal :=
  if !s.pkg.fdue ∨ !(deadlineOpen s.pkg).isEmpty then .next s
  else
    let now := gtime s x0
    let mode := modeOf s .thermal 0
    let s := modPkg s (fun k => coolStep { k with
      frame := k.frame + 1, fbase := now, skfper := k.skfnext, stall := false, fdue := false
      power := selAt s 0, temp := selAt s 1, hotDie := selAt s 2 } now)
    let s := endBringup (releaseEntries s)
    if mgBusy s then .next s
    else
      let s := modPkg s (fun k => thermalStep k mode)
      .next (if s.pkg.planPending && mode != 1 then modPkg s applyPlan else s)

/-- SKEN_CLEAR: every HELD entry of a partition is finished as cancelled, and a grid that a PREEMPT made of it is forgotten (R349;
log 44; selection: partition). -/
def execSkenClear (s : State) : Host.Outcome State Fault Refusal :=
  let p := selAt s 0 % 8
  let es := s.pkg.skein.filter (fun e => e.part == p && e.st == 0)
  let s := modPart s p (fun x => { x with sken := false })
  let s := modPkg s (fun k => { k with skein := k.skein.filter (fun e => !(e.part == p && e.st == 0)) })
  .next (es.foldl (fun s e =>
    finishRecord { s with grids := tdel s.grids (gridKey e.part e.rcd) } e.die e.part e.rcd e.lr 5) s)

end Sys2Proof.Machine
end

