-- ==== Sys2Proof/Machine/Firmware.lean ====
section
/-! DEFINITION. The Newt cores: heartbeats, function modes, Molt, die-by-die repair, bring-up, reset, measurement and
attestation (R387, R388, R418 to R422, R426 to R438). -/

namespace Sys2Proof.Machine

/-! ### Newts and modes (R418 to R422) -/

/-- A Newt. -/
def newt (s : State) (n : Nat) : Newt := tget {} s.pkg.newts n

/-- A Newt changed. -/
def modNewt (s : State) (n : Nat) (f : Newt → Newt) : State := modPkg s (fun k => { k with newts := tput k.newts n (f (tget {} k.newts n)) })


/-- Configured modes written and measured (R422). -/
def setModes (s : State) (v : BitVec 8) : State := mrChange (modPkg s (fun k => { k with modetab := v.setWidth 64 })) 3

/-- The held writes of MODETAB are applied in their order once no Molt or repair is active (R422, R434). -/
def applyHeld (s : State) : State :=
  if modesHeld s then s else s.pkg.modeHeld.foldl setModes (modPkg s (fun k => { k with modeHeld := [] }))

/-- Whether a value of MODETAB holds no code 3 and no reserved bit (R421, R422). -/
def modetabOk (v : BitVec 64) : Bool := v.extractLsb' 16 48 == 0 && (List.range 4).all (fun i => v.extractLsb' (2 * i) 2 != 3)

/-- MODETAB_WRITE (R422; selection: value); its fields in force are read-only. -/
def execModetabWrite (s : State) : Host.Outcome State Fault Refusal :=
  let v : BitVec 64 := BitVec.ofNat 64 (selAt s 0)
  if !modetabOk v then .next s
  else if modesHeld s then .next (modPkg s (fun k => { k with modeHeld := k.modeHeld ++ [v.extractLsb' 0 8] }))
  else .next (setModes s (v.extractLsb' 0 8))

/-- MODETAB_APPLY: a Newt takes up the table at the end of its major cycle (R422; selection: Newt). -/
def execModetabApply (s : State) : Host.Outcome State Fault Refusal :=
  let n := selAt s 0
  .next (if newtRuns s n then modPkg s (fun k => { k with taken := tput k.taken n (k.modetab.extractLsb' 0 8) }) else s)

/-! ### Molt (R426 to R434) -/

/-- The Molt registers changed. -/
def modMolt (s : State) (f : Molt → Molt) : State := modPkg s (fun k => { k with molt := f k.molt })

/-- The image at an address: its header and both parts, by the lengths that its header gives (R426). One that meets an uncorrectable
error is copied as no image at all, which VERIFY refuses (R191; DESIGN CHOICE, log 53). -/
def stagedImage (s : State) (a : Nat) : List Byte :=
  let head := leBytes 256 (physRead s none a 256)
  let n := 256 + min (field head 24 4) 65536 + min (field head 28 4) 65536
  if s.failing.any (fun u => decide (a < u + 8) && decide (u < a + n)) then [] else leBytes n (physRead s none a n)

/-- A Newt that has booted from the image of the board's flash, as it was made or as the host has written it (R418, R434). -/
def bootNewt (s : State) (n : Nat) : Newt := loadedNewt n ((tfind s.pkg.flash n).getD (Config.bootImage n))

/-- STAGE: the image at MOLTADDR is copied, for a function and a die (R430, R432). -/
def stage (s : State) (f die : Nat) (dies : BitVec 8) : State :=
  let im := stagedImage s s.pkg.moltaddr.toNat
  modMolt s (fun m => { m with step := 1, func := f, die := die, dies := dies, err := 0, image := im, record := none })

/-- The lowest die named in DIES. -/
def lowestOf (ds : BitVec 8) : Option Nat := (List.range 8).find? (fun d => ds.getLsbD d)

/-- A bit of DIES cleared. -/
def withoutDie (ds : BitVec 8) (d : Nat) : BitVec 8 := ds &&& ~~~(BitVec.ofNat 8 (2 ^ d))

/-- A request ends with an error code, or 0; a held write of MODETAB and the held requests to the management Newt follow
(R422, R433). -/
def endMolt (s : State) (err : BitVec 8) : State :=
  let held := s.pkg.mgHeld
  let s := applyHeld (modMolt s (fun m => { m with step := 0, die := 255, err := err, image := [], oldImage := [], record := none }))
  { modPkg s (fun k => { k with mgHeld := [] }) with agenda := held ++ s.agenda }

/-- The error code of a request refused at once, or 0 (R429, R436). -/
def requestErr (s : State) (bad : Bool) (tad : Bool) : BitVec 8 :=
  if bad then 7 else if moltActive s then 1 else if tad && tadpole s.pkg then 6 else 0

/-- A refused request: its code in ERR; the active request runs on. -/
def refuseMolt (s : State) (err : BitVec 8) : State := modMolt s (fun m => { m with err := err })

/-- REQ of a value written to MOLTCTL. -/
def ctlReq (v : Nat) : Nat := v / 4 % 4

/-- Whether a value written to MOLTCTL is malformed in the fields that every request has (R429). -/
def ctlBad (v : Nat) : Bool := decide (v % 4 = 3) || decide (v / 16 % 16 ≠ 0) || decide (2 ^ 16 ≤ v)

/-- A value written to MOLTCTL stands there (R429). -/
def writeCtl (s : State) (v : Nat) : State := modPkg s (fun k => { k with moltctl := BitVec.ofNat 64 v })

/-- MOLT: a Molt request by MOLTCTL; VER reads the version in force for the function that it names. A write with REQ 0 starts nothing
(R429, R430; selection: value). -/
def execMolt (s : State) : Host.Outcome State Fault Refusal :=
  let v := selAt s 0
  let f := v % 4
  let dies : BitVec 8 := BitVec.ofNat 8 (v / 2 ^ 8)
  if ctlReq v = 0 then .next (writeCtl s v)
  else if ctlReq v ≠ 1 then .next s
  else
    let s := writeCtl s v
    match requestErr s (ctlBad v || decide (f = 0 ∧ dies = 0) || decide (s.pkg.moltaddr.toNat % 256 ≠ 0)) true with
    | 0 =>
      let s := match lowestOf dies with
        | some d => if f = 0 then stage s 0 d (withoutDie dies d) else stage s f 255 0
        | none => stage s f 255 0
      .next (modMolt s (fun m => { m with ver := (newt s (moltNewt m)).version }))
    | e => .next (refuseMolt s e)

/-- MOLT_VERIFY (R427, R430). -/
def execMoltVerify (s : State) : Host.Outcome State Fault Refusal :=
  let m := s.pkg.molt
  if m.step ≠ 1 then .next s
  else
    match verifyErr m.image m.func with
    | 0 => .next (modMolt s (fun m => { m with step := 2 }))
    | e => .next (endMolt s (BitVec.ofNat 8 e))

/-- MOLT_QUIESCE: the old image finishes, and its function enters hardware mode (R430). -/
def execMoltQuiesce (s : State) : Host.Outcome State Fault Refusal :=
  .next (if s.pkg.molt.step = 2 then modMolt s (fun m => { m with step := 3 }) else s)

/-- The 64-byte header of a state record and its body (R428). -/
def StateRecord.bytes (r : StateRecord) : List Byte :=
  leBytes 4 0x5254534D ++ leBytes 1 r.func ++ leBytes 1 r.die ++ leBytes 2 r.schema ++ leBytes 4 r.body.length ++ leBytes 4 0 ++
    Sha.beBytes 48 r.digest.toNat ++ r.body

/-- What a scheduler's state record carries (R428). -/
def softState (s : State) (d : Nat) : SoftState :=
  { segs := (die s d).segs, cursors := (s.hcqs.filter (fun q => serving s (q.1 / 64) == d)).map (fun q => (q.1, q.2.ci))
    handovers := (die s d).hoq }

/-- MOLT_EXPORT: the old image writes a state record of its export schema (R428, R430); the layout of its body is the image's own. -/
def execMoltExport (s : State) : Host.Outcome State Fault Refusal :=
  let body := (Config.recordBody (softState s s.pkg.molt.die) s.fresh).take 49152
  let r : StateRecord :=
    { func := s.pkg.molt.func, die := s.pkg.molt.die, schema := (newt s (moltNewt s.pkg.molt)).schema, body := body, digest := Sha.hash384 body }
  .next (if s.pkg.molt.step = 3 then { modMolt s (fun m => { m with step := 4, record := some r }) with fresh := s.fresh + 1 } else s)

/-- The schema version of the record in hand. -/
def recordSchema (m : Molt) : Nat := (m.record.map (·.schema)).getD 0

/-- MOLT_SWITCH: the record's schema is checked, and the new image is loaded; or the old image resumes (R430). -/
def execMoltSwitch (s : State) : Host.Outcome State Fault Refusal :=
  let m := s.pkg.molt
  let n := moltNewt m
  let now := gtime s x0
  if m.step ≠ 4 then .next s
  else if field m.image 14 2 ≤ recordSchema m ∧ recordSchema m ≤ field m.image 16 2 then
    let s := modMolt s (fun m => { m with
      step := 5, oldDigest := (newt s n).digest, oldVersion := (newt s n).version, oldSchema := (newt s n).schema
      oldImage := (newt s n).image })
    .next (modNewt s n (fun x => { x with
      digest := Sha.hash384 m.image, version := imageVersion m.image, schema := field m.image 12 2, image := m.image, committed := false
      failed := false, waiting := false, since := now }))
  else .next (endMolt (modNewt s n (fun x => { x with since := now })) 4)

/-- The measurement register of a function: MR1 scheduler, MR0 management, MR2 fabric (R388, R430). -/
def mrOf (f : Nat) : Nat := match f with | 0 => 1 | 1 => 0 | _ => 2

/-- The detail of a Molt event (R431). -/
def moltDetail (m : Molt) (v : BitVec 32) : Nat := m.func + m.die % 256 * 2 ^ 8 + v.toNat * 2 ^ 32

/-- Whether the new image takes the record: its digest, and its content (R430). -/
def recordGood (s : State) : Bool :=
  (match s.pkg.molt.record with | some r => r.digest == Sha.hash384 r.body | none => false) && Config.recordOk s.fresh

/-- COMMIT: the new image stays; the next die of a scheduler Molt follows (R430, R432). -/
def commit (s : State) : State :=
  let m := s.pkg.molt
  let n := moltNewt m
  let s := modNewt s n (fun x => { x with committed := true })
  let s := modMolt s (fun k => { k with ver := (newt s n).version })
  match (if m.func = 0 then lowestOf m.dies else none) with
  | some d => stage s 0 d (withoutDie m.dies d)
  | none => endMolt s 0

/-- MOLT_IMPORT, one state further at a time: the new image reads the record (6), or the Molt falls back (11); it enters its cyclic
executive (7); it is measured and its event posted (8); and the watch runs from then on (9). What COMMIT (10) does, which has no
step of its own in the table, comes about here too (R430). -/
def execMoltImport (s : State) : Host.Outcome State Fault Refusal :=
  let m := s.pkg.molt
  let n := moltNewt m
  match m.step with
  | 5 => .next { modMolt s (fun m => { m with step := if recordGood s then 6 else 11 }) with fresh := s.fresh + 1 }
  | 6 => .next (modMolt s (fun m => { m with step := 7 }))
  | 7 =>
    let s := mrExtend s (mrOf m.func) (newt s n).digest
    let s := postAll s x0 1 (moltDetail m (newt s n).version)
    .next (modMolt s (fun m => { m with step := 8 }))
  | 8 => .next (modMolt s (fun m => { m with step := 9, watch := gtime s x0 }))
  | 10 => .next (commit s)
  | _ => .next s

/-- MOLT_FALLBACK: a watch that is over ends in the state FALLBACK (11), and there the old image is restored and measured (R430 to
R432). -/
def execMoltFallback (s : State) : Host.Outcome State Fault Refusal :=
  let m := s.pkg.molt
  let n := moltNewt m
  if watchOver s then .next (modMolt s (fun m => { m with step := 11 }))
  else if m.step = 11 then
    let s := modNewt s n (fun x => { x with
      digest := m.oldDigest, version := m.oldVersion, schema := m.oldSchema, image := m.oldImage, committed := true, waiting := true
      since := gtime s x0 })
    let s := mrExtend s (mrOf m.func) m.oldDigest
    let s := postAll s x0 2 (moltDetail m m.oldVersion)
    .next (endMolt (modMolt s (fun m => { m with ver := m.oldVersion })) 5)
  else .next s

/-- A committed image has been silent for more than 2^25 ticks: its functions fall to hardware mode, and NFAIL shows it (R420). -/
def newtFails (s : State) (n : Nat) : State :=
  modPkg (modNewt s n (fun x => { x with failed := true })) (fun k => { k with nfail := k.nfail ||| BitVec.ofNat 10 (2 ^ n) })

/-- Whether a Newt runs major cycles: it has an image that the boot ROM has taken, and no Molt state from QUIESCE to IMPORT, COMMIT or
FALLBACK keeps it from them (R418, R420, R430). -/
def newtCycles (s : State) (n : Nat) : Bool :=
  let x := newt s n
  let m := s.pkg.molt
  newtRuns s n && (x.committed || !x.failed) &&
    !(moltNewt m == n && ((decide (3 ≤ m.step) && decide (m.step ≤ 6)) || m.step == 10 || m.step == 11))

/-- NEWT_HEARTBEAT (R420, R430, R434; selection: Newt): NHBT takes its tick. The first one of a new image within its watch commits the
Molt; one that is overdue comes after its functions have fallen to hardware mode, where they stay. -/
def execNewtHeartbeat (s : State) : Host.Outcome State Fault Refusal :=
  let n := selAt s 0
  let m := s.pkg.molt
  if !newtCycles s n then .next s
  else
    let s := if timeoutDue s n then newtFails s n else s
    let s := modNewt s n (fun x => { x with nhbt := gtime s n, waiting := false })
    .next (if moltNewt m == n && m.step == 9 && !watchOver s then modMolt s (fun m => { m with step := 10 }) else s)

/-- HEARTBEAT_TIMEOUT: more than 2^25 ticks without a heartbeat of a committed image: its functions fall to hardware mode
(R420; selection: Newt). -/
def execHeartbeatTimeout (s : State) : Host.Outcome State Fault Refusal :=
  .next (if timeoutDue s (selAt s 0) then newtFails s (selAt s 0) else s)

/-! ### Die-by-die repair (R387, R435) -/

/-- A die's DIES bit of CAPMASK set or cleared, with the event of kind 5. -/
def setDie (s : State) (d : Nat) (up : Bool) : State :=
  let bit : BitVec 64 := BitVec.ofNat 64 (2 ^ (8 + d))
  let s := modPkg s (fun k => { k with capmask := if up then k.capmask ||| bit else k.capmask &&& ~~~bit })
  let s := if up then rescanFor s (fun _ => true) else s
  postAll s x0 5 s.pkg.capmask.toNat

/-- The die that takes over a record of a die that leaves service: the next one in service for a record of a pending-launch queue, and
for others the next one that the partition may use (R435). -/
def heirOf (s : State) (d : Nat) (r : Ready) : Nat := if r.core.isSome then nextDie s d else takingDie s r.part d

/-- What a die's dispatcher and restore list held goes to the dies in service (R435). -/
def handOn (s : State) (d : Nat) : State :=
  let x := die s d
  let s := modDie s d (fun x => { x with ready := [], held := [], restore := [] })
  let s := x.held.foldl (fun s h => modDie s (heirOf s d h.src) (fun y => { y with held := y.held ++ [{ h with wait := .none }] })) s
  let s := x.ready.foldl (fun s r => modDie s (heirOf s d r) (fun y => { y with ready := y.ready ++ [{ r with stamp := 0 }] })) s
  x.restore.foldl (fun s t =>
    let p := ((s.images.find? (fun im => im.tid == t)).map (fun im => im.team.part)).getD 0
    modDie s (takingDie s p d) (fun y => { y with restore := y.restore ++ [t] })) s

/-- The dies of CAPMASK in service. -/
def diesUp (s : State) : List Nat := (List.range 8).filter (dieUp s)

/-- DIE_REPAIR: a repair request (R429, R435; selection: value): the die leaves service, its teams are saved, and its records
are handed on. -/
def execDieRepair (s : State) : Host.Outcome State Fault Refusal :=
  let v := selAt s 0
  let dies : BitVec 8 := BitVec.ofNat 8 (v / 2 ^ 8)
  if ctlReq v ≠ 2 then .next s
  else
    let s := writeCtl s v
    match lowestOf dies with
    | none => .next (refuseMolt s (requestErr s true false))
    | some d =>
      match requestErr s (ctlBad v || withoutDie dies d != 0 || tadpole s.pkg || diesUp s == [d]) false with
      | 0 =>
        let s := modMolt s (fun m => { m with repairing := some d, die := d, err := 0 })
        let s := handOn (setDie s d false) d
        .next ((s.teams.filter (fun t => dieOf t.2.core == d && !t.2.retired)).foldl (fun s t => requestSave s t.1 4 false) s)
      | e => .next (refuseMolt s e)

/-- Each of up to four failed positions of a die takes a spare of its own; which one is free (R15). -/
def assignSpares (fresh d : Nat) (bad : List Nat) : Tbl Nat :=
  let x := Config.choice fresh % 24
  let a := [0, 1, 2, 3].rotateLeft (x % 4)
  let b := [a.getD 0 0] ++ ([a.getD 1 0, a.getD 2 0, a.getD 3 0].rotateLeft (x / 4 % 3))
  let c := if x / 12 = 1 then [b.getD 0 0, b.getD 1 0, b.getD 3 0, b.getD 2 0] else b
  bad.zipIdx.map (fun p => (d * 72 + p.1, d * 4 + c.getD p.2 0))

/-- The scheduler Newt of a repaired die boots again, and its image is measured; its mode does not change by that (R388, R418, R420;
DEDUCED, log 39). -/
def rebootNewt (s : State) (d : Nat) : State :=
  let x := bootNewt s d
  mrExtend (modNewt s d (fun n => { x with nhbt := n.nhbt, failed := n.failed || x.failed, waiting := n.waiting, since := gtime s x0 }))
    1 x.digest

/-- DIE_REPAIR_COMPLETE: every team of the die is saved; the repair map is reloaded, the cores tested, and the die's Newt boots again;
PREDLIFE is recomputed (R15, R387, R418, R435). -/
def execDieRepairComplete (s : State) : Host.Outcome State Fault Refusal :=
  match s.pkg.molt.repairing with
  | none => .next s
  | some d =>
    if s.teams.any (fun t => dieOf t.2.core == d) then .next s
    else
      let s := (s.cores.filter (fun k => dieOf k.1 == d)).foldl (fun s k => dropTaken s k.1) s
      let bad := distinct ((Config.failedCores s.fresh).map (fun p => p.1 % 72))
      let life := (Config.agemonReading s.fresh).extractLsb' 96 32
      let s := { s with fresh := s.fresh + 1 }
      let s := modDie s d (fun x => { x with agemon := life ++ x.agemon.extractLsb' 0 96 })
      let s := if 4 < bad.length then modPkg s (fun k => { k with dead := k.dead ||| 1#8 <<< d })
        else
          let old := s.pkg.repair.filter (fun q => q.1 / 72 != d)
          setDie (modPkg s (fun k => { k with repair := assignSpares s.fresh d bad ++ old, dead := k.dead &&& ~~~(1#8 <<< d) })) d true
      .next (applyHeld (modMolt (rebootNewt s d) (fun m => { m with repairing := none, die := 255 })))

/-! ### Bring-up and reset (R436, R437) -/

/-- FULL_BRINGUP: a request; it ends in a FRAME advance (R437; selection: value). -/
def execFullBringup (s : State) : Host.Outcome State Fault Refusal :=
  let v := selAt s 0
  if ctlReq v ≠ 3 then .next s
  else
    let s := writeCtl s v
    match requestErr s (ctlBad v || !tadpole s.pkg) false with
    | 0 => .next (modMolt s (fun m => { m with bringup := true, err := 0 }))
    | e => .next (refuseMolt s e)

/-- PACKAGE_RESET: every register at its reset value; every Newt boots from the board's flash, and the boot extends the measurement
registers; host memory, the flash, the fuses, the repair map, the dies that it leaves out and the model's own counters stay (R15,
R380, R387, R388, R434, R436). -/
def execPackageReset (s : State) : Host.Outcome State Fault Refusal :=
  .next { State.reset with
    mem := s.mem.filter (fun c => regionOf c.1 == 1)
    dies := (List.range 8).map (fun d => (d, { agemon := 0xFFFFFFFF#32 ++ (die s d).agemon.extractLsb' 0 96 }))
    pkg := { State.reset.pkg with
      repair := s.pkg.repair, dead := s.pkg.dead, flash := s.pkg.flash, newts := (List.range 10).map (fun i => (i, bootNewt s i))
      mr := bootMr (bootNewt s 0).digest (bootNewt s 8).digest }
    out := s.out, agenda := s.agenda, sel := s.sel, fresh := s.fresh }

/-! ### Measurement, attestation and health (R387, R388, R438) -/

/-- MR_EXTEND_REQUEST: MR6 or MR7 on host request (R388; selection: register, 48 bytes). -/
def execMrExtendRequest (s : State) : Host.Outcome State Fault Refusal :=
  let i := selAt s 0
  let d := (s.sel.drop 1).map (BitVec.ofNat 8)
  .next (if (i = 6 ∨ i = 7) ∧ d.length = 48 then mrExtend s i (BitVec.ofNat 384 (Sha.beNat d)) else s)

/-- Bytes 0 to 511 of a quote (R438). -/
def quoteBody (s : State) : List Byte :=
  leBytes 4 0x54514E4D ++ leBytes 4 1 ++ leBytes 8 (gtime s x0).toNat ++ leBytes 8 s.pkg.capmask.toNat ++ leBytes 48 s.pkg.qnonce.toNat ++
    (List.range 8).flatMap (fun i => Sha.beBytes 48 (tget 0 s.pkg.mr i).toNat) ++
    (List.range 10).flatMap (fun n => leBytes 4 (newt s n).version.toNat) ++ leBytes 8 (modetabRead s) ++ leBytes 8 (moltstat s)

/-- A quote with the signature of the device key. -/
def quote (s : State) : List Byte :=
  let b := quoteBody s
  let h := Sha.hash384 b
  let g := Ecdsa.sign Config.deviceKey (Config.signNonce h) h
  b ++ Sha.beBytes 48 g.1 ++ Sha.beBytes 48 g.2

/-- QUOTE_REQUEST: the host writes QREQ (1), or the management Newt serves it (0); it is held while MGBUSY (R433, R438; selection:
value). -/
def execQuoteRequest (s : State) : Host.Outcome State Fault Refusal :=
  if selAt s 0 = 1 then .next (modPkg s (fun k => { k with qreq := true }))
  else .next (if s.pkg.qreq && !mgBusy s then modPkg s (fun k => { k with qreq := false, qbuf := quote s }) else s)

/-- AGEMON_UPDATE: the hourly update of every die (R387); what the monitors read is open. -/
def execAgemonUpdate (s : State) : Host.Outcome State Fault Refusal :=
  if s.pkg.agemonAt.toNat + 3600000000000 ≤ (gtime s x0).toNat then
    .next { modPkg { s with dies := (List.range 8).map (fun d =>
        let r := Config.agemonReading (s.fresh + d)
        let old := (die s d).agemon.extractLsb' 32 64
        (d, { die s d with agemon := r.extractLsb' 96 32 ++ (old + (r.extractLsb' 32 1).setWidth 64) ++ r.extractLsb' 0 32 })) }
      (fun k => { k with agemonAt := gtime s x0 }) with fresh := s.fresh + 8 }
  else .next s

end Sys2Proof.Machine
end

