-- ==== Sys2Proof/Machine/Xl.lean ====
section
/-! DEFINITION. The cross-lane operations (R186 to R189). -/

namespace Sys2Proof.Machine

/-- The same function of the lane in every lane. -/
def xlRow (f : Nat → Slice) : FixedRes := { r := mkRow f }

/-- A 32-bit value in every lane. -/
def xlWord (v : Nat) : FixedRes := { r := splat (lo32 (BitVec.ofNat 32 v)) }

/-- The participating lanes in increasing number. -/
def members (o : Opnd) : List Nat := lanes32.filter (fun L => o.en.getLsbD L)

/-- Bits [31:0] of T in lane j. -/
def tWord (o : Opnd) (j : Nat) : BitVec 32 := (lane o.t j).setWidth 32

/-- The participating lanes whose T is nonzero. -/
def nonzeros (o : Opnd) : List Nat := (members o).filter (fun j => tWord o j != 0)

/-- shfl (R188) -/
def shflRes (o : Opnd) : FixedRes := xlRow (fun L => lane o.t ((lane o.a L).toNat % 32))

/-- shup (R188) -/
def shupRes (o : Opnd) : FixedRes :=
  xlRow (fun L => let d := (lane o.a L).toNat % 64; lane o.t (if d ≤ L then L - d else L))

/-- shdn (R188) -/
def shdnRes (o : Opnd) : FixedRes :=
  xlRow (fun L => let d := (lane o.a L).toNat % 64; lane o.t (if L + d ≤ 31 then L + d else L))

/-- xorsh (R188) -/
def xorshRes (o : Opnd) : FixedRes := xlRow (fun L => lane o.t (L ^^^ (lane o.a L).toNat % 32))

/-- bcast (R188) -/
def bcastRes (o : Opnd) : FixedRes := xlRow (fun _ => lane o.t ((uniform o.en o.a).toNat % 32))

/-- ballot (R188) -/
def ballotRes (o : Opnd) : FixedRes := xlWord (mkMask (fun j => (nonzeros o).contains j)).toNat

/-- anyl (R188) -/
def anylRes (o : Opnd) : FixedRes := xlWord (!(nonzeros o).isEmpty).toNat

/-- alll (R188) -/
def alllRes (o : Opnd) : FixedRes := xlWord ((members o).all (fun j => tWord o j != 0)).toNat

/-- elect (R188) -/
def electRes (o : Opnd) : FixedRes := xlRow (fun L => if (nonzeros o).head? = some L then 1 else 0)

/-- lanemask (R188) -/
def lanemaskRes (o : Opnd) : FixedRes := xlWord o.en.toNat

/-- popl (R188) -/
def poplRes (o : Opnd) : FixedRes := xlWord (nonzeros o).length

/-- rmin and rmax over the participating lanes (R189). -/
def rminmaxRes (mx : Bool) (typ : Nat) (o : Opnd) : FixedRes :=
  let xs := (members o).map (tWord o)
  match xs with
  | [] => xlWord 0
  | x :: rest =>
    if typ = 2 then
      let (v, fl) := rest.foldl (fun (p : Nat × BitVec 5) y =>
        let (z, f) := fminmax f32 mx p.1 y.toNat; (z, p.2 ||| f)) (x.toNat, sigFlag [decodeF f32 x.toNat])
      { r := splat (lo32 (BitVec.ofNat 32 (if (decodeF f32 v).isNan then f32.qnan else v))), fl := fl }
    else
      let val (z : BitVec 32) : Int := intVal (typ == 0) z
      xlWord (rest.foldl (fun a b => if decide (val b < val a) != mx ∧ val a ≠ val b then b else a) x).toNat

/-- The running sums over the participating lanes up to each lane, with the flags of every addition (R189). -/
def sums (t : Trig) (o : Opnd) : List (Nat × Nat) × BitVec 5 :=
  let typ := t.typ.toNat
  if typ = 2 then
    let mode := rmodeOf (t.mod.extractLsb' 1 2)
    let (out, _, fl) := (members o).foldl (fun (p : List (Nat × Nat) × Nat × BitVec 5) j =>
      let (r, f) := fadd f32 mode (decodeF f32 p.2.1) (decodeF f32 (tWord o j).toNat)
      (p.1 ++ [(j, r)], r, p.2.2 ||| f)) ([], 0, 0)
    (out, fl)
  else
    let (out, _) := (members o).foldl (fun (p : List (Nat × Nat) × Int) j =>
      let x := p.2 + intVal (typ == 0) (tWord o j)
      let v := if t.mod.getLsbD 0 then sat (typ == 0) 32 x else x
      (p.1 ++ [(j, (BitVec.ofInt 32 v).toNat)], x)) ([], 0)
    (out, 0)

/-- radd (R189): the last running sum, in every lane of P. -/
def raddRes (t : Trig) (o : Opnd) : FixedRes :=
  let (ss, fl) := sums t o
  { xlWord ((ss.getLast?.map (·.2)).getD 0) with fl := fl }

/-- scanadd (R189): each lane's running sum. -/
def scanaddRes (t : Trig) (o : Opnd) : FixedRes :=
  let (ss, fl) := sums t o
  { xlRow (fun L => lo32 (BitVec.ofNat 32 (tget 0 ss L))) with fl := fl }

/-- shfl (R188) -/
def execXlShfl (t : Trig) (s : State) : Host.Outcome State Fault Refusal :=
  .next (runFixed (.xlShfl t) .xl t 2 s shflRes)

/-- shup (R188) -/
def execXlShup (t : Trig) (s : State) : Host.Outcome State Fault Refusal :=
  .next (runFixed (.xlShup t) .xl t 2 s shupRes)

/-- shdn (R188) -/
def execXlShdn (t : Trig) (s : State) : Host.Outcome State Fault Refusal :=
  .next (runFixed (.xlShdn t) .xl t 2 s shdnRes)

/-- xorsh (R188) -/
def execXlXorsh (t : Trig) (s : State) : Host.Outcome State Fault Refusal :=
  .next (runFixed (.xlXorsh t) .xl t 2 s xorshRes)

/-- bcast (R188) -/
def execXlBcast (t : Trig) (s : State) : Host.Outcome State Fault Refusal :=
  .next (runFixed (.xlBcast t) .xl t 2 s bcastRes)

/-- ballot (R188) -/
def execXlBallot (t : Trig) (s : State) : Host.Outcome State Fault Refusal :=
  .next (runFixed (.xlBallot t) .xl t 2 s ballotRes)

/-- anyl (R188) -/
def execXlAnyl (t : Trig) (s : State) : Host.Outcome State Fault Refusal :=
  .next (runFixed (.xlAnyl t) .xl t 2 s anylRes)

/-- alll (R188) -/
def execXlAlll (t : Trig) (s : State) : Host.Outcome State Fault Refusal :=
  .next (runFixed (.xlAlll t) .xl t 2 s alllRes)

/-- elect (R188) -/
def execXlElect (t : Trig) (s : State) : Host.Outcome State Fault Refusal :=
  .next (runFixed (.xlElect t) .xl t 2 s electRes)

/-- lanemask (R188) -/
def execXlLanemask (t : Trig) (s : State) : Host.Outcome State Fault Refusal :=
  .next (runFixed (.xlLanemask t) .xl t 2 s lanemaskRes)

/-- popl (R188) -/
def execXlPopl (t : Trig) (s : State) : Host.Outcome State Fault Refusal :=
  .next (runFixed (.xlPopl t) .xl t 2 s poplRes)

/-- rmin (R189) -/
def execXlRmin (t : Trig) (s : State) : Host.Outcome State Fault Refusal :=
  .next (runFixed (.xlRmin t) .xl t 4 s (rminmaxRes false t.typ.toNat))

/-- rmax (R189) -/
def execXlRmax (t : Trig) (s : State) : Host.Outcome State Fault Refusal :=
  .next (runFixed (.xlRmax t) .xl t 4 s (rminmaxRes true t.typ.toNat))

/-- radd (R189) -/
def execXlRadd (t : Trig) (s : State) : Host.Outcome State Fault Refusal :=
  .next (runFixed (.xlRadd t) .xl t 4 s (raddRes t))

/-- scanadd (R189) -/
def execXlScanadd (t : Trig) (s : State) : Host.Outcome State Fault Refusal :=
  .next (runFixed (.xlScanadd t) .xl t 4 s (scanaddRes t))

end Sys2Proof.Machine
end

