-- ==== Sys2Proof/Machine/Dispatch.lean ====
section
/-! DEFINITION. The meaning of every constructor of Instr. -/

namespace Sys2Proof.Machine

/-- One step of the part, by its row of the opcode table. -/
def exec (i : Instr) (s : State) : Host.Outcome State Fault Refusal :=
  match i with
  | .move src dst => Sys2Proof.Machine.execMove src dst s
  | .portLatch src unit port => Sys2Proof.Machine.execPortLatch src unit port s
  | .iaAdd t => Sys2Proof.Machine.execIaAdd t s
  | .iaSub t => Sys2Proof.Machine.execIaSub t s
  | .iaRsub t => Sys2Proof.Machine.execIaRsub t s
  | .iaNeg t => Sys2Proof.Machine.execIaNeg t s
  | .iaAbs t => Sys2Proof.Machine.execIaAbs t s
  | .iaMin t => Sys2Proof.Machine.execIaMin t s
  | .iaMax t => Sys2Proof.Machine.execIaMax t s
  | .iaAddsat t => Sys2Proof.Machine.execIaAddsat t s
  | .iaSubsat t => Sys2Proof.Machine.execIaSubsat t s
  | .iaMul t => Sys2Proof.Machine.execIaMul t s
  | .iaMulhi t => Sys2Proof.Machine.execIaMulhi t s
  | .iaMad t => Sys2Proof.Machine.execIaMad t s
  | .iaLea t => Sys2Proof.Machine.execIaLea t s
  | .iaHmix t => Sys2Proof.Machine.execIaHmix t s
  | .iaMov t => Sys2Proof.Machine.execIaMov t s
  | .iaAnd t => Sys2Proof.Machine.execIaAnd t s
  | .iaOr t => Sys2Proof.Machine.execIaOr t s
  | .iaXor t => Sys2Proof.Machine.execIaXor t s
  | .iaAndn t => Sys2Proof.Machine.execIaAndn t s
  | .iaNot t => Sys2Proof.Machine.execIaNot t s
  | .iaShl t => Sys2Proof.Machine.execIaShl t s
  | .iaShr t => Sys2Proof.Machine.execIaShr t s
  | .iaSar t => Sys2Proof.Machine.execIaSar t s
  | .iaRot t => Sys2Proof.Machine.execIaRot t s
  | .iaClz t => Sys2Proof.Machine.execIaClz t s
  | .iaCtz t => Sys2Proof.Machine.execIaCtz t s
  | .iaPop t => Sys2Proof.Machine.execIaPop t s
  | .iaBrev t => Sys2Proof.Machine.execIaBrev t s
  | .iaBfx t => Sys2Proof.Machine.execIaBfx t s
  | .iaBfi t => Sys2Proof.Machine.execIaBfi t s
  | .iaSel t => Sys2Proof.Machine.execIaSel t s
  | .iaCmpeq t => Sys2Proof.Machine.execIaCmpeq t s
  | .iaCmpne t => Sys2Proof.Machine.execIaCmpne t s
  | .iaCmplt t => Sys2Proof.Machine.execIaCmplt t s
  | .iaCmple t => Sys2Proof.Machine.execIaCmple t s
  | .iaCmpgt t => Sys2Proof.Machine.execIaCmpgt t s
  | .iaCmpge t => Sys2Proof.Machine.execIaCmpge t s
  | .fvFadd t => Sys2Proof.Machine.execFvFadd t s
  | .fvFsub t => Sys2Proof.Machine.execFvFsub t s
  | .fvFmul t => Sys2Proof.Machine.execFvFmul t s
  | .fvFma t => Sys2Proof.Machine.execFvFma t s
  | .fvFms t => Sys2Proof.Machine.execFvFms t s
  | .fvFnma t => Sys2Proof.Machine.execFvFnma t s
  | .fvFmin t => Sys2Proof.Machine.execFvFmin t s
  | .fvFmax t => Sys2Proof.Machine.execFvFmax t s
  | .fvFabs t => Sys2Proof.Machine.execFvFabs t s
  | .fvFneg t => Sys2Proof.Machine.execFvFneg t s
  | .fvFcmp t => Sys2Proof.Machine.execFvFcmp t s
  | .fvFrnd t => Sys2Proof.Machine.execFvFrnd t s
  | .fvVadd t => Sys2Proof.Machine.execFvVadd t s
  | .fvVsub t => Sys2Proof.Machine.execFvVsub t s
  | .fvVmul t => Sys2Proof.Machine.execFvVmul t s
  | .fvVmad t => Sys2Proof.Machine.execFvVmad t s
  | .fvVmin t => Sys2Proof.Machine.execFvVmin t s
  | .fvVmax t => Sys2Proof.Machine.execFvVmax t s
  | .fvVand t => Sys2Proof.Machine.execFvVand t s
  | .fvVor t => Sys2Proof.Machine.execFvVor t s
  | .fvVxor t => Sys2Proof.Machine.execFvVxor t s
  | .fvVsel t => Sys2Proof.Machine.execFvVsel t s
  | .fvCmul t => Sys2Proof.Machine.execFvCmul t s
  | .fvCmac t => Sys2Proof.Machine.execFvCmac t s
  | .fvDot4 t => Sys2Proof.Machine.execFvDot4 t s
  | .fvHsum t => Sys2Proof.Machine.execFvHsum t s
  | .fvPack t => Sys2Proof.Machine.execFvPack t s
  | .fvUnpack t => Sys2Proof.Machine.execFvUnpack t s
  | .fvBshuf t => Sys2Proof.Machine.execFvBshuf t s
  | .fvMovv t => Sys2Proof.Machine.execFvMovv t s
  | .fvCvtf32 t => Sys2Proof.Machine.execFvCvtf32 t s
  | .fvCvtbf16 t => Sys2Proof.Machine.execFvCvtbf16 t s
  | .fvCvtf16 t => Sys2Proof.Machine.execFvCvtf16 t s
  | .fvCvti32 t => Sys2Proof.Machine.execFvCvti32 t s
  | .fvCvtn32 t => Sys2Proof.Machine.execFvCvtn32 t s
  | .fvCvti16 t => Sys2Proof.Machine.execFvCvti16 t s
  | .fvCvtn16 t => Sys2Proof.Machine.execFvCvtn16 t s
  | .fvCvti8 t => Sys2Proof.Machine.execFvCvti8 t s
  | .fvCvtn8 t => Sys2Proof.Machine.execFvCvtn8 t s
  | .fvCvtb4 t => Sys2Proof.Machine.execFvCvtb4 t s
  | .fvCvtb8 t => Sys2Proof.Machine.execFvCvtb8 t s
  | .fvCvtb12 t => Sys2Proof.Machine.execFvCvtb12 t s
  | .fvCvtc4 t => Sys2Proof.Machine.execFvCvtc4 t s
  | .fvCvtc8 t => Sys2Proof.Machine.execFvCvtc8 t s
  | .fvCvtci32 t => Sys2Proof.Machine.execFvCvtci32 t s
  | .sfExp2 t => Sys2Proof.Machine.execSfExp2 t s
  | .sfExp t => Sys2Proof.Machine.execSfExp t s
  | .sfLog2 t => Sys2Proof.Machine.execSfLog2 t s
  | .sfLn t => Sys2Proof.Machine.execSfLn t s
  | .sfRcp t => Sys2Proof.Machine.execSfRcp t s
  | .sfRsqrt t => Sys2Proof.Machine.execSfRsqrt t s
  | .sfSqrt t => Sys2Proof.Machine.execSfSqrt t s
  | .sfSin t => Sys2Proof.Machine.execSfSin t s
  | .sfCos t => Sys2Proof.Machine.execSfCos t s
  | .sfTanh t => Sys2Proof.Machine.execSfTanh t s
  | .sfSigm t => Sys2Proof.Machine.execSfSigm t s
  | .sfErf t => Sys2Proof.Machine.execSfErf t s
  | .sfRmax t => Sys2Proof.Machine.execSfRmax t s
  | .sfRexp t => Sys2Proof.Machine.execSfRexp t s
  | .sfRdiv t => Sys2Proof.Machine.execSfRdiv t s
  | .sfRmsq t => Sys2Proof.Machine.execSfRmsq t s
  | .xlShfl t => Sys2Proof.Machine.execXlShfl t s
  | .xlShup t => Sys2Proof.Machine.execXlShup t s
  | .xlShdn t => Sys2Proof.Machine.execXlShdn t s
  | .xlXorsh t => Sys2Proof.Machine.execXlXorsh t s
  | .xlBcast t => Sys2Proof.Machine.execXlBcast t s
  | .xlBallot t => Sys2Proof.Machine.execXlBallot t s
  | .xlAnyl t => Sys2Proof.Machine.execXlAnyl t s
  | .xlAlll t => Sys2Proof.Machine.execXlAlll t s
  | .xlElect t => Sys2Proof.Machine.execXlElect t s
  | .xlLanemask t => Sys2Proof.Machine.execXlLanemask t s
  | .xlPopl t => Sys2Proof.Machine.execXlPopl t s
  | .xlRmin t => Sys2Proof.Machine.execXlRmin t s
  | .xlRmax t => Sys2Proof.Machine.execXlRmax t s
  | .xlRadd t => Sys2Proof.Machine.execXlRadd t s
  | .xlScanadd t => Sys2Proof.Machine.execXlScanadd t s
  | .lsLd t => Sys2Proof.Machine.execLsLd t s
  | .lsSt t => Sys2Proof.Machine.execLsSt t s
  | .lsLdv t => Sys2Proof.Machine.execLsLdv t s
  | .lsStv t => Sys2Proof.Machine.execLsStv t s
  | .lsLdacq t => Sys2Proof.Machine.execLsLdacq t s
  | .lsStrel t => Sys2Proof.Machine.execLsStrel t s
  | .lsPf t => Sys2Proof.Machine.execLsPf t s
  | .lsLdnc t => Sys2Proof.Machine.execLsLdnc t s
  | .lsStMc t => Sys2Proof.Machine.execLsStMc t s
  | .lsAadd t => Sys2Proof.Machine.execLsAadd t s
  | .lsAsub t => Sys2Proof.Machine.execLsAsub t s
  | .lsAmin t => Sys2Proof.Machine.execLsAmin t s
  | .lsAmax t => Sys2Proof.Machine.execLsAmax t s
  | .lsAand t => Sys2Proof.Machine.execLsAand t s
  | .lsAor t => Sys2Proof.Machine.execLsAor t s
  | .lsAxor t => Sys2Proof.Machine.execLsAxor t s
  | .lsAxch t => Sys2Proof.Machine.execLsAxch t s
  | .lsAcas t => Sys2Proof.Machine.execLsAcas t s
  | .lsAaddf t => Sys2Proof.Machine.execLsAaddf t s
  | .lsAaddAcq t => Sys2Proof.Machine.execLsAaddAcq t s
  | .lsAsubAcq t => Sys2Proof.Machine.execLsAsubAcq t s
  | .lsAminAcq t => Sys2Proof.Machine.execLsAminAcq t s
  | .lsAmaxAcq t => Sys2Proof.Machine.execLsAmaxAcq t s
  | .lsAandAcq t => Sys2Proof.Machine.execLsAandAcq t s
  | .lsAorAcq t => Sys2Proof.Machine.execLsAorAcq t s
  | .lsAxorAcq t => Sys2Proof.Machine.execLsAxorAcq t s
  | .lsAxchAcq t => Sys2Proof.Machine.execLsAxchAcq t s
  | .lsAcasAcq t => Sys2Proof.Machine.execLsAcasAcq t s
  | .lsAaddfAcq t => Sys2Proof.Machine.execLsAaddfAcq t s
  | .lsAaddRel t => Sys2Proof.Machine.execLsAaddRel t s
  | .lsAsubRel t => Sys2Proof.Machine.execLsAsubRel t s
  | .lsAminRel t => Sys2Proof.Machine.execLsAminRel t s
  | .lsAmaxRel t => Sys2Proof.Machine.execLsAmaxRel t s
  | .lsAandRel t => Sys2Proof.Machine.execLsAandRel t s
  | .lsAorRel t => Sys2Proof.Machine.execLsAorRel t s
  | .lsAxorRel t => Sys2Proof.Machine.execLsAxorRel t s
  | .lsAxchRel t => Sys2Proof.Machine.execLsAxchRel t s
  | .lsAcasRel t => Sys2Proof.Machine.execLsAcasRel t s
  | .lsAaddfRel t => Sys2Proof.Machine.execLsAaddfRel t s
  | .lsAaddAr t => Sys2Proof.Machine.execLsAaddAr t s
  | .lsAsubAr t => Sys2Proof.Machine.execLsAsubAr t s
  | .lsAminAr t => Sys2Proof.Machine.execLsAminAr t s
  | .lsAmaxAr t => Sys2Proof.Machine.execLsAmaxAr t s
  | .lsAandAr t => Sys2Proof.Machine.execLsAandAr t s
  | .lsAorAr t => Sys2Proof.Machine.execLsAorAr t s
  | .lsAxorAr t => Sys2Proof.Machine.execLsAxorAr t s
  | .lsAxchAr t => Sys2Proof.Machine.execLsAxchAr t s
  | .lsAcasAr t => Sys2Proof.Machine.execLsAcasAr t s
  | .lsAaddfAr t => Sys2Proof.Machine.execLsAaddfAr t s
  | .spSpcfg t => Sys2Proof.Machine.execSpSpcfg t s
  | .spSpbase t => Sys2Proof.Machine.execSpSpbase t s
  | .spSpstart t => Sys2Proof.Machine.execSpSpstart t s
  | .spSpskip t => Sys2Proof.Machine.execSpSpskip t s
  | .spSpstat t => Sys2Proof.Machine.execSpSpstat t s
  | .spSpstop t => Sys2Proof.Machine.execSpSpstop t s
  | .cpCpsrc t => Sys2Proof.Machine.execCpCpsrc t s
  | .cpCpdst t => Sys2Proof.Machine.execCpCpdst t s
  | .cpCpshape t => Sys2Proof.Machine.execCpCpshape t s
  | .cpCpgo t => Sys2Proof.Machine.execCpCpgo t s
  | .cpCpwm t => Sys2Proof.Machine.execCpCpwm t s
  | .cpCpstat t => Sys2Proof.Machine.execCpCpstat t s
  | .cpCpabort t => Sys2Proof.Machine.execCpCpabort t s
  | .cpCphalo t => Sys2Proof.Machine.execCpCphalo t s
  | .cpCpring t => Sys2Proof.Machine.execCpCpring t s
  | .mxMxres t => Sys2Proof.Machine.execMxMxres t s
  | .mxMxrel t => Sys2Proof.Machine.execMxMxrel t s
  | .mxMxcop t => Sys2Proof.Machine.execMxMxcop t s
  | .mxMxpass t => Sys2Proof.Machine.execMxMxpass t s
  | .mxMxdrain t => Sys2Proof.Machine.execMxMxdrain t s
  | .mxMxsave t => Sys2Proof.Machine.execMxMxsave t s
  | .mxMxload t => Sys2Proof.Machine.execMxMxload t s
  | .mxMxstat t => Sys2Proof.Machine.execMxMxstat t s
  | .mxMxdrainAcc t => Sys2Proof.Machine.execMxMxdrainAcc t s
  | .brJmp t => Sys2Proof.Machine.execBrJmp t s
  | .brBra t => Sys2Proof.Machine.execBrBra t s
  | .brBrz t => Sys2Proof.Machine.execBrBrz t s
  | .brBrall t => Sys2Proof.Machine.execBrBrall t s
  | .brCall t => Sys2Proof.Machine.execBrCall t s
  | .brRet t => Sys2Proof.Machine.execBrRet t s
  | .brLoopi t => Sys2Proof.Machine.execBrLoopi t s
  | .brLoop t => Sys2Proof.Machine.execBrLoop t s
  | .brHalt t => Sys2Proof.Machine.execBrHalt t s
  | .brYield t => Sys2Proof.Machine.execBrYield t s
  | .syBar t => Sys2Proof.Machine.execSyBar t s
  | .syBarw t => Sys2Proof.Machine.execSyBarw t s
  | .syBarar t => Sys2Proof.Machine.execSyBarar t s
  | .syCbar t => Sys2Proof.Machine.execSyCbar t s
  | .syFence t => Sys2Proof.Machine.execSyFence t s
  | .syAcq t => Sys2Proof.Machine.execSyAcq t s
  | .syRel t => Sys2Proof.Machine.execSyRel t s
  | .syTwait t => Sys2Proof.Machine.execSyTwait t s
  | .syTread t => Sys2Proof.Machine.execSyTread t s
  | .syMwait t => Sys2Proof.Machine.execSyMwait t s
  | .syWmwait t => Sys2Proof.Machine.execSyWmwait t s
  | .sySleep t => Sys2Proof.Machine.execSySleep t s
  | .syTick t => Sys2Proof.Machine.execSyTick t s
  | .ssRdsys t => Sys2Proof.Machine.execSsRdsys t s
  | .ssWrsys t => Sys2Proof.Machine.execSsWrsys t s
  | .ssTrap t => Sys2Proof.Machine.execSsTrap t s
  | .ssRti t => Sys2Proof.Machine.execSsRti t s
  | .ssTlbinv t => Sys2Proof.Machine.execSsTlbinv t s
  | .ssReplay t => Sys2Proof.Machine.execSsReplay t s
  | .ssPub t => Sys2Proof.Machine.execSsPub t s
  | .ssIclock t => Sys2Proof.Machine.execSsIclock t s
  | .ssIcunlock t => Sys2Proof.Machine.execSsIcunlock t s
  | .ssCtxsave t => Sys2Proof.Machine.execSsCtxsave t s
  | .ssCtxload t => Sys2Proof.Machine.execSsCtxload t s
  | .lnPush t => Sys2Proof.Machine.execLnPush t s
  | .lnStat t => Sys2Proof.Machine.execLnStat t s
  | .lnCancel t => Sys2Proof.Machine.execLnCancel t s
  | .bundleIssue => Sys2Proof.Machine.execBundleIssue s
  | .fixedLatencyResultWrite => Sys2Proof.Machine.execFixedLatencyResultWrite s
  | .resultEntryFill => Sys2Proof.Machine.execResultEntryFill s
  | .instructionFetchFill => Sys2Proof.Machine.execInstructionFetchFill s
  | .groupSlotFree => Sys2Proof.Machine.execGroupSlotFree s
  | .gridCompletion => Sys2Proof.Machine.execGridCompletion s
  | .yieldExpiry => Sys2Proof.Machine.execYieldExpiry s
  | .pageWalkComplete => Sys2Proof.Machine.execPageWalkComplete s
  | .faultBufferDelivery => Sys2Proof.Machine.execFaultBufferDelivery s
  | .deferredTrapEntry => Sys2Proof.Machine.execDeferredTrapEntry s
  | .watermarkRelease => Sys2Proof.Machine.execWatermarkRelease s
  | .hiddenWriteReveal => Sys2Proof.Machine.execHiddenWriteReveal s
  | .streamVectorFetch => Sys2Proof.Machine.execStreamVectorFetch s
  | .copyElementLand => Sys2Proof.Machine.execCopyElementLand s
  | .copyCseqAdvance => Sys2Proof.Machine.execCopyCseqAdvance s
  | .mxPassStart => Sys2Proof.Machine.execMxPassStart s
  | .mxPassRetire => Sys2Proof.Machine.execMxPassRetire s
  | .mxDrainStart => Sys2Proof.Machine.execMxDrainStart s
  | .mxDrainRetire => Sys2Proof.Machine.execMxDrainRetire s
  | .mxloadStart => Sys2Proof.Machine.execMxloadStart s
  | .mxloadRetire => Sys2Proof.Machine.execMxloadRetire s
  | .releaseComplete => Sys2Proof.Machine.execReleaseComplete s
  | .barrierArrival => Sys2Proof.Machine.execBarrierArrival s
  | .clusterBarrierArrival => Sys2Proof.Machine.execClusterBarrierArrival s
  | .twaitFill => Sys2Proof.Machine.execTwaitFill s
  | .mwaitFill => Sys2Proof.Machine.execMwaitFill s
  | .mwaitHostPoll => Sys2Proof.Machine.execMwaitHostPoll s
  | .wmwaitFill => Sys2Proof.Machine.execWmwaitFill s
  | .sleepExpiry => Sys2Proof.Machine.execSleepExpiry s
  | .replayWalk => Sys2Proof.Machine.execReplayWalk s
  | .replayComplete => Sys2Proof.Machine.execReplayComplete s
  | .tlbinvComplete => Sys2Proof.Machine.execTlbinvComplete s
  | .pubComplete => Sys2Proof.Machine.execPubComplete s
  | .lnPushAccept => Sys2Proof.Machine.execLnPushAccept s
  | .segmentLink => Sys2Proof.Machine.execSegmentLink s
  | .segmentRefill => Sys2Proof.Machine.execSegmentRefill s
  | .dispatcherTake => Sys2Proof.Machine.execDispatcherTake s
  | .teamPlacement => Sys2Proof.Machine.execTeamPlacement s
  | .fragmentationWaitExpiry => Sys2Proof.Machine.execFragmentationWaitExpiry s
  | .timeSliceExpiry => Sys2Proof.Machine.execTimeSliceExpiry s
  | .swapOut => Sys2Proof.Machine.execSwapOut s
  | .teamSave => Sys2Proof.Machine.execTeamSave s
  | .teamRestore => Sys2Proof.Machine.execTeamRestore s
  | .swappedParentWake => Sys2Proof.Machine.execSwappedParentWake s
  | .hcqDoorbell => Sys2Proof.Machine.execHcqDoorbell s
  | .ringCiWrite => Sys2Proof.Machine.execRingCiWrite s
  | .nop => Sys2Proof.Machine.execNop s
  | .launch => Sys2Proof.Machine.execLaunch s
  | .waitctr => Sys2Proof.Machine.execWaitctr s
  | .signal => Sys2Proof.Machine.execSignal s
  | .preempt => Sys2Proof.Machine.execPreempt s
  | .commandQueueResume => Sys2Proof.Machine.execCommandQueueResume s
  | .frameReceive => Sys2Proof.Machine.execFrameReceive s
  | .ingestWpAdvance => Sys2Proof.Machine.execIngestWpAdvance s
  | .pauseXoffRefresh => Sys2Proof.Machine.execPauseXoffRefresh s
  | .ringConfigure => Sys2Proof.Machine.execRingConfigure s
  | .flowRuleWrite => Sys2Proof.Machine.execFlowRuleWrite s
  | .frameAdvance => Sys2Proof.Machine.execFrameAdvance s
  | .thermalLimitRaise => Sys2Proof.Machine.execThermalLimitRaise s
  | .skenClear => Sys2Proof.Machine.execSkenClear s
  | .gtimeTick => Sys2Proof.Machine.execGtimeTick s
  | .gtimeResync => Sys2Proof.Machine.execGtimeResync s
  | .partitionQuotaWrite => Sys2Proof.Machine.execPartitionQuotaWrite s
  | .ptrootWrite => Sys2Proof.Machine.execPtrootWrite s
  | .tvecSavebaseWrite => Sys2Proof.Machine.execTvecSavebaseWrite s
  | .pferrClear => Sys2Proof.Machine.execPferrClear s
  | .bar2Access => Sys2Proof.Machine.execBar2Access s
  | .bar2Atomicop => Sys2Proof.Machine.execBar2Atomicop s
  | .registerWrite => Sys2Proof.Machine.execRegisterWrite s
  | .pmselWrite => Sys2Proof.Machine.execPmselWrite s
  | .fragmentationCounterClear => Sys2Proof.Machine.execFragmentationCounterClear s
  | .agemonUpdate => Sys2Proof.Machine.execAgemonUpdate s
  | .mrExtendRequest => Sys2Proof.Machine.execMrExtendRequest s
  | .clockPlanWrite => Sys2Proof.Machine.execClockPlanWrite s
  | .vcoreCurrentLimit => Sys2Proof.Machine.execVcoreCurrentLimit s
  | .vcoreLimitRelease => Sys2Proof.Machine.execVcoreLimitRelease s
  | .fabricPlaneFailover => Sys2Proof.Machine.execFabricPlaneFailover s
  | .fabricAccessTimeout => Sys2Proof.Machine.execFabricAccessTimeout s
  | .fabidw => Sys2Proof.Machine.execFabidw s
  | .planemap => Sys2Proof.Machine.execPlanemap s
  | .thlimit => Sys2Proof.Machine.execThlimit s
  | .newtHeartbeat => Sys2Proof.Machine.execNewtHeartbeat s
  | .heartbeatTimeout => Sys2Proof.Machine.execHeartbeatTimeout s
  | .modetabWrite => Sys2Proof.Machine.execModetabWrite s
  | .modetabApply => Sys2Proof.Machine.execModetabApply s
  | .molt => Sys2Proof.Machine.execMolt s
  | .moltVerify => Sys2Proof.Machine.execMoltVerify s
  | .moltQuiesce => Sys2Proof.Machine.execMoltQuiesce s
  | .moltExport => Sys2Proof.Machine.execMoltExport s
  | .moltSwitch => Sys2Proof.Machine.execMoltSwitch s
  | .moltImport => Sys2Proof.Machine.execMoltImport s
  | .moltFallback => Sys2Proof.Machine.execMoltFallback s
  | .dieRepair => Sys2Proof.Machine.execDieRepair s
  | .dieRepairComplete => Sys2Proof.Machine.execDieRepairComplete s
  | .fullBringup => Sys2Proof.Machine.execFullBringup s
  | .packageReset => Sys2Proof.Machine.execPackageReset s
  | .quoteRequest => Sys2Proof.Machine.execQuoteRequest s
  | .fbpop => Sys2Proof.Machine.execFbpop s
  | .fbdeliv => Sys2Proof.Machine.execFbdeliv s
  | .fbrpl => Sys2Proof.Machine.execFbrpl s
  | .hlaunch => Sys2Proof.Machine.execHlaunch s
  | .hpreempt => Sys2Proof.Machine.execHpreempt s
  | .hoqdone => Sys2Proof.Machine.execHoqdone s
  | .plsw => Sys2Proof.Machine.execPlsw s
  | .plqfill => Sys2Proof.Machine.execPlqfill s
  | .hcancpop => Sys2Proof.Machine.execHcancpop s
  | .hfin => Sys2Proof.Machine.execHfin s
  | .fabricRemoteAccess => Sys2Proof.Machine.execFabricRemoteAccess s
  | .streamVectorWrite => Sys2Proof.Machine.execStreamVectorWrite s
  | .mxsaveStart => Sys2Proof.Machine.execMxsaveStart s
  | .uncorrectableError => Sys2Proof.Machine.execUncorrectableError s
  | .fabricPlaneReturn => Sys2Proof.Machine.execFabricPlaneReturn s
  | .coreCycle => Sys2Proof.Machine.execCoreCycle s

end Sys2Proof.Machine
end

