-- ==== Sys2Proof/Machine/Step.lean ====
section
/-! DEFINITION. One step of the machine: the next word is decoded and carried out. -/

namespace Sys2Proof.Machine

/-- One step (logs 2, 3). -/
def step (s : State) : Host.Outcome State Fault Refusal :=
  match decodeWord (pickWord s).1 with
  | .error _ => .fault .noSuchStep
  | .ok i =>
    match exec i (pickWord s).2 with
    | .next t => .next (afterStep t)
    | .fault r => .fault r
    | .refused r => .refused r

/-- The state whose next step carries out the instruction of a word (log 9). -/
def State.withFetchWord (s : State) (nbits w : Nat) : State := placeWord s (w % 2 ^ nbits)

end Sys2Proof.Machine
end

