-- ==== Sys2Proof/Safety.lean ====
section
/-! DEFINITION. The terms in which claims speak of runs: what is kept, and how a move or a step stands in the machine. -/

namespace Sys2Proof.Machine

/-- The memory of the state is in canonical form. -/
abbrev MemOk (s : State) : Prop := memWf s.mem = true

/-- If the outcome is a next state, its memory is in canonical form. -/
def OutOk (o : Host.Outcome State Fault Refusal) : Prop :=
  match o with
  | .next t => MemOk t
  | .fault _ => True
  | .refused _ => True

/-- Slot k of the bundle of the group in slot sl of core c is being carried out, and its source names no leased row. -/
abbrev Carried (s : State) (c sl k : Nat) (src : Src) : Prop :=
  s.cur = some (c, sl) ∧ (group s c sl).bun.now = some k ∧ readsLeased s c sl k src = false

/-- The lanes for which the move in slot k of a group's bundle is enabled (R64). -/
abbrev moveLanes (s : State) (c sl k : Nat) : Mask := tget 0 (group s c sl).bun.en k

/-- The value that the source of the move in slot k gave (R73). -/
abbrev moveValue (s : State) (c sl k : Nat) : Row := tget 0 (group s c sl).bun.val k

end Sys2Proof.Machine
end

