-- ==== Sys2Proof/Certificates/Slice0/Obligations.lean ====
section
/-! DEFINITION. The statements about the PX-T8A model. Each says which rules of the manual it formalises. -/

open Sys2Proof Sys2Proof.Machine

/-! ### Words and steps -/

/-- The word of a well-formed instruction decodes to the instruction, with every operand (R63 to R72, R84; the words of
events are the model's own, log 1). -/
def Obligations.EncodedInstructionDecodes : Prop :=
  ∀ i : Instr, i.wf = true → encode i < 2 ^ 40 ∧ decodeTableWord 40 (encode i) = some i

/-- Worked encodings of the manual decode to the moves they are given for. -/
def Obligations.ManualWordsDecode : Prop :=
  decodeWord 0x0000900000 = .ok (.portLatch ⟨false, 0, 0, 1, false⟩ 4 .a) ∧
  decodeWord 0x0001120000 = .ok (.iaAdd ⟨⟨false, 0, 0, 2, false⟩, 0, 0, 0⟩) ∧
  decodeWord 0x0250000600 = .ok (.move ⟨false, 0, 1, 0xA0, false⟩ (.g 3)) ∧
  decodeWord 0x2904925B40 = .ok (.iaCmpge ⟨⟨false, 5, 0, 0x209, false⟩, 0, 5, 0⟩) ∧
  decodeWord 0x05FACE0200 = .ok (.brBra ⟨⟨false, 0, 2, 0x3F5, false⟩, 0, 0, 0⟩) ∧
  decodeWord 0x02E0000A04 = .ok (.move ⟨false, 0, 1, 0x1C0, true⟩ (.g 5))

/-- A step carries out the instruction that the next word decodes to, and then ends the bundle if nothing of it is left. While a bundle
is carried out the next word is that of its next planned slot, before any event: the slots of a bundle are carried out one by one by the
model's reading (log 3); else it is the head of the agenda, with its selection, which is the model's own (log 2). -/
def Obligations.StepRunsDecodedInstruction : Prop :=
  (∀ (s : State) (i : Instr), decodeWord (pickWord s).1 = .ok i →
    step s = match exec i (pickWord s).2 with
      | .next t => .next (afterStep t)
      | .fault r => .fault r
      | .refused r => .refused r) ∧
  (∀ (s : State) (c sl k : Nat) (rest : List Nat), s.cur = some (c, sl) → (group s c sl).bun.plan = k :: rest →
    pickWord s = ((slotWord (group s c sl).bun.word k).toNat,
      modGroup s c sl (fun g => { g with bun := { g.bun with plan := rest, now := some k } }))) ∧
  (∀ (s : State) (w : Nat) (sel : List Nat) (rest : List (Nat × List Nat)),
    (∀ c sl, s.cur = some (c, sl) → (group s c sl).bun.plan = []) → s.agenda = (w, sel) :: rest →
    pickWord s = (w, { s with agenda := rest, sel := sel }))

/-! ### Memory as a whole -/

/-- Every step keeps the canonical form of memory (the model's own invariant: equal memories are equal data). -/
def Obligations.StepKeepsCanonicalMemory : Prop :=
  ∀ s t : State, memWf s.mem = true → step s = .next t → memWf t.mem = true

/-! ### Moves -/

/-- A move to a register file writes the enabled lanes of g and q, the value of the lowest enabled lane to k, and nothing to
null; q0 keeps its value (R71, R77, R102). A 128-bit unit of a g register that is written whole loses its error (R191). Every other
register and all of the state beside the register keep theirs. -/
def Claims.MoveWritesRegister : Prop :=
  ∀ (s : State) (c sl k : Nat) (src : Src) (i : BitVec 9), Carried s c sl k src →
    (∃ x : GRow, exec (.move src (.g i)) s =
        .next (modGroup (clearLanes s (gregAddr c (group s c sl).gbase i.toNat) 4 (moveLanes s c sl k)) c sl
          (fun g => { g with g := tput g.g i.toNat x })) ∧
      ∀ L < 32, glane x L = if (moveLanes s c sl k).getLsbD L then (lane (moveValue s c sl k) L).setWidth 32
        else glane (tget 0 (group s c sl).g i.toNat) L) ∧
    (moveLanes s c sl k = 0 → exec (.move src (.k i)) s = .next (modGroup s c sl (fun g => g))) ∧
    (moveLanes s c sl k ≠ 0 → exec (.move src (.k i)) s = .next (modGroup s c sl (fun g => { g with
      k := tput g.k i.toNat ((uniform (moveLanes s c sl k) (moveValue s c sl k)).setWidth 32) }))) ∧
    (physQ (group s c sl) i.toNat = 0 → exec (.move src (.q i)) s = .next (modGroup s c sl (fun g => g))) ∧
    (physQ (group s c sl) i.toNat ≠ 0 → ∃ m : Mask,
      exec (.move src (.q i)) s =
        .next (modGroup s c sl (fun g => { g with q := tput g.q (physQ g i.toNat) m })) ∧
      ∀ L < 32, m.getLsbD L = if (moveLanes s c sl k).getLsbD L
        then (lane (moveValue s c sl k) L).setWidth 32 != (0 : BitVec 32)
        else (readQ (group s c sl) i.toNat).getLsbD L) ∧
    exec (.move src .null) s = .next s

/-- A move to a v row writes the slices of the enabled lanes, which lose their errors; a leased row raises a lease fault against
the slot instead (R71, R106, R191, R274). That a move with no enabled lane raises no lease fault is the model's reading, log 49. -/
def Claims.MoveWritesVectorRow : Prop :=
  ∀ (s : State) (c sl k : Nat) (src : Src) (i : BitVec 9), Carried s c sl k src →
    (moveLanes s c sl k = 0 → exec (.move src (.v i)) s = .next s) ∧
    (moveLanes s c sl k ≠ 0 → rowLeased s c ((group s c sl).vbase + i.toNat) = false → ∃ r : Row,
      exec (.move src (.v i)) s = .next (modCore (clearSlices s c ((group s c sl).vbase + i.toNat) (moveLanes s c sl k)) c
        (fun x => { x with acc := tput x.acc ((group s c sl).vbase + i.toNat) r })) ∧
      ∀ L < 32, lane r L = if (moveLanes s c sl k).getLsbD L then lane (moveValue s c sl k) L
        else lane (tget 0 (core s c).acc ((group s c sl).vbase + i.toNat)) L) ∧
    (moveLanes s c sl k ≠ 0 → rowLeased s c ((group s c sl).vbase + i.toNat) = true →
      exec (.move src (.v i)) s = .next (slotFault (countEvent s c 0xF (some (group s c sl).part) 1) c sl 0x0B 0
        ((lowest (moveLanes s c sl k)).getD 0)))

/-- What a move to a register file writes: g, k, q and null, and v rows (R71, R77, R102, R106, R274). -/
def Obligations.MovesWriteRegisters : Prop :=
  Claims.MoveWritesRegister ∧ Claims.MoveWritesVectorRow

/-- The source of a move to a register file, to null or to a port, and of a trigger. -/
def Claims.sourceOf (i : Instr) : Option Src :=
  match i with
  | .move src _ => some src
  | .portLatch src _ _ => some src
  | i => (trigOf i).map (fun x => x.2.2.src)

/-- A move, to a register, a port or a trigger, whose source names a leased v row in an enabled lane raises a lease fault against its
slot and has no other effect (R106, R274). -/
def Claims.LeasedSourceFaults : Prop :=
  ∀ (i : Instr) (src : Src) (s : State) (c sl k : Nat),
    Claims.sourceOf i = some src → s.cur = some (c, sl) → (group s c sl).bun.now = some k →
    readsLeased s c sl k src = true →
    exec i s = .next (slotFault (countEvent s c 0xF (some (group s c sl).part) 1) c sl 0x0B 0
      ((lowest (moveLanes s c sl k)).getD 0))

/-- A move to port a or b latches the value of every enabled lane, one to aux the value of the lowest enabled lane; nothing else
changes (R72). -/
def Claims.PortLatch : Prop :=
  ∀ (s : State) (c sl k : Nat) (src : Src) (unit : BitVec 5) (p : PortName), Carried s c sl k src →
    ¬(p = .a ∧ 13 ≤ unit.toNat ∧ unit.toNat ≤ 16 ∧ moveLanes s c sl k ≠ 0 ∧
      (tget {} (group s c sl).streams unit.toNat).active = true ∧ streamDir (tget {} (group s c sl).streams unit.toNat) = true) →
    ∃ x : Port,
      exec (.portLatch src unit p) s = .next (modGroup s c sl (fun g => modPort g unit.toNat (fun _ => x))) ∧
      x.r = (port (group s c sl) unit.toNat).r ∧ x.q = (port (group s c sl) unit.toNat).q ∧
      (p ≠ .a → x.a = (port (group s c sl) unit.toNat).a) ∧
      (p ≠ .b → x.b = (port (group s c sl) unit.toNat).b) ∧
      (p = .a → ∀ L < 32, lane x.a L = if (moveLanes s c sl k).getLsbD L then lane (moveValue s c sl k) L
        else lane (port (group s c sl) unit.toNat).a L) ∧
      (p = .b → ∀ L < 32, lane x.b L = if (moveLanes s c sl k).getLsbD L then lane (moveValue s c sl k) L
        else lane (port (group s c sl) unit.toNat).b L) ∧
      x.aux = (if p = .aux ∧ moveLanes s c sl k ≠ 0 then uniform (moveLanes s c sl k) (moveValue s c sl k)
        else (port (group s c sl) unit.toNat).aux)

/-- A move to spN.a of an active write stream also pushes one vector to the stream's next addresses (R231): when they translate, the
vector waits for its write and the position moves past it; a fault of an address is raised against the slot and the position stays;
else its walk starts. -/
def Claims.StreamPush : Prop :=
  ∀ (s : State) (c sl k : Nat) (src : Src) (unit : BitVec 5), Carried s c sl k src → 13 ≤ unit.toNat → unit.toNat ≤ 16 →
    let u := unit.toNat
    let st := tget {} (group s c sl).streams u
    let m := moveLanes s c sl k
    let v := moveValue s c sl k
    let s1 := modGroup s c sl (fun g => modPort g u (fun x => latchPort x .a m v))
    let hand := inHand (group s1 c sl) u
    let a : Access := { kind := .streamWrite, lanes := m, elems := streamElems st st.pos m, data := v, seq := placeOf s c sl
                        part := (group s c sl).part, priv := (group s c sl).hmode }
    let next (y : Stream) (a : Access) : Stream := { y with pos := y.pos + 32 * streamPer y, unwritten := y.unwritten ++ [a] }
    let push (s : State) (a : Access) : State :=
      modGroup s c sl (fun g => { g with streams := tput g.streams u (next (tget {} g.streams u) a) })
    st.active = true → streamDir st = true → m ≠ 0 →
    (∀ a', decideAccess s1 c (group s1 c sl).team a false = .ready a' →
      exec (.portLatch src unit .a) s = .next (push (fillWalks s1 c a) a')) ∧
    (∀ cz w l, decideAccess s1 c (group s1 c sl).team a false = .fault cz w l →
      exec (.portLatch src unit .a) s = .next (slotFault (leaseEvent (fillWalks s1 c a) c a.part cz) c sl cz w l)) ∧
    (decideAccess s1 c (group s1 c sl).team a false = .walks →
      exec (.portLatch src unit .a) s = .next (startWalk (push s1 (stampPast s1 c (group s1 c sl).team a)) c sl k u hand a))

/-- What a move to a port latches, and the push of a write stream (R72, R231). -/
def Obligations.PortLatchesEnabledLanes : Prop :=
  Claims.PortLatch ∧ Claims.StreamPush

/-- A trigger with no enabled lane starts no operation, takes no result-queue entry and raises no flag: it changes nothing
(R77). -/
def Claims.TriggerWithNoLaneChangesNothing : Prop :=
  ∀ (i : Instr) (u : UnitCls) (op : Nat) (t : Trig) (s : State) (c sl k : Nat),
    trigOf i = some (u, op, t) → Carried s c sl k t.src → moveLanes s c sl k = 0 → exec i s = .next s

/-- The moves that do not come to their effect: one with a leased source, and a trigger with no enabled lane (R77, R106, R274). -/
def Obligations.MovesWithoutEffect : Prop :=
  Claims.LeasedSourceFaults ∧ Claims.TriggerWithNoLaneChangesNothing

/-! ### Fixed-latency operations -/

/-- The latencies of the fixed-latency units in core cycles, by class and operation code (R84). -/
def Claims.latency (u : UnitCls) (op : Nat) : Option Nat :=
  match u with
  | .ia => some (if op = 0x0C then 2 else if op = 0x09 ∨ op = 0x0A ∨ op = 0x0B ∨ op = 0x0D then 3 else 1)
  | .fv => some (if op = 0x08 ∨ op = 0x09 then 1 else if op = 0x0A then 2 else if op ≤ 0x0B then 4
      else if op = 0x12 ∨ op = 0x13 then 3 else if op ≤ 0x19 then 2 else if op = 0x1F then 6 else if op ≤ 0x1E then 4
      else if op ≤ 0x23 then 2 else 4)
  | .sf => some (if op ≤ 0x0B then 12 else 24)
  | .xl => some (if op ≤ 0x0D then 2 else 4)
  | _ => none

/-- A trigger of ia, fv, sf or xl with an enabled lane starts one operation of its latency, whose result will be written in
the lanes enabled now; nothing else changes (R77, R78, R84). -/
def Obligations.FixedLatencyOperationStarts : Prop :=
  ∀ (i : Instr) (u : UnitCls) (op n : Nat) (t : Trig) (s : State) (c sl k : Nat),
    trigOf i = some (u, op, t) → Claims.latency u op = some n → Carried s c sl k t.src → moveLanes s c sl k ≠ 0 →
    ∃ x : InFlight,
      exec i s = .next (modGroup s c sl (fun g => { g with pipe := g.pipe ++ [x] })) ∧
      x.unit = u.base + t.inst.toNat ∧ x.hand = inHand (group s c sl) (u.base + t.inst.toNat) ∧
      x.due + 1 = cycleOf s c + n ∧ x.lanes = moveLanes s c sl k ∧ x.issued = cycleOf s c ∧ x.slot = k ∧
      x.addr = (group s c sl).bun.addr

/-- The word that an ia operation on whole 32-bit words gives in a lane, by its operation code: a and b are the ports, t the
trigger's value, sg tells i32 from n32 (R122 to R132). -/
def Claims.iaWord (op : Nat) (sg : Bool) (a b t : BitVec 32) : Option (BitVec 32) :=
  let less (x y : BitVec 32) : Bool := if sg then x.slt y else x.ult y
  let all (p : Bool) : BitVec 32 := if p then BitVec.allOnes 32 else 0
  let wide (x : BitVec 32) : BitVec 64 := if sg then x.signExtend 64 else x.setWidth 64
  match op with
  | 0x00 => some (a + t)
  | 0x01 => some (a - t)
  | 0x02 => some (t - a)
  | 0x03 => some (-t)
  | 0x04 => some (if sg && t.msb then -t else t)
  | 0x05 => some (if less t a then t else a)
  | 0x06 => some (if less a t then t else a)
  | 0x09 => some (a * t)
  | 0x0A => some ((wide a * wide t).extractLsb' 32 32)
  | 0x0B => some (a * b + t)
  | 0x0E => some t
  | 0x10 => some (a &&& t)
  | 0x11 => some (a ||| t)
  | 0x12 => some (a ^^^ t)
  | 0x13 => some (a &&& ~~~t)
  | 0x14 => some (~~~t)
  | 0x18 => some (a <<< t.toNat)
  | 0x19 => some (a >>> t.toNat)
  | 0x1A => some (a.sshiftRight t.toNat)
  | 0x1B => some (a.rotateLeft (t.toNat % 32))
  | 0x26 => some (if t = 0 then b else a)
  | 0x28 => some (all (a == t))
  | 0x29 => some (all (a != t))
  | 0x2A => some (all (less a t))
  | 0x2B => some (all (!less t a))
  | 0x2C => some (all (less t a))
  | 0x2D => some (all (!less a t))
  | _ => none

/-- An operation starts, and what is in flight is as p says. -/
def Claims.starts (i : Instr) (s : State) (c sl : Nat) (p : InFlight → Prop) : Prop :=
  ∃ x : InFlight, exec i s = .next (modGroup s c sl (fun g => { g with pipe := g.pipe ++ [x] })) ∧ p x

/-- Element e of width w of a slice (R119, R139). -/
def Claims.el (w : Nat) (x : Slice) (e : Nat) : BitVec w := x.extractLsb' (w * e) w

/-- An exact integer kept to w bits: clamped to the range of its type, or wrapped (R35, R120). -/
def Claims.narrow (satur sg : Bool) (w : Nat) (v : Int) : BitVec w :=
  let lo : Int := if sg then -(2 ^ (w - 1)) else 0
  let hi : Int := if sg then 2 ^ (w - 1) - 1 else 2 ^ w - 1
  BitVec.ofInt w (if satur then max lo (min hi v) else v)

/-- The exact integer of an elementwise ia operation, by its code, from element x of a, y of b and z of T (R122 to R132). -/
def Claims.iaExact (op w : Nat) (sg : Bool) (x y z : BitVec w) : Option Int :=
  let v (u : BitVec w) : Int := if sg then u.toInt else u.toNat
  let n (u : BitVec w) : Int := u.toNat
  let all (p : Bool) : Int := if p then 2 ^ w - 1 else 0
  let first (f : Nat → Bool) : Int := (((List.range w).find? f).getD w : Nat)
  match op with
  | 0x00 => some (v x + v z)
  | 0x01 => some (v x - v z)
  | 0x02 => some (v z - v x)
  | 0x03 => some (-v z)
  | 0x04 => some (if v z < 0 then -v z else v z)
  | 0x05 => some (if v x < v z then v x else v z)
  | 0x06 => some (if v x < v z then v z else v x)
  | 0x07 => some (v x + v z)
  | 0x08 => some (v x - v z)
  | 0x09 => some (v x * v z)
  | 0x0A => some (v x * v z / 2 ^ w)
  | 0x0B => some (v x * v y + v z)
  | 0x0E => some (n z)
  | 0x10 => some (n (x &&& z))
  | 0x11 => some (n (x ||| z))
  | 0x12 => some (n (x ^^^ z))
  | 0x13 => some (n (x &&& ~~~z))
  | 0x14 => some (n (~~~z))
  | 0x18 => some (v x * 2 ^ z.toNat)
  | 0x19 => some (n x / 2 ^ z.toNat)
  | 0x1A => some (x.toInt / 2 ^ z.toNat)
  | 0x1B => some (n (x.rotateLeft (z.toNat % w)))
  | 0x20 => some (first (fun i => z.getLsbD (w - 1 - i)))
  | 0x21 => some (first (fun i => z.getLsbD i))
  | 0x22 => some ((List.range w).countP (fun i => z.getLsbD i) : Nat)
  | 0x23 => some (n z.reverse)
  | 0x26 => some (if z = 0 then n y else n x)
  | 0x28 => some (all (x == z))
  | 0x29 => some (all (x != z))
  | 0x2A => some (all (decide (v x < v z)))
  | 0x2B => some (all (decide (v x ≤ v z)))
  | 0x2C => some (all (decide (v z < v x)))
  | 0x2D => some (all (decide (v z ≤ v x)))
  | _ => none

/-- Every elementwise ia operation, on words and on packed elements, wrapping or saturating: each element of the result is the exact
value kept to the element's width; addsat and subsat saturate always, the operations that honour SAT when it is 1; no flag is
raised and bits [127:32] are zero (R119, R120, R122 to R132). -/
def Claims.ElementValues : Prop :=
  ∀ (i : Instr) (op : Nat) (t : Trig) (s : State) (c sl k : Nat), trigOf i = some (.ia, op, t) → t.typ.toNat < 6 →
    Carried s c sl k t.src → moveLanes s c sl k ≠ 0 →
    let w := if t.typ.toNat < 2 then 32 else if t.typ.toNat < 4 then 16 else 8
    let sg := decide (t.typ.toNat % 2 = 0)
    let satur := op == 7 || op == 8 || (t.mod.getLsbD 0 && [0, 1, 2, 3, 4, 9, 0x0B, 0x18].contains op)
    let p := port (group s c sl) (4 + t.inst.toNat)
    let el (r : Row) (L e : Nat) : BitVec w := Claims.el w (lane r L) e
    (∀ x y z, (Claims.iaExact op w sg x y z).isSome = true) →
    Claims.starts i s c sl (fun x => x.flags = 0 ∧ ∀ L < 32, (lane x.val L).toNat < 2 ^ 32 ∧ ∀ e < 32 / w, ∀ v,
      Claims.iaExact op w sg (el p.a L e) (el p.b L e) (el (moveValue s c sl k) L e) = some v →
      el x.val L e = Claims.narrow satur sg w v)

/-- lea, hmix, bfx and bfi (R129, R130, R134, R135): an address of 52 bits from a base and a scaled index; one hash round; a field of
a, sign-extended under i32; and a field of a replaced by the low bits of b. -/
def Claims.AddressesAndFields : Prop :=
  ∀ (t : Trig) (s : State) (c sl k : Nat), t.typ.toNat < 2 → Carried s c sl k t.src → moveLanes s c sl k ≠ 0 →
    let p := port (group s c sl) (4 + t.inst.toNat)
    let a (L : Nat) : BitVec 32 := (lane p.a L).setWidth 32
    let b (L : Nat) : BitVec 32 := (lane p.b L).setWidth 32
    let T (L : Nat) : BitVec 32 := (lane (moveValue s c sl k) L).setWidth 32
    let index (L : Nat) : Int := if t.typ = 0 then (T L).toInt else (T L).toNat
    let pos (L : Nat) : Nat := (T L).toNat % 2 ^ 8
    let len (L : Nat) : Nat := min 32 ((T L).toNat / 2 ^ 8 % 2 ^ 8)
    let field (L j : Nat) : Bool :=
      if pos L + j < 32 then (a L).getLsbD (pos L + j) else t.typ == 0 && (a L).getLsbD 31
    Claims.starts (.iaLea t) s c sl (fun x => ∀ L < 32, ((lane x.val L).toNat : Int) =
      (((b L).toNat % 2 ^ 20 * 2 ^ 32 + (a L).toNat : Nat) + index L * 2 ^ t.mod.toNat) % 2 ^ 52) ∧
    Claims.starts (.iaHmix t) s c sl (fun x => ∀ L < 32,
      let m : BitVec 32 := (a L ^^^ T L) * 0x9E3779B1
      lane x.val L = (m ^^^ (m >>> 15)).setWidth 128) ∧
    Claims.starts (.iaBfx t) s c sl (fun x => ∀ L < 32, ∀ j, (lane x.val L).getLsbD j =
      (decide (j < 32) && (if j < len L then field L j else t.typ == 0 && decide (0 < len L) && field L (len L - 1)))) ∧
    Claims.starts (.iaBfi t) s c sl (fun x => ∀ L < 32, ∀ j, (lane x.val L).getLsbD j =
      (decide (j < 32) && (if pos L ≤ j ∧ j < pos L + len L then (b L).getLsbD (j - pos L) else (a L).getLsbD j)))

/-- The value of an ia operation on i32 and n32, without saturation, in every lane; bits [127:32] are zero (R119, R122 to
R132). -/
def Claims.WholeWordValues : Prop :=
  ∀ (i : Instr) (op : Nat) (t : Trig) (s : State) (c sl k : Nat) (f : BitVec 32 → BitVec 32 → BitVec 32 → BitVec 32),
    trigOf i = some (.ia, op, t) → t.typ.toNat < 2 → t.mod = 0 →
    (∀ a b z, Claims.iaWord op (t.typ = 0) a b z = some (f a b z)) →
    Carried s c sl k t.src → moveLanes s c sl k ≠ 0 →
    ∃ x : InFlight, exec i s = .next (modGroup s c sl (fun g => { g with pipe := g.pipe ++ [x] })) ∧ x.flags = 0 ∧
      ∀ L < 32, lane x.val L =
        (f ((lane (port (group s c sl) (4 + t.inst.toNat)).a L).setWidth 32)
          ((lane (port (group s c sl) (4 + t.inst.toNat)).b L).setWidth 32)
          ((lane (moveValue s c sl k) L).setWidth 32)).setWidth 128

/-- The values of the ia operations (R119 to R135). -/
def Obligations.IntegerWordValues : Prop :=
  Claims.WholeWordValues ∧ Claims.ElementValues ∧ Claims.AddressesAndFields

/-- Cross-lane moves of values: what lane L takes, with P the enabled lanes (R186 to R188). -/
def Claims.CrossLaneMoves : Prop :=
  ∀ (s : State) (c sl k : Nat) (t : Trig), Carried s c sl k t.src → moveLanes s c sl k ≠ 0 → t.inst = 0 →
    let P := moveLanes s c sl k
    let T := moveValue s c sl k
    let a := (port (group s c sl) 10).a
    let w (L : Nat) : BitVec 32 := (lane T L).setWidth 32
    let gives (i : Instr) (v : Nat → Slice) : Prop :=
      ∃ x : InFlight, exec i s = .next (modGroup s c sl (fun g => { g with pipe := g.pipe ++ [x] })) ∧
        ∀ L < 32, lane x.val L = v L
    gives (.xlShfl t) (fun L => lane T ((lane a L).toNat % 32)) ∧
    gives (.xlShup t) (fun L => if (lane a L).toNat % 64 ≤ L then lane T (L - (lane a L).toNat % 64) else lane T L) ∧
    gives (.xlShdn t) (fun L => if L + (lane a L).toNat % 64 ≤ 31 then lane T (L + (lane a L).toNat % 64) else lane T L) ∧
    gives (.xlXorsh t) (fun L => lane T (L ^^^ (lane a L).toNat % 32)) ∧
    gives (.xlBcast t) (fun _ => lane T ((uniform P a).toNat % 32)) ∧
    gives (.xlLanemask t) (fun _ => P.setWidth 128) ∧
    gives (.xlAnyl t) (fun _ => if (List.range 32).any (fun j => P.getLsbD j && decide (w j ≠ 0)) then 1 else 0) ∧
    gives (.xlAlll t) (fun _ => if (List.range 32).all (fun j => !P.getLsbD j || decide (w j ≠ 0)) then 1 else 0) ∧
    gives (.xlElect t) (fun L => if P.getLsbD L = true ∧ w L ≠ 0 ∧ ∀ j < L, P.getLsbD j = true → w j = 0 then 1 else 0) ∧
    (∃ m : Mask, gives (.xlBallot t) (fun _ => m.setWidth 128) ∧
      ∀ j < 32, m.getLsbD j = (P.getLsbD j && decide (w j ≠ 0))) ∧
    gives (.xlPopl t) (fun _ => BitVec.ofNat 128 ((List.range 32).countP (fun j => P.getLsbD j && decide (w j ≠ 0))))

/-- The reductions over the enabled lanes P (R189): rmin and rmax give the smallest and the largest word of P, of the type's order;
under f32 NaNs give way to numbers, and only NaNs give the canonical NaN. radd gives the sum of P to every lane, and scanadd to each
lane of P the sum up to it: of integers exact, and kept to 32 bits; of floats rounded at every lane. -/
def Claims.Reductions : Prop :=
  ∀ (s : State) (c sl k : Nat) (t : Trig), Carried s c sl k t.src → moveLanes s c sl k ≠ 0 → t.inst = 0 → t.typ.toNat < 3 →
    let P := moveLanes s c sl k
    let w (j : Nat) : BitVec 32 := (lane (moveValue s c sl k) j).setWidth 32
    let sg := t.typ == 0
    let number (j : Nat) : Int := if t.typ = 2 then f32.key (w j).toNat else if t.typ = 0 then (w j).toInt else (w j).toNat
    let counts (j : Nat) : Prop := j < 32 ∧ P.getLsbD j = true ∧ (t.typ = 2 → (decodeF f32 (w j).toNat).isNan = false)
    let best (i : Instr) (order : Int → Int → Prop) : Prop :=
      Claims.starts i s c sl (fun x =>
        (∀ j, counts j → (∀ n, counts n → order (number j) (number n)) → ∀ L < 32, lane x.val L = (w j).setWidth 128) ∧
        ((∀ j, ¬counts j) → ∀ L < 32, lane x.val L = BitVec.ofNat 128 f32.qnan))
    let upTo (n : Nat) : List Nat := (List.range n).filter (fun j => P.getLsbD j)
    let sum (n : Nat) : BitVec 32 :=
      if t.typ = 2 then BitVec.ofNat 32 ((upTo n).foldl (fun r j =>
        (fadd f32 (rmodeOf (t.mod.extractLsb' 1 2)) (decodeF f32 r) (decodeF f32 (w j).toNat)).1) 0)
      else Claims.narrow (t.mod.getLsbD 0) sg 32 ((upTo n).map number).sum
    best (.xlRmin t) (fun x y => x ≤ y) ∧ best (.xlRmax t) (fun x y => y ≤ x) ∧
    Claims.starts (.xlRadd t) s c sl (fun x => ∀ L < 32, lane x.val L = (sum 32).setWidth 128) ∧
    Claims.starts (.xlScanadd t) s c sl (fun x => ∀ L < 32, P.getLsbD L = true → lane x.val L = (sum (L + 1)).setWidth 128)

/-- The values of the cross-lane operations (R186 to R189). -/
def Obligations.CrossLaneValues : Prop :=
  Claims.CrossLaneMoves ∧ Claims.Reductions

/-! ### Floating and packed operations -/

/-- An elementwise operation: its result holds n elements of width w, which v gives by lane and element with their flags; the bits
above are zero, and the flags of the operation are those of the enabled lanes P together (R42, R119). -/
def Claims.elements (w n : Nat) (P : Mask) (v : Nat → Nat → Nat × BitVec 5) (x : InFlight) : Prop :=
  (∀ L < 32, (lane x.val L).toNat < 2 ^ (w * n) ∧ ∀ e < n, (Claims.el w (lane x.val L) e).toNat = (v L e).1 % 2 ^ w) ∧
  ∀ j < 5, x.flags.getLsbD j = true ↔ ∃ L < 32, P.getLsbD L = true ∧ ∃ e < n, (v L e).2.getLsbD j = true

/-- The elementwise float operations by their code: x of a, y of b and z of T, as bits of the format (R143 to R147). -/
def Claims.floatElement (op : Nat) (f : Fmt) (mode : RMode) (cond x y z : Nat) : Nat × BitVec 5 :=
  let v := decodeF f
  match op with
  | 0x00 => fadd f mode (v x) (v z)
  | 0x01 => fadd f mode (v x) (v z).neg
  | 0x02 => fmul f mode (v x) (v z)
  | 0x03 => ffma f mode (v x) (v y) (v z)
  | 0x04 => ffma f mode (v x) (v y) (v z).neg
  | 0x05 => ffma f mode (v x).neg (v y) (v z)
  | 0x06 => fminmax f false x z
  | 0x07 => fminmax f true x z
  | 0x08 => signOp true f z
  | 0x09 => signOp false f z
  | 0x0A => fcmpElem cond f x z
  | _ => frndElem mode f z

/-- The float operations on every element of every lane, in the rounding mode of the trigger, with their flags (R139, R143 to
R147). -/
def Claims.FloatElements : Prop :=
  ∀ (i : Instr) (op : Nat) (t : Trig) (s : State) (c sl k : Nat), trigOf i = some (.fv, op, t) → op < 0x0C → t.typ.toNat < 3 →
    Carried s c sl k t.src → moveLanes s c sl k ≠ 0 →
    let f := if t.typ = 0 then f32 else if t.typ = 1 then bf16 else f16
    let p := port (group s c sl) (UnitCls.fv.base + t.inst.toNat)
    let el (r : Row) (L e : Nat) : Nat := (Claims.el f.width (lane r L) e).toNat
    Claims.starts i s c sl (Claims.elements f.width (128 / f.width) (moveLanes s c sl k) (fun L e =>
      Claims.floatElement op f (rmodeOf (t.mod.extractLsb' 1 2)) t.mod.toNat (el p.a L e) (el p.b L e) (el (moveValue s c sl k) L e)))

/-- The magnitudes that a format would hold if its exponents had no upper end (R39). -/
def Claims.unbounded (f : Fmt) (y : ℝ) : Prop :=
  ∃ (k : Nat) (q : Int), k < 2 ^ (f.fbits + 1) ∧ 1 - f.bias - f.fbits ≤ q ∧ y = k * 2 ^ q

/-- y is the magnitude x of a number of one sign, rounded in a mode to the magnitudes of a set: the nearest, and of two as near the
even one; or the next one below or above (R38, R39). -/
def Claims.near (set : ℝ → Prop) (mode : RMode) (neg : Bool) (x y : ℝ) : Prop :=
  let below : Prop := y ≤ x ∧ ∀ z, set z → z ≤ x → z ≤ y
  let above : Prop := x ≤ y ∧ ∀ z, set z → x ≤ z → y ≤ z
  set y ∧
  match mode with
  | .rne => ∀ z, set z → |y - x| ≤ |z - x| ∧
      (|y - x| = |z - x| → z ≠ y → ∃ (k : Nat) (q : Int), |z - y| = 2 ^ q ∧ y = 2 * k * 2 ^ q)
  | .rz => below
  | .ru => if neg then below else above
  | .rd => if neg then above else below

/-- A result and its flags are Round of a number of magnitude x (R39): infinity or the largest number, with overflow and inexact, where
the rounded magnitude lies beyond the format; else that magnitude with the sign of x, inexact if it differs from x, and then underflow
if it is below the normal numbers. -/
def Claims.rounded (f : Fmt) (mode : RMode) (neg : Bool) (x : ℝ) (r : Nat × BitVec 5) : Prop :=
  ∃ y : ℝ, Claims.near (Claims.unbounded f) mode neg x y ∧
    (2 ^ (f.bias + 1) ≤ y →
      r = (if mode = .rne ∨ (mode = .ru ∧ neg = false) ∨ (mode = .rd ∧ neg = true) then f.inf neg else f.maxFin neg, fOF ||| fNX)) ∧
    (y < 2 ^ (f.bias + 1) →
      (∃ (m : Nat) (e : Int), decodeF f r.1 = .fin neg m e ∧ y = m * 2 ^ e) ∧ r.1 < 2 ^ f.width ∧
      r.2.getLsbD 0 = false ∧ r.2.getLsbD 1 = false ∧ r.2.getLsbD 2 = false ∧
      (r.2.getLsbD 4 = true ↔ y ≠ x) ∧ (r.2.getLsbD 3 = true ↔ y ≠ x ∧ y < 2 ^ (1 - f.bias)))

/-- Round (R39): to the nearest value in its mode; it depends on the number alone, and keeps a number of the format with no flag. A
number rounded to an integer is the nearest in the mode. -/
def Claims.Rounding : Prop :=
  (∀ f ∈ [f32, f16, bf16], ∀ (mode : RMode) (neg : Bool) (m : Nat) (e : Int),
    Claims.rounded f mode neg (m * 2 ^ e) (roundF f mode neg m e false)) ∧
  (∀ (f : Fmt) (mode : RMode) (neg : Bool) (m k : Nat) (e : Int), roundF f mode neg (m * 2 ^ k) (e - k) false = roundF f mode neg m e false) ∧
  (∀ f ∈ [f32, f16, bf16], ∀ (mode : RMode) (b m : Nat) (neg : Bool) (e : Int), b < 2 ^ f.width → decodeF f b = .fin neg m e →
    roundF f mode neg m e false = (b, 0)) ∧
  (∀ (mode : RMode) (neg : Bool) (m : Nat) (e : Int), ∃ k : Nat,
    Claims.near (fun y => ∃ n : Nat, y = n) mode neg (m * 2 ^ e) k ∧
    (roundInt mode neg m e).1 = (if neg then -(k : Int) else k) ∧ ((roundInt mode neg m e).2 = true ↔ (k : ℝ) ≠ m * 2 ^ e))

/-- Sums and products of finite numbers: the exact value, rounded once; a fused form rounds once after the sum; an exact zero takes its
sign by R37 (R37, R39, R143). -/
def Claims.ExactArithmetic : Prop :=
  ∀ f ∈ [f32, f16, bf16], ∀ (mode : RMode) (a b c : Bool) (m n l : Nat) (e q r : Int),
    let real (s : Bool) (m : Nat) (e : Int) : ℝ := (if s then -1 else 1) * m * 2 ^ e
    let x := real a m e
    let y := real b n q
    let z := real c l r
    (x + y ≠ 0 → ∀ neg : Bool, (neg = true ↔ x + y < 0) → Claims.rounded f mode neg |x + y| (fadd f mode (.fin a m e) (.fin b n q))) ∧
    (x + y = 0 → fadd f mode (.fin a m e) (.fin b n q) = (f.zero (if x = 0 ∧ a = b then a else mode == .rd), 0)) ∧
    Claims.rounded f mode (a != b) |x * y| (fmul f mode (.fin a m e) (.fin b n q)) ∧
    (x * y + z ≠ 0 → ∀ neg : Bool, (neg = true ↔ x * y + z < 0) →
      Claims.rounded f mode neg |x * y + z| (ffma f mode (.fin a m e) (.fin b n q) (.fin c l r))) ∧
    (x * y + z = 0 → ffma f mode (.fin a m e) (.fin b n q) (.fin c l r) =
      (f.zero (if x * y = 0 ∧ (a != b) = c then c else mode == .rd), 0))

/-- fcmp, frnd, fabs and fneg (R145 to R147): a mask of ones where the condition holds between the numbers, NaNs beside; the integer
nearest in the mode, with the operand's sign; the sign bit cleared or inverted; and a signalling NaN invalid, as any NaN is for an
order. -/
def Claims.FloatTests : Prop :=
  ∀ f ∈ [f32, f16, bf16], ∀ (x z : Nat), x < 2 ^ f.width → z < 2 ^ f.width →
    let v (b : Nat) : EReal := match decodeF f b with
      | .nan _ => 0
      | .inf n => if n then ⊥ else ⊤
      | .fin n m e => (((if n then -1 else 1) * m * 2 ^ e : ℝ) : EReal)
    let nan (b : Nat) : Prop := (decodeF f b).isNan = true
    let snan (b : Nat) : Prop := decodeF f b = .nan true
    let un : Prop := nan x ∨ nan z
    let cmp (cond : Nat) (holds : Prop) : Prop :=
      (holds → (fcmpElem cond f x z).1 = 2 ^ f.width - 1) ∧ (¬holds → (fcmpElem cond f x z).1 = 0) ∧
      (snan x ∨ snan z ∨ (2 ≤ cond ∧ cond ≤ 5 ∧ un) → (fcmpElem cond f x z).2 = fNV) ∧
      (¬(snan x ∨ snan z ∨ (2 ≤ cond ∧ cond ≤ 5 ∧ un)) → (fcmpElem cond f x z).2 = 0)
    cmp 0 (¬un ∧ v x = v z) ∧ cmp 1 (un ∨ v x ≠ v z) ∧ cmp 2 (¬un ∧ v x < v z) ∧ cmp 3 (¬un ∧ v x ≤ v z) ∧
    cmp 4 (¬un ∧ v z < v x) ∧ cmp 5 (¬un ∧ v z ≤ v x) ∧ cmp 6 un ∧ cmp 7 (¬un) ∧
    (∀ abs mode, nan z → (signOp abs f z).1 = f.qnan ∧ (frndElem mode f z).1 = f.qnan ∧
      (snan z → (signOp abs f z).2 = fNV ∧ (frndElem mode f z).2 = fNV) ∧
      (¬snan z → (signOp abs f z).2 = 0 ∧ (frndElem mode f z).2 = 0)) ∧
    (¬nan z → ∀ abs, (signOp abs f z).2 = 0 ∧ ∀ j, (signOp abs f z).1.testBit j =
      if j + 1 = f.width then !abs && !z.testBit j else z.testBit j) ∧
    (∀ mode, (∀ n, decodeF f z = .inf n → frndElem mode f z = (z, 0)) ∧
      (∀ n m e, decodeF f z = .fin n m e → (frndElem mode f z).2 = 0 ∧ ∃ (k m' : Nat) (e' : Int),
        Claims.near (fun y => ∃ i : Nat, y = i) mode n (m * 2 ^ e) k ∧
        decodeF f (frndElem mode f z).1 = .fin n m' e' ∧ (m' * 2 ^ e' : ℝ) = k))

/-- What sums and products give beside the rounding of their exact value: the canonical NaN and invalid, the infinities, and the sign
of a zero sum (R37, R143). -/
def Claims.SpecialSums : Prop :=
  ∀ (f : Fmt) (mode : RMode) (x y z : FVal),
    (x.isNan = true ∨ y.isNan = true → fadd f mode x y = (f.qnan, if x = .nan true ∨ y = .nan true then fNV else 0) ∧
      fmul f mode x y = (f.qnan, if x = .nan true ∨ y = .nan true then fNV else 0)) ∧
    (∀ n, fadd f mode (.inf n) (.inf (!n)) = (f.qnan, fNV)) ∧
    (∀ n a e, fmul f mode (.inf n) (.fin a 0 e) = (f.qnan, fNV) ∧ fmul f mode (.fin a 0 e) (.inf n) = (f.qnan, fNV) ∧
      ffma f mode (.inf n) (.fin a 0 e) z = (f.qnan, fNV) ∧ ffma f mode (.fin a 0 e) (.inf n) z = (f.qnan, fNV)) ∧
    (∀ n a e, fadd f mode (.inf n) (.fin a 1 e) = (f.inf n, 0) ∧ fmul f mode (.inf n) (.fin a 1 e) = (f.inf (n != a), 0)) ∧
    (∀ n a m e e', fadd f mode (.fin n 0 e) (.fin n 0 e') = (f.zero n, 0) ∧
      fadd f mode (.fin n 0 e) (.fin (!n) 0 e') = (f.zero (mode == .rd), 0) ∧
      (m ≠ 0 → fadd f mode (.fin a m e) (.fin (!a) m e) = (f.zero (mode == .rd), 0)))

/-- The order of floats: the smaller of two elements and the larger, with −0 below +0, a number before a NaN (R144). -/
def Claims.FloatOrder : Prop :=
  ∀ f ∈ [f32, f16, bf16], ∀ (x y : Nat), x < 2 ^ f.width → y < 2 ^ f.width →
    let nan (b : Nat) : Prop := (decodeF f b).isNan = true
    (nan x → nan y → (fminmax f false x y).1 = f.qnan ∧ (fminmax f true x y).1 = f.qnan) ∧
    (nan x → ¬nan y → (fminmax f false x y).1 = y ∧ (fminmax f true x y).1 = y) ∧
    (¬nan x → nan y → (fminmax f false x y).1 = x ∧ (fminmax f true x y).1 = x) ∧
    (¬nan x → ¬nan y →
      (fminmax f false x y).1 = (if f.key x ≤ f.key y then x else y) ∧ (fminmax f true x y).1 = (if f.key x ≤ f.key y then y else x) ∧
      (flt (decodeF f x) (decodeF f y) = true → f.key x < f.key y))

/-- The packed integer operations: exact values, kept to the element or saturated to it, with no flag; c32x2 acts on its parts
(R148). -/
def Claims.PackedIntegers : Prop :=
  ∀ (i : Instr) (op : Nat) (t : Trig) (s : State) (c sl k : Nat), trigOf i = some (.fv, op, t) → 0x10 ≤ op → op < 0x16 →
    3 ≤ t.typ.toNat → t.typ.toNat < 7 → Carried s c sl k t.src → moveLanes s c sl k ≠ 0 →
    let w := if t.typ = 4 then 16 else if t.typ = 5 then 8 else 32
    let p := port (group s c sl) (UnitCls.fv.base + t.inst.toNat)
    let el (r : Row) (L e : Nat) : Int := (Claims.el w (lane r L) e).toInt
    Claims.starts i s c sl (Claims.elements w (128 / w) (moveLanes s c sl k) (fun L e =>
      let x := el p.a L e
      let z := el (moveValue s c sl k) L e
      let v := if op = 0x10 then x + z else if op = 0x11 then x - z else if op = 0x12 then x * z
        else if op = 0x13 then x * el p.b L e + z else if op = 0x14 then min x z else max x z
      ((Claims.narrow (t.mod.getLsbD 0 && decide (op < 0x14)) true w v).toNat, 0)))

/-- The operations on whole slices: and, or, xor, vsel by the elements of the type, pack, unpack, the byte table of bshuf and movv
(R149, R153). -/
def Claims.SliceOperations : Prop :=
  ∀ (t : Trig) (s : State) (c sl k : Nat), t.typ.toNat < 7 → Carried s c sl k t.src → moveLanes s c sl k ≠ 0 →
    let p := port (group s c sl) (UnitCls.fv.base + t.inst.toNat)
    let T := moveValue s c sl k
    let gives (i : Instr) (v : Nat → Slice → Prop) : Prop :=
      Claims.starts i s c sl (fun x => x.flags = 0 ∧ ∀ L < 32, v L (lane x.val L))
    let w := if t.typ = 6 then 64 else if t.typ = 0 ∨ t.typ = 3 then 32 else if t.typ = 5 then 8 else 16
    gives (.fvVand t) (fun L v => v = lane p.a L &&& lane T L) ∧
    gives (.fvVor t) (fun L v => v = lane p.a L ||| lane T L) ∧
    gives (.fvVxor t) (fun L v => v = lane p.a L ^^^ lane T L) ∧
    gives (.fvVsel t) (fun L v => ∀ e < 128 / w, Claims.el w v e =
      if Claims.el w (lane T L) e = 0 then Claims.el w (lane p.b L) e else Claims.el w (lane p.a L) e) ∧
    gives (.fvPack t) (fun L v => v.extractLsb' 0 64 = (lane p.a L).extractLsb' 0 64 ∧ v.extractLsb' 64 64 = (lane T L).extractLsb' 0 64) ∧
    gives (.fvUnpack t) (fun L v => v = ((lane T L).extractLsb' 64 64).setWidth 128) ∧
    gives (.fvBshuf t) (fun L v => ∀ e < 16,
      let x := Claims.el 8 (lane T L) e
      Claims.el 8 v e = if x.msb then 0 else if x.getLsbD 4 then Claims.el 8 (lane p.b L) (x.toNat % 16)
        else Claims.el 8 (lane p.a L) (x.toNat % 16)) ∧
    gives (.fvMovv t) (fun L v => v = lane T L)

/-- cmul, cmac, dot4 and hsum: the exact sum of the products and the addend, rounded once under a float type, kept to 32 bits or
saturated under an integer type (R150 to R152). Infinities of both signs beside a quiet NaN: the model's choice, log 52. -/
def Claims.Products : Prop :=
  ∀ (t : Trig) (s : State) (c sl k : Nat), Carried s c sl k t.src → moveLanes s c sl k ≠ 0 →
    let P := moveLanes s c sl k
    let p := port (group s c sl) (UnitCls.fv.base + t.inst.toNat)
    let T := moveValue s c sl k
    let n (r : Row) (L e : Nat) : Nat := (Claims.el 32 (lane r L) e).toNat
    let v (w : Nat) (r : Row) (L e : Nat) : Int := (Claims.el w (lane r L) e).toInt
    let mul (r r' : Row) (L e e' : Nat) : FVal × BitVec 5 := fprod (decodeF f32 (n r L e)) (decodeF f32 (n r' L e'))
    let minus (p : FVal × BitVec 5) : FVal × BitVec 5 := (p.1.neg, p.2)
    let plus (f : Fmt) (b : Nat) : FVal × BitVec 5 := (decodeF f b, if decodeF f b = .nan true then fNV else 0)
    let sum := fsum f32 (rmodeOf (t.mod.extractLsb' 1 2))
    let keep (x : Int) : Nat × BitVec 5 := ((Claims.narrow (t.mod.getLsbD 0) true 32 x).toNat, 0)
    let part (r r' : Row) (L e : Nat) : List (FVal × BitVec 5) :=
      if e % 2 = 0 then [mul r r' L e e, minus (mul r r' L (e + 1) (e + 1))] else [mul r r' L (e - 1) e, mul r r' L e (e - 1)]
    let partI (r r' : Row) (L e : Nat) : Int :=
      if e % 2 = 0 then v 32 r L e * v 32 r' L e - v 32 r L (e + 1) * v 32 r' L (e + 1)
      else v 32 r L (e - 1) * v 32 r' L e + v 32 r L e * v 32 r' L (e - 1)
    let words (i : Instr) (f : Nat → Nat → Nat × BitVec 5) : Prop := Claims.starts i s c sl (Claims.elements 32 4 P f)
    let one (i : Instr) (f : Nat → Nat × BitVec 5) : Prop := Claims.starts i s c sl (Claims.elements 32 1 P (fun L _ => f L))
    (t.typ = 0 → words (.fvCmul t) (fun L e => sum (part p.a T L e)) ∧
      words (.fvCmac t) (fun L e => sum (part p.a p.b L e ++ [plus f32 (n T L e)])) ∧
      one (.fvDot4 t) (fun L => sum ((List.range 4).map (fun m => mul p.a p.b L m m) ++ [plus f32 (n T L 0)]))) ∧
    (t.typ = 6 → words (.fvCmul t) (fun L e => keep (partI p.a T L e)) ∧
      words (.fvCmac t) (fun L e => keep (partI p.a p.b L e + v 32 T L e))) ∧
    (t.typ = 5 → words (.fvDot4 t) (fun L e => keep (v 32 T L e +
      ((List.range 4).map (fun m => v 8 p.a L (4 * e + m) * v 8 p.b L (4 * e + m))).sum))) ∧
    (t.typ.toNat < 3 →
      let f := if t.typ = 0 then f32 else if t.typ = 1 then bf16 else f16
      let xs (L : Nat) : List FVal := (List.range (128 / f.width)).map (fun e => decodeF f (Claims.el f.width (lane T L) e).toNat)
      one (.fvHsum t) (fun L =>
        let r := sum ((xs L).map (fun x => (x, if x = .nan true then fNV else 0)))
        (r.1, if .inf true ∈ xs L ∧ .inf false ∈ xs L then r.2 ||| fNV else r.2))) ∧
    (3 ≤ t.typ.toNat → t.typ.toNat < 6 →
      let w := if t.typ = 3 then 32 else if t.typ = 4 then 16 else 8
      one (.fvHsum t) (fun L => keep ((List.range (128 / w)).map (fun e => v w T L e)).sum))

/-- An exact sum of finite terms is rounded as one number, over any common unit (R143, R150, R151). -/
def Claims.ExactSums : Prop :=
  ∀ (f : Fmt) (mode : RMode) (q : Int) (ts : List (Bool × Nat × Int)), (∀ x ∈ ts, q ≤ x.2.2) →
    let total : Int := (ts.map (fun x => (if x.1 then -(x.2.1 : Int) else x.2.1) * 2 ^ (x.2.2 - q).toNat)).sum
    total ≠ 0 → fsum f mode (ts.map (fun x => (FVal.fin x.1 x.2.1 x.2.2, 0))) = roundF f mode (decide (total < 0)) total.natAbs q false

/-- A value brought to a real format (R40, R157): a float by Round; an integer to the nearest in the mode, saturated, NaN to 0. -/
def Claims.brought (g : NumFmt) (w : Nat) (mode : RMode) (v : FVal) : Nat × BitVec 5 :=
  match g.float?, v with
  | some f, .nan q => (f.qnan, if q then fNV else 0)
  | some f, .inf n => (f.inf n, 0)
  | some f, .fin n m e => roundF f mode n m e false
  | none, .nan _ => (0, fNV)
  | none, .inf n => ((Claims.narrow true g.signed w (if n then -(2 ^ w) else 2 ^ w)).toNat, fNV)
  | none, .fin n m e =>
    let r := roundInt mode n m e
    let b := Claims.narrow true g.signed w r.1
    (b.toNat, if (if g.signed then b.toInt else (b.toNat : Int)) ≠ r.1 then fNV else if r.2 then fNX else 0)

/-- One element of a conversion without blocks (R157): integers to integers saturate without a flag, which includes the widening of a
negative number to an unsigned type (log 52). -/
def Claims.converted (f g : NumFmt) (w w' : Nat) (mode : RMode) (b : Nat) : Nat × BitVec 5 :=
  let v : Int := if f.signed then (BitVec.ofNat w b).toInt else (BitVec.ofNat w b).toNat
  match f.float?, g.float? with
  | some h, _ => Claims.brought g w' mode (decodeF h b)
  | none, some _ => Claims.brought g w' mode (.fin (decide (v < 0)) v.natAbs 0)
  | none, none => ((Claims.narrow true g.signed w' v).toNat, 0)

/-- The parts of a complex format: its real format and width; f32 pairs are complex here (R155, R156). -/
def Claims.parts (f : NumFmt) : NumFmt × Nat :=
  if f = .c4 then (.i8, 4) else if f = .c8 then (.i8, 8) else if f = .ci32 then (.i32, 32) else (f, 32)

/-- cvt (R154 to R159). The source is the type's, or under ext that of b in the lowest enabled lane. Without blocks every element, or
part of a complex one, is converted on its own. Into blocks, all lanes give the scale entry of their block beside their codes: the
smallest exponent under which every code fits, or 0xFF for a NaN block, where the codes are 0. From blocks every lane uses its own
scale entry. That a b4 code fits up to the bound 14, and that a small negative element which rounds to zero gets the code 0, are the
model's (log 22). -/
def Claims.Conversions : Prop :=
  ∀ (i : Instr) (op : Nat) (t : Trig) (s : State) (c sl k : Nat) (src : NumFmt), trigOf i = some (.fv, op, t) → 0x30 ≤ op → op < 0x3F →
    Carried s c sl k t.src → moveLanes s c sl k ≠ 0 →
    let P := moveLanes s c sl k
    let p := port (group s c sl) (UnitCls.fv.base + t.inst.toNat)
    let T := moveValue s c sl k
    let dst := cvtDest op
    let mode := rmodeOf (t.mod.extractLsb' 1 2)
    cvtSource t.typ.toNat ((uniform P p.b).toNat % 16) = some src → cvtPair src dst = true →
    (src.kind = .real → dst.kind = .real →
      Claims.starts i s c sl (Claims.elements dst.width (128 / max src.width dst.width) P (fun L e =>
        Claims.converted src dst src.width dst.width mode (Claims.el src.width (lane T L) e).toNat))) ∧
    (src.kind = .complex ∨ dst.kind = .complex →
      let a := Claims.parts src
      let b := Claims.parts dst
      Claims.starts i s c sl (Claims.elements b.2 (2 * (128 / max (2 * a.2) (2 * b.2))) P (fun L e =>
        Claims.converted a.1 b.1 a.2 b.2 mode (Claims.el a.2 (lane T L) e).toNat))) ∧
    (dst.kind = .block →
      let n := 128 / src.width
      let z (x : Nat) : FVal := if P.getLsbD (x / n) then realVal src (Claims.el src.width (lane T (x / n)) (x % n)).toNat else .fin false 0 0
      let fits (blk E : Nat) : Prop := ∀ j < 16, ∀ a m e, z (16 * blk + j) = .fin a m e →
        (nearCode dst a m (e + 127 - E)).2 ≤ codeMax dst
      let isNan (blk : Nat) : Prop := ∃ j < 16, ∀ a m e, z (16 * blk + j) ≠ .fin a m e
      let exact (E x : Nat) : Prop := ∀ a m e, z x = .fin a m e → ∀ a' m' e',
        blockVal dst E (nearCode dst a m (e + 127 - E)).1 (x % 16) = some (a', m', e') →
        (dyadicAdd (signed a m) e (-(signed a' m')) e').1 = 0
      ∃ E : Nat → Nat,
        (∀ blk, (isNan blk → E blk = 255) ∧ (¬isNan blk → E blk < 255 ∧ (E blk = 254 ∨ fits blk (E blk)) ∧ ∀ F < E blk, ¬fits blk F)) ∧
        Claims.starts i s c sl (fun x =>
          (∀ L < 32, (lane x.val L).toNat / 2 ^ 112 = E (L * n / 16) ∧ (lane x.val L).toNat % 2 ^ 112 < 2 ^ (dst.width * n) ∧
            ∀ e < n, (isNan (L * n / 16) → Claims.el dst.width (lane x.val L) e = 0) ∧
              (¬isNan (L * n / 16) → ∀ a m q, z (L * n + e) = .fin a m q →
                (Claims.el dst.width (lane x.val L) e).toNat = (nearCode dst a m (q + 127 - E (L * n / 16))).1 % 2 ^ dst.width)) ∧
          (∀ j < 5, x.flags.getLsbD j = true ↔ ∃ L < 32, P.getLsbD L = true ∧ ∃ e < n,
            (j = 0 ∧ ((∃ a, z (L * n + e) = .inf a) ∨ z (L * n + e) = .nan true)) ∨
            (j = 4 ∧ ¬isNan (L * n / 16) ∧ ¬exact (E (L * n / 16)) (L * n + e))))) ∧
    (src.kind = .block →
      let n := 128 / dst.width
      Claims.starts i s c sl (Claims.elements dst.width n P (fun L e => Claims.brought dst dst.width mode
        (match blockVal src (Claims.el 16 (lane T L) 7).toNat (Claims.el src.width (lane T L) e).toNat ((L * n + e) % 16) with
          | some (a, m, q) => .fin a m q
          | none => .nan true))))

/-- The values and the flags of the fv operations (R143 to R159). -/
def Obligations.VectorValues : Prop :=
  Claims.FloatElements ∧ Claims.Rounding ∧ Claims.ExactArithmetic ∧ Claims.FloatTests ∧ Claims.SpecialSums ∧ Claims.FloatOrder ∧ Claims.PackedIntegers ∧ Claims.SliceOperations ∧
  Claims.Products ∧ Claims.ExactSums ∧ Claims.Conversions

/-- The f32 result of a function of code fn at an operand that R164 lists, by its bits in f32: the infinities, the zeros and, for log2,
ln, rsqrt and sqrt, every negative number. -/
def Claims.listed (fn : Nat) (x : FVal) : Option (Nat × BitVec 5) :=
  let one := 0x3F800000
  let inf := 0x7F800000
  let minus := 0x80000000
  let invalid : Nat × BitVec 5 := (0x7FC00000, 1)
  match x with
  | .nan q => some (0x7FC00000, if q then 1 else 0)
  | .inf true => some (if fn ∈ [0, 1, 10] then (0, 0) else if fn = 4 then (minus, 0) else if fn ∈ [9, 11] then (minus + one, 0) else invalid)
  | .inf false => some (if fn ∈ [0, 1, 2, 3, 6] then (inf, 0) else if fn ∈ [4, 5] then (0, 0) else if fn ∈ [9, 10, 11] then (one, 0)
      else invalid)
  | .fin n m _ =>
    let sign : Nat := if n then minus else 0
    if m = 0 then some (if fn ∈ [0, 1, 8] then (one, 0) else if fn ∈ [2, 3] then (minus + inf, 2) else if fn ∈ [4, 5] then (sign + inf, 2)
      else if fn = 10 then (0x3F000000, 0) else (sign, 0))
    else if n = true ∧ fn ∈ [2, 3, 5, 6] then some invalid else none

/-- The number that an exact point of R164 gives, as a signed magnitude and a power of two: exp2 of a whole number, log2, rcp and rsqrt of
powers of two, ln of 1. -/
def Claims.exactAt (fn : Nat) (x : FVal) (r : Bool × Nat × Int) : Prop :=
  (∃ a : Int, fn = 0 ∧ -149 ≤ a ∧ a ≤ 127 ∧ x = .fin (decide (a < 0)) a.natAbs 0 ∧ r = (false, 1, a)) ∨
  (∃ a : Int, fn = 2 ∧ x = .fin false 1 a ∧ r = (decide (a < 0), a.natAbs, 0)) ∨
  (fn = 3 ∧ x = .fin false 1 0 ∧ r = (false, 0, 0)) ∨
  (∃ (n : Bool) (a : Int), fn = 4 ∧ -149 ≤ a ∧ a ≤ 127 ∧ x = .fin n 1 (-a) ∧ r = (n, 1, a)) ∨
  (∃ a : Int, fn = 5 ∧ -74 ≤ a ∧ a ≤ 63 ∧ x = .fin false 1 (2 * a) ∧ r = (false, 1, -a))

/-- The elementwise functions: a fixed function of the operand's bits, the type and the function (R167), in every lane the same; at a
listed operand the listed result with its flag, at an exact point the exact number, rounded to the type, with the flags of that rounding
alone and under f32 none (R163, R164); elsewhere inexact, with overflow when the result is infinite, and with underflow when it is
subnormal or zero; sqrt is rounded once from the exact root. That a listed infinite result at ±0 raises divide-by-zero alone, that the
segment results outside the bounds are inexact too, and the rest that R163 leaves open are the model's, log 6. -/
def Claims.Functions : Prop :=
  ∀ (op : Nat) (typ : BitVec 3), op < 12 → typ.toNat < 3 →
    let f := if typ = 0 then f32 else if typ = 1 then bf16 else f16
    ∃ value : RMode → Nat → Nat × BitVec 5,
      (∀ (i : Instr) (t : Trig) (s : State) (c sl k : Nat), trigOf i = some (.sf, op, t) → t.typ = typ →
        Carried s c sl k t.src → moveLanes s c sl k ≠ 0 →
        Claims.starts i s c sl (Claims.elements f.width (128 / f.width) (moveLanes s c sl k)
          (fun L e => value (rmodeOf (t.mod.extractLsb' 1 2)) (Claims.el f.width (lane (moveValue s c sl k) L) e).toNat))) ∧
      (op ≠ 6 → ∀ mode, value mode = value .rne) ∧
      ∀ (mode : RMode), ∀ b < 2 ^ f.width,
        let v := value mode
        let narrowed (r : Nat) : Nat × BitVec 5 := match decodeF f32 r with
          | .nan _ => (f.qnan, 0) | .inf n => (f.inf n, 0) | .fin n m e => roundF f .rne n m e false
        (∀ r fl, Claims.listed op (decodeF f b) = some (r, fl) → v b = ((narrowed r).1, fl)) ∧
        (∀ n m e, decodeF f b = .fin n m e → Claims.listed op (decodeF f b) = none →
          (op = 6 → Claims.rounded f mode false (Real.sqrt (m * 2 ^ e)) (v b)) ∧
          (∀ (m' j : Nat) (e' : Int) (r : Bool × Nat × Int), m = m' * 2 ^ j → e = e' - j → Claims.exactAt op (.fin n m' e') r →
            v b = roundF f .rne r.1 r.2.1 r.2.2 false ∧ (typ = 0 → (v b).2 = 0)) ∧
          (op ≠ 6 → (∀ (m' j : Nat) (e' : Int) r, m = m' * 2 ^ j → e = e' - j → ¬Claims.exactAt op (.fin n m' e') r) →
            (v b).2.getLsbD 0 = false ∧ (v b).2.getLsbD 1 = false ∧ (v b).2.getLsbD 4 = true ∧
            ((v b).2.getLsbD 2 = true ↔ ∃ a, decodeF f (v b).1 = .inf a) ∧
            ((v b).2.getLsbD 3 = true ↔ ∃ a q z, decodeF f (v b).1 = .fin a q z ∧ q < 2 ^ f.fbits)))

/-- The row operations (R168 to R173): rmax, rexp with its sum, its sticky EMPTYROW and the b it writes, rdiv by the b of the lowest
enabled lane, and the mean square rmsq, each sum in the order of the lanes and their elements. -/
def Claims.RowOperations : Prop :=
  ∀ (t : Trig) (s : State) (c sl k : Nat), Carried s c sl k t.src → moveLanes s c sl k ≠ 0 → t.inst = 0 →
    let P := moveLanes s c sl k
    let p := port (group s c sl) UnitCls.sf.base
    let T := moveValue s c sl k
    let el (L e : Nat) : Nat := (Claims.el 32 (lane T L) e).toNat
    let row : List Nat := ((List.range 32).filter (fun L => P.getLsbD L)).flatMap (fun L => (List.range 4).map (el L))
    let nan (b : Nat) : Bool := (decodeF f32 b).isNan
    let snan (bs : List Nat) : Prop := ∃ b ∈ bs, decodeF f32 b = .nan true
    let qnan := 0x7FC00000
    let add (r : Nat) (x : Nat) : Nat := (fadd f32 .rne (decodeF f32 r) (decodeF f32 x)).1
    let all (v : Nat) (x : InFlight) : Prop := ∀ L < 32, ∀ e < 4, (Claims.el 32 (lane x.val L) e).toNat = v
    Claims.starts (.sfRmax t) s c sl (fun x =>
      ((∃ b ∈ row, nan b = true) → all qnan x) ∧
      (∀ b ∈ row, (∀ y ∈ row, nan y = false ∧ f32.key y ≤ f32.key b) → all b x) ∧
      (snan row → x.flags = fNV) ∧ (¬snan row → x.flags = 0)) ∧
    (let m := ((uniform P p.a).toNat) % 2 ^ 32
     ∃ v : Nat → Nat,
      (∀ b, (nan b = true ∨ nan m = true → v b = qnan) ∧ (b = 0x7F800000 → m = 0x7F800000 → v b = 0x3F800000) ∧
        (b = 0xFF800000 → nan m = false → v b = 0) ∧
        (nan b = false → nan m = false → b ≠ 0xFF800000 → ¬(b = 0x7F800000 ∧ m = 0x7F800000) →
          v b = (sfElem .exp 0 .rne (fadd f32 .rne (decodeF f32 b) (decodeF f32 m).neg).1).1)) ∧
      let w (b : Nat) : Nat := if ∃ y ∈ row, nan (v y) = true then qnan else v b
      Claims.starts (.sfRexp t) s c sl (fun x =>
        (∀ L < 32, P.getLsbD L = true → ∀ e < 4, (Claims.el 32 (lane x.val L) e).toNat = w (el L e)) ∧
        (∃ r, x.bval = some r ∧ ∀ L < 32, (lane r L).toNat % 2 ^ 32 = (row.map w).foldl add 0 ∧ (lane r L).toNat < 2 ^ 33 ∧
          ((lane r L).getLsbD 32 = true ↔ (lane p.b L).getLsbD 32 = true ∨ ∀ b ∈ row, b = 0xFF800000)) ∧
        (snan (m :: row) → x.flags.getLsbD 0 = true))) ∧
    (let d := ((uniform P p.b).toNat) % 2 ^ 32
     Claims.starts (.sfRdiv t) s c sl (Claims.elements 32 4 P (fun L e =>
      let b := el L e
      if nan b = true ∨ nan d = true then (qnan, if decodeF f32 b = .nan true ∨ decodeF f32 d = .nan true then fNV else 0)
      else if d % 2 ^ 31 = 0 then
        if b % 2 ^ 31 = 0 then (0, 0) else ((if b < 2 ^ 31 then 0x7F800000 else 0xFF800000), fDZ)
      else fdiv f32 (rmodeOf (t.mod.extractLsb' 1 2)) (decodeF f32 b) (decodeF f32 d)))) ∧
    Claims.starts (.sfRmsq t) s c sl (fun x =>
      let sq (r b : Nat) : Nat := (ffma f32 .rne (decodeF f32 b) (decodeF f32 b) (decodeF f32 r)).1
      all ((fdiv f32 .rne (decodeF f32 (row.foldl sq 0)) (.fin false row.length 0)).1) x)

/-- A quotient of finite numbers is the exact one, rounded once (R37, R39, R172). -/
def Claims.Quotients : Prop :=
  ∀ f ∈ [f32, f16, bf16], ∀ (mode : RMode) (a b : Bool) (m n : Nat) (e q : Int), n ≠ 0 →
    Claims.rounded f mode (a != b) (m * 2 ^ e / (n * 2 ^ q)) (fdiv f mode (.fin a m e) (.fin b n q))

/-- The values and the flags of the sf operations (R163 to R173). -/
def Obligations.SpecialFunctionValues : Prop :=
  Claims.Functions ∧ Claims.RowOperations ∧ Claims.Quotients

/-- The exact value of a function by its code (R161). -/
def Claims.exactValue (op : Nat) (x y : ℝ) : Prop :=
  match op with
  | 0 => y = 2 ^ x
  | 1 => y = Real.exp x
  | 2 => y = Real.logb 2 x
  | 3 => y = Real.log x
  | 4 => y = x⁻¹
  | 5 => y = (Real.sqrt x)⁻¹
  | 6 => y = Real.sqrt x
  | 7 => y = Real.sin x
  | 8 => y = Real.cos x
  | 9 => y = Real.tanh x
  | 10 => y = (1 + Real.exp (-x))⁻¹
  | _ => y = 2 / Real.sqrt Real.pi * ∫ t in (0 : ℝ)..x, Real.exp (-t ^ 2)

/-- The error that the table of R167 allows an f32 result at x against the exact y, where u is an ulp of a number. -/
def Claims.bound (op : Nat) (x y : ℝ) (ulp : ℝ → ℝ) (b : ℝ) : Prop :=
  let near1 : Prop := 3 / 4 ≤ x ∧ x < 3 / 2
  let small : ℝ := 2 ^ (-149 : Int)
  match op with
  | 0 => (-126 ≤ x ∧ x < 128 ∧ b = ulp y) ∨ (-150 ≤ x ∧ x < -126 ∧ b = small)
  | 1 => (-8733 / 100 ≤ x ∧ x ≤ 8872 / 100 ∧ b = 2 * ulp y) ∨ (-10397 / 100 ≤ x ∧ x < -8733 / 100 ∧ b = small)
  | 2 => 0 < x ∧ ((near1 ∧ b = 2 ^ (-24 : Int)) ∨ (¬near1 ∧ b = ulp y))
  | 3 => 0 < x ∧ ((near1 ∧ b = 2 ^ (-24 : Int)) ∨ (¬near1 ∧ b = 2 * ulp y))
  | 4 => x ≠ 0 ∧ b = ulp y
  | 5 => 0 < x ∧ b = ulp y
  | 6 => False
  | 7 => (2 ^ (-6 : Int) ≤ |y| ∧ b = 2 * ulp y) ∨ (|y| < 2 ^ (-6 : Int) ∧ b = 2 ^ (-30 : Int))
  | 8 => (2 ^ (-6 : Int) ≤ |y| ∧ b = 2 * ulp y) ∨ (|y| < 2 ^ (-6 : Int) ∧ b = 2 ^ (-30 : Int))
  | _ => (2 ^ (-126 : Int) ≤ |y| ∧ b = 2 * ulp y) ∨ (|y| < 2 ^ (-126 : Int) ∧ b = small)

/-- What R166 and R167 promise of the elementwise functions. A result follows the order of the operands, falling for rsqrt, under every
type. An f32 result that is finite lies within its bound of the exact value, and a 16-bit one within an ulp of its type wherever the
table states a bound; a result is infinite only where the exact value is beyond the type. -/
def Obligations.SpecialFunctionLimits : Prop :=
  ∀ (op : Nat) (i : Instr) (t : Trig) (s : State) (c sl k : Nat), trigOf i = some (.sf, op, t) → op < 12 → t.typ.toNat < 3 →
    Carried s c sl k t.src → moveLanes s c sl k ≠ 0 →
    let f := if t.typ = 0 then f32 else if t.typ = 1 then bf16 else f16
    let real (n : Bool) (m : Nat) (e : Int) : ℝ := (if n then -1 else 1) * m * 2 ^ e
    let ext (b : Nat) : EReal := match decodeF f b with
      | .nan _ => 0
      | .inf n => if n then ⊥ else ⊤
      | .fin n m e => (real n m e : EReal)
    let nan (b : Nat) : Prop := (decodeF f b).isNan = true
    let el (r : Row) (L e : Nat) : Nat := (Claims.el f.width (lane r L) e).toNat
    let ulpOf (h : Fmt) (y : ℝ) : ℝ := max (2 ^ (Int.log 2 |y| - h.fbits)) (2 ^ (1 - h.bias - h.fbits))
    Claims.starts i s c sl (fun x =>
      let o (L e : Nat) : Nat := el (moveValue s c sl k) L e
      let v (L e : Nat) : Nat := el x.val L e
      (∀ L < 32, ∀ M < 32, ∀ e < 128 / f.width, ∀ g < 128 / f.width, ¬nan (v L e) → ¬nan (v M g) → ext (o L e) ≤ ext (o M g) →
        (op ∈ [0, 1, 2, 3, 6, 9, 10, 11] → ext (v L e) ≤ ext (v M g)) ∧
        (op = 5 → 0 < ext (o L e) → ext (v M g) ≤ ext (v L e))) ∧
      ∀ L < 32, ∀ e < 128 / f.width, ∀ n m q (y b : ℝ), decodeF f (o L e) = .fin n m q → m ≠ 0 →
        Claims.exactValue op (real n m q) y → Claims.bound op (real n m q) y (ulpOf f32) b →
        (∀ n' m' q', decodeF f (v L e) = .fin n' m' q' → |real n' m' q' - y| ≤ if t.typ = 0 then b else ulpOf f y) ∧
        (∀ a, decodeF f (v L e) = .inf a → 2 ^ (f.bias + 1) - 2 ^ (f.bias - f.fbits - 1) ≤ |y| + b))

/-- The result of the operation that is due is written to the r port of its unit in its lanes, at the end of its cycle;
the other lanes keep their value. Of two results of a unit due in one cycle the one triggered earlier is never seen (R77, R78). The
b of rexp is written in the same lanes (R171). The flags are set in FPSTAT for the slot of the trigger, and FEREC, while its V is 0,
records the lowest of them with the slot and the bundle (R41 to R43). -/
def Obligations.FixedLatencyResultIsWritten : Prop :=
  ∀ (s : State) (c sl : Nat) (x : InFlight), selAt s 0 = c → selAt s 1 = sl →
    nextResult (group s c sl) = some x → x.due ≤ cycleOf s c → issueOver s c = true →
    wrsysDue (group s c sl) (cycleOf s c) = false →
    let p := portOf (group s c sl) x.hand x.unit
    let old := (group s c sl).ferec
    ∃ (r b : Row) (ferec : BitVec 64),
      exec .fixedLatencyResultWrite s = .next (modCore (modGroup s c sl (fun g =>
        { setPort { g with pipe := g.pipe.erase x } x.hand x.unit { portOf g x.hand x.unit with r := r, b := b } with
          fpstat := g.fpstat ||| x.flags.setWidth 32 <<< (5 * x.slot), ferec := ferec })) c
          (fun q => { q with closed := true })) ∧
      (∀ L < 32, lane r L = if x.lanes.getLsbD L ∧ outwritten (group s c sl) x = false then lane x.val L else lane p.r L) ∧
      (x.bval = none → b = p.b) ∧
      (∀ v, x.bval = some v → ∀ L < 32, lane b L = if x.lanes.getLsbD L then lane v L else lane p.b L) ∧
      (x.flags = 0 ∨ old.getLsbD 63 = true → ferec = old) ∧
      (∀ n < 5, x.flags.getLsbD n = true → (∀ m < n, x.flags.getLsbD m = false) → old.getLsbD 63 = false →
        ferec = 1#1 ++ 0#10 ++ BitVec.ofNat 3 x.slot ++ BitVec.ofNat 3 n ++ x.addr)

/-! ### Control -/

/-- What a br trigger makes its bundle do at its end; the program counter itself moves there (R174 to R183). V is the trigger
value of the lowest enabled lane. -/
def Obligations.BranchActions : Prop :=
  ∀ (s : State) (c sl k : Nat) (t : Trig), Carried s c sl k t.src → moveLanes s c sl k ≠ 0 → t.inst = 0 →
    let V : BitVec 32 := (uniform (moveLanes s c sl k) (moveValue s c sl k)).setWidth 32
    let target : BAddr := if t.typ = 0 then (group s c sl).bun.addr + V.signExtend 47
      else (group s c sl).bun.addr.extractLsb' 32 15 ++ V
    let cond (L : Nat) : Bool := (lane (port (group s c sl) 19).a L).setWidth 32 != (0 : BitVec 32)
    let some_ : Prop := ∃ L < 32, (moveLanes s c sl k).getLsbD L = true ∧ cond L = true
    let all : Prop := ∀ L < 32, (moveLanes s c sl k).getLsbD L = true → cond L = true
    let sets (i : Instr) (a : Option BrAct) : Prop :=
      exec i s = .next (modGroup s c sl (fun g => { g with bun := { g.bun with br := a } }))
    sets (.brJmp t) (some (.goto target)) ∧
    (some_ → sets (.brBra t) (some (.goto target)) ∧ sets (.brBrz t) none) ∧
    (¬some_ → sets (.brBra t) none ∧ sets (.brBrz t) (some (.goto target))) ∧
    (all → sets (.brBrall t) (some (.goto target))) ∧ (¬all → sets (.brBrall t) none) ∧
    sets (.brCall t) (some (.call target)) ∧ sets (.brRet t) (some .ret) ∧
    sets (.brLoopi t) (some (.loopi (V.extractLsb' 0 28))) ∧
    sets (.brLoop t) (some (.loop (V.extractLsb' 0 28) (V.extractLsb' 28 3) (moveLanes s c sl k))) ∧
    sets (.brHalt t) (some .halt) ∧ sets (.brYield t) (some (.yield (V.extractLsb' 0 8)))

/-! ### Memory operations -/

/-- The access that an ls operation makes, by its code: a load, a store, or an atomic in one of its four forms (R84, R209 to
R218). pf, code 6, makes none. -/
def Claims.memAccess (op : Nat) (t : Trig) (o : Opnd) : Option Access :=
  match op with
  | 0x00 => some (loadOf t false false o)
  | 0x01 => some (storeOf t false false o)
  | 0x02 => some { kind := .load, elems := rowElems o }
  | 0x03 => some { kind := .store, elems := rowElems o, data := o.a }
  | 0x04 => some (loadOf t true false o)
  | 0x05 => some (storeOf t true false o)
  | 0x06 => none
  | 0x07 => some (loadOf t false true o)
  | 0x08 => some (storeOf t false true o)
  | n => if 0x10 ≤ n ∧ n % 16 < 10 ∧ n / 16 ≤ 4 then
      some (atomicOf t (n % 16) (n / 16 = 2 ∨ n / 16 = 4) (n / 16 = 3 ∨ n / 16 = 4) o) else none

/-- An ls trigger takes its slot's place in program order. When every address translates, an entry waits for the access; a fault
of an address is raised against the slot; else its walk starts. An acquire orders the group's later loads behind the earlier ones from
then on (R76, R209 to R222). -/
def Claims.MemoryAccessStarts : Prop :=
  ∀ (i : Instr) (op : Nat) (t : Trig) (s : State) (c sl k : Nat) (x : Access),
    trigOf i = some (.ls, op, t) → Carried s c sl k t.src → moveLanes s c sl k ≠ 0 →
    let u := 11 + t.inst.toNat
    let o := operands s c sl k u
    let a : Access := { x with typ := t.typ, lanes := moveLanes s c sl k, seq := placeOf s c sl
                               part := (group s c sl).part, priv := (group s c sl).hmode }
    let hand := inHand (group s c sl) u
    let mark (s : State) : State := if a.acq = true then modGroup s c sl (fun g => markAcquire g a.seq a.wide) else s
    Claims.memAccess op t o = some x →
    (∀ a', decideAccess s c (group s c sl).team a false = .ready a' →
      exec i s = .next (mark (addEntry (fillWalks s c a) c sl k u o 0 (.mem a')))) ∧
    (∀ cz v l, decideAccess s c (group s c sl).team a false = .fault cz v l →
      exec i s = .next (mark (slotFault (leaseEvent (fillWalks s c a) c a.part cz) c sl cz v l))) ∧
    (decideAccess s c (group s c sl).team a false = .walks →
      exec i s = .next (mark (startWalk (addEntry s c sl k u o 0 (.mem (stampPast s c (group s c sl).team a))) c sl k u hand a)))

/-- Until it is performed a memory operation writes no memory, no register of the register files and no accumulator row: an
issued access leaves every byte, for every observer, and every g, v, k and q register as they were (R209, R220). -/
def Claims.IssuedAccessFrame : Prop :=
  ∀ (i : Instr) (op : Nat) (t : Trig) (s t' : State) (c sl k : Nat),
    trigOf i = some (.ls, op, t) → Carried s c sl k t.src → exec i s = .next t' →
    t'.mem = s.mem ∧ t'.hidden = s.hidden ∧ (∀ d, (core t' d).acc = (core s d).acc) ∧
    ∀ d y, (group t' d y).g = (group s d y).g ∧ (group t' d y).k = (group s d y).k ∧ (group t' d y).q = (group s d y).q ∧
      (group t' d y).pc = (group s d y).pc ∧ (group t' d y).fpstat = (group s d y).fpstat

/-- pf returns no entry and never faults: it completes whatever its addresses, and writes no memory and no register
(R213). -/
def Claims.PrefetchOnlyFillsCaches : Prop :=
  ∀ (t : Trig) (s : State) (c sl k : Nat), Carried s c sl k t.src →
    ∃ t' : State, exec (.lsPf t) s = .next t' ∧ t'.mem = s.mem ∧ t'.hidden = s.hidden ∧
      (∀ d, (core t' d).acc = (core s d).acc) ∧ ∀ d y, group t' d y = group s d y

/-- What the issue of a memory operation starts and what it leaves unchanged, and that pf, which makes no access, completes (R76, R209
to R222). -/
def Obligations.MemoryOperationIssues : Prop :=
  Claims.MemoryAccessStarts ∧ Claims.IssuedAccessFrame ∧ Claims.PrefetchOnlyFillsCaches

/-- The byte of memory that an address stands for: an address of this package's own window of the fabric is the stacked DRAM
behind it (R202, R407). -/
def Claims.home (s : State) (a : Nat) : Nat := match fabricLocal s a with | some off => off | none => a

/-- The W of a write that is performed now (R220, R241): from the home's tick and the lease record of its line in stacked DRAM, two
ticks later under PROP 0; else the tick of the writing core's die, which for a memory of another die is the model's choice (log 53). -/
def Claims.completion (s : State) (c : Nat) (x : Elem) : BitVec 64 :=
  if regionOf x.pa = 0 then
    tmax (gtime s (homeDie x.pa)) (leaseOf s (x.pa / 64)) + (if x.attr.prop then 0 else 2)
  else coreTime s c

/-- A store whose time has come is performed, all of its parts or those that the step does not leave for later; a part is an element, a
half of one of 16 bytes outside the core windows, or a replica of an st.mc. While parts are left its entry stays pending with them and
with the latest W so far. With the last part the entry fills with W, the latest of all parts, and PWT rises to it; W is stated here for
parts in stacked DRAM that lie in one line under one PROP, and elsewhere. No byte of this package outside the bytes of its elements, or
for st.mc their replicas, changes for any observer (R111, R208, R212, R218 to R220, R241, R253). -/
def Claims.StoreChangesOnlyItsBytes : Prop :=
  ∀ (s : State) (c sl u h i later : Nat) (e : QEntry) (a : Access), s.sel = [c, sl, u, h, i, later] → u = 11 ∨ u = 12 →
    entryAt (group s c sl) (h == 1) u i = some e → e.pend = .mem a → a.kind = .store → a.acq = false → a.stat = .ready → a.held = false →
    (core s c).landed = false → unanswered s c a.sent (a.elems.map (·.pa)) = false → orderOk s c sl a = true →
    let parts := storeParts s a
    let left := parts.filter (leftLater parts later)
    let now := parts.filter (fun x => !leftLater parts later x)
    ∃ (t : State) (W : BitVec 64), exec .resultEntryFill s = .next t ∧
      (left = [] → (group t c sl).pwt = tmax (group s c sl).pwt W ∧
        ∃ e', entryAt (group t c sl) (h == 1) u i = some e' ∧ e'.pend = .full ∧ e'.filled = cycleOf s c + 1 ∧
          e'.val = splat (lo64 W) ∧ e'.dis = e.dis) ∧
      (left ≠ [] → (group t c sl).pwt = (group s c sl).pwt ∧
        ∃ e' a', entryAt (group t c sl) (h == 1) u i = some e' ∧ e'.pend = .mem a' ∧ a'.elems = left ∧ a'.w = W ∧ a'.seq = a.seq) ∧
      (∀ line prop, (∀ x ∈ now, fabricLocal s x.pa = none ∧ x.pa % 64 + x.len ≤ 64 ∧
          (regionOf x.pa = 0 → x.pa / 64 = line ∧ x.attr.prop = prop)) →
        W = (now.map (Claims.completion s c)).foldl tmax a.w) ∧
      ∀ (v : Option Nat) (b : Nat), remoteAt s b = false →
        (∀ x ∈ a.elems, ∀ j < x.len, Claims.home s (x.pa + j) ≠ Claims.home s b ∧
          (a.mc = true → x.attr.repl = true → ∀ d < 8, Claims.home s (x.pa % 2 ^ 36 + d * 2 ^ 36 + j) ≠ Claims.home s b)) →
        physByte t v b = physByte s v b

/-- The writing core reads back the bytes it stored, little-endian, once a store of one element to stacked DRAM has been
performed (R4, R212, R219). -/
def Claims.StoredBytesAreReadBack : Prop :=
  ∀ (s : State) (c sl u h i : Nat) (e : QEntry) (a : Access) (x : Elem), memWf s.mem = true → s.sel = [c, sl, u, h, i] → u = 11 ∨ u = 12 →
    entryAt (group s c sl) (h == 1) u i = some e → e.pend = .mem a → a.kind = .store → a.stat = .ready → a.held = false → a.mc = false →
    (core s c).landed = false → orderOk s c sl a = true → a.elems = [x] → x.off = 0 → x.len ≤ 16 →
    (∀ j < x.len, regionOf (x.pa + j) = 0) →
    ∃ t : State, exec .resultEntryFill s = .next t ∧
      ∀ j < x.len, physByte t (some c) (x.pa + j) = (lane a.data x.lane).extractLsb' (8 * j) 8

/-- A plain load whose time has come reads its elements, but for those that the step leaves for later, and leaves every byte of memory as
it was; with the last of them its entry fills (R211, R219, R220). Its time has come when no watermark holds it, order lets it go, its
data is good, and no copy element has landed in this cycle. -/
def Claims.LoadFillsEntry : Prop :=
  ∀ (s : State) (c sl u h i later : Nat) (e : QEntry) (a : Access), s.sel = [c, sl, u, h, i, later] → u = 11 ∨ u = 12 →
    entryAt (group s c sl) (h == 1) u i = some e → e.pend = .mem a → a.kind = .load → a.acq = false →
    a.stat = .ready → a.held = false → (core s c).landed = false → unanswered s c a.sent (a.elems.map (·.pa)) = false →
    compareAccess s c a.part a.elems = .pass → orderOk s c sl a = true → badElem s c a = none →
    let of (left : Bool) : List Elem := (a.elems.zipIdx.filter (fun x => later.testBit x.2 == left)).map (·.1)
    let v := (readElems s c { a with elems := of false } (extendLoad a.typ)).2
    ∃ (t : State) (e' : QEntry), exec .resultEntryFill s = .next t ∧
      entryAt (group t c sl) (h == 1) u i = some e' ∧ e'.val = e.val ||| v ∧ e'.dis = e.dis ∧
      (of true = [] → e'.pend = .full ∧ e'.filled = cycleOf s c + 1) ∧
      (of true ≠ [] → e'.pend = .mem { a with elems := of true }) ∧
      t.mem = s.mem ∧ t.hidden = s.hidden ∧ t.failing = s.failing ∧ ∀ d, (core t d).acc = (core s d).acc

/-- The word that an atomic writes, by its number in the table of R215: sg tells a signed type. -/
def Claims.atomicWord {w : Nat} (op : Nat) (sg : Bool) (old x cmp : BitVec w) : BitVec w :=
  let less (a b : BitVec w) : Bool := if sg then a.slt b else a.ult b
  match op with
  | 0 => old + x
  | 1 => old - x
  | 2 => if less x old then x else old
  | 3 => if less old x then x else old
  | 4 => old &&& x
  | 5 => old ||| x
  | 6 => old ^^^ x
  | 7 => x
  | 8 => if old = cmp then x else old
  | _ => BitVec.ofNat w (fadd f32 .rne (decodeF f32 old.toNat) (decodeF f32 x.toNat)).1

/-- An atomic in every form, once its time has come, on aligned words of stacked DRAM, host memory or scratchpad. The enabled lanes act
in increasing order: each takes the old word that it finds, which may be a lower lane's, and its entry holds that word below the atomic's
W; each word holds what the last of its lanes left there for its core, and no other byte of this package changes for any observer. W is
stated here for one lane and for lanes outside stacked DRAM, a failed acas taking its tick; PWT rises to it (R111, R215, R216, R220,
R241). -/
def Claims.AtomicChangesItsWords : Prop :=
  ∀ (s : State) (c sl u h i len : Nat) (e : QEntry) (a : Access), memWf s.mem = true → s.sel = [c, sl, u, h, i] →
    u = 11 ∨ u = 12 → entryAt (group s c sl) (h == 1) u i = some e → e.pend = .mem a → e.val = 0 → a.kind = .atomic → a.stat = .ready →
    a.held = false → (core s c).landed = false → unanswered s c a.sent (a.elems.map (·.pa)) = false →
    compareAccess s c a.part a.elems = .pass → orderOk s c sl a = true → badElem s c a = none →
    len = 4 ∨ len = 8 → (9 ≤ a.op → len = 4) → (a.elems.map (·.lane)).Nodup →
    (∀ x ∈ a.elems, x.lane < 32 ∧ x.len = len ∧ x.pa % len = 0 ∧
      (regionOf x.pa < 2 ∨ ((windowOf x.pa).isSome = true ∧ x.pa % 2 ^ 22 < 0x80000 ∧ ∀ j < len, heldByTeam s (x.pa + j) = true))) →
    let w := 8 * len
    let at_ (j : Nat) : Elem := (a.elems[j]?).getD { lane := 0, off := 0, len := 0, va := 0 }
    let n := a.elems.length
    ∃ (t : State) (e' : QEntry) (W : BitVec 64) (old new : Nat → BitVec w), exec .resultEntryFill s = .next t ∧
      (∀ j < n, new j = Claims.atomicWord a.op (a.typ == 0 || a.typ == 3) (old j) ((lane a.data (at_ j).lane).setWidth w) (a.cmp.setWidth w) ∧
        old j = match (List.range j).reverse.find? (fun m => (at_ m).pa == (at_ j).pa) with
          | some m => new m
          | none => BitVec.ofNat w (physRead s (some c) (at_ j).pa len)) ∧
      entryAt (group t c sl) (h == 1) u i = some e' ∧ e'.pend = .full ∧ e'.dis = e.dis ∧
      (∀ j < n, lane e'.val (at_ j).lane = W ++ (old j).setWidth 64) ∧ (group t c sl).pwt = tmax (group s c sl).pwt W ∧
      (n = 1 → W = tmax a.w (if a.op = 8 ∧ old 0 ≠ a.cmp.setWidth w then
          (if regionOf (at_ 0).pa = 0 then gtime s (homeDie (at_ 0).pa) else coreTime s c)
        else Claims.completion s c (at_ 0))) ∧
      (0 < n → (∀ x ∈ a.elems, regionOf x.pa ≠ 0) → W = tmax a.w (coreTime s c)) ∧
      (∀ j < n, (∀ m < n, j < m → (at_ m).pa ≠ (at_ j).pa) →
        ∀ b < len, physByte t (some c) ((at_ j).pa + b) = (new j).extractLsb' (8 * b) 8) ∧
      ∀ (v : Option Nat) (b : Nat), remoteAt s b = false →
        (∀ x ∈ a.elems, ∀ m < len, x.pa + m ≠ Claims.home s b) → physByte t v b = physByte s v b

/-- What a performed store changes, its W, and that its bytes are read back; what a load fills its entry with; and what an atomic writes
and returns (R4, R111, R211, R212, R215, R216, R218 to R220, R241). That a step may leave parts of an access for later is the model's way
to let accesses of other agents come in between (log 11). -/
def Obligations.AccessesArePerformed : Prop :=
  Claims.StoreChangesOnlyItsBytes ∧ Claims.StoredBytesAreReadBack ∧ Claims.LoadFillsEntry ∧ Claims.AtomicChangesItsWords

/-! ### Streams -/

/-- The stream operations: setting a parameter word and the base, starting, skipping, stopping a stream, and its status
(R226 to R233). -/
def Obligations.StreamOperations : Prop :=
  ∀ (s : State) (c sl k : Nat) (t : Trig), Carried s c sl k t.src → moveLanes s c sl k ≠ 0 →
    let u := 13 + t.inst.toNat
    let o := operands s c sl k u
    let n := (o.aux.extractLsb' 0 3).toNat
    let v := uniform (moveLanes s c sl k) (moveValue s c sl k)
    let w1 (g : Group) : BitVec 32 := tget 0 g.sets (setKey u n 1)
    let skip (st : Stream) : Stream := { st with pos := st.pos + (v.setWidth 32 : BitVec 32).toNat }
    let moved (g : Group) : Group := { g with streams := tput g.streams u (skip (tget {} g.streams u)) }
    exec (.spSpcfg t) s = .next (modGroup s c sl (fun g => { g with sets := tput g.sets (setKey u n t.typ.toNat) (v.setWidth 32) })) ∧
    exec (.spSpbase t) s = .next (modGroup s c sl (fun g => { g with
      sets := tput (tput g.sets (setKey u n 0) (v.setWidth 32)) (setKey u n 1) ((w1 g).extractLsb' 20 12 ++ v.extractLsb' 32 20) })) ∧
    exec (.spSpstop t) s = .next (modGroup s c sl (fun g => stopStream g u)) ∧
    exec (.spSpstat t) s = .next (modGroup s c sl (fun g =>
      modPort g u (fun p => { p with b := merge (moveLanes s c sl k) (splat (lo64 (streamStatus g u))) p.b }))) ∧
    ((tget {} (group s c sl).streams u).active = false → exec (.spSpskip t) s = .next (modGroup s c sl (fun g => g))) ∧
    ((tget {} (group s c sl).streams u).active = true → streamDir (tget {} (group s c sl).streams u) = true →
      exec (.spSpskip t) s = .next (modGroup s c sl moved)) ∧
    ((tget {} (group s c sl).streams u).active = true → streamDir (tget {} (group s c sl).streams u) = false →
      exec (.spSpskip t) s = .next (modGroup s c sl (fun g =>
        streamFill (setPort (moved g) false u { portOf (moved g) false u with q := [] }) u))) ∧
    (let g0 := stopStream (group s c sl) u
     let st : Stream := { active := true, set := n, words := copySet g0 u n, pos := (v.setWidth 32 : BitVec 32).toNat
                          seq := placeOf s c sl, priv := g0.hmode, lanes := moveLanes s c sl k, unwritten := (tget {} g0.streams u).unwritten }
     let w := tget 0 st.words 1
     (w.extractLsb' 27 5 = 0 → (w.extractLsb' 20 3).toNat < 5 → streamAligned st = true →
       exec (.spSpstart t) s = .next (modGroup (modGroup s c sl (fun g => stopStream g u)) c sl (fun g =>
         streamFill { g with streams := tput g.streams u st } u))))

/-! ### Synchronisation operations -/

/-- What each sy trigger starts (R243 to R246, R389 to R399): its entry and what fills it, the arrival at a barrier, or the
wait of a release. One that acquires orders the group's later loads behind it. A barw whose phase has passed fills at once, and a twait
whose counter the cycle found at its value fills in the next one (R393, R396; that the compares read the start of a cycle is the model's
reading, log 38). -/
def Claims.SynchronisationOperations : Prop :=
  ∀ (s : State) (c sl k : Nat) (t : Trig), Carried s c sl k t.src → moveLanes s c sl k ≠ 0 → t.inst = 0 →
    let o := operands s c sl k 20
    let v := uniform (moveLanes s c sl k) (moveValue s c sl k)
    let b := (o.aux.extractLsb' 0 4).toNat
    let entry (s : State) (x : Row) (p : Pend) : State := addEntry s c sl k 20 o x p
    let arrive (s : State) (b : Nat) : State :=
      modGroup s c sl (fun g => { g with arrive := g.arrive ++ [(b, placeOf s c sl)] })
    let mark (s : State) (wide : Bool) : State := modGroup s c sl (fun g => markAcquire g (placeOf s c sl) wide)
    let n := placeOf s c sl
    let ctr := ctrOf (o.aux.extractLsb' 0 8)
    let fenced := markFence s c sl (wideScope t.mod)
    exec (.syBar t) s = .next (arrive (mark (entry s 0 (.bar b)) false) b) ∧
    exec (.syBarar t) s = .next (arrive (entry s (splat (lo32 (tget {} (team s (group s c sl).team).nb b).gen))
      (.timed (cycleOf s c))) b) ∧
    (let p : BitVec 32 := v.setWidth 32
     let gen := (tget {} (team s (group s c sl).team).nb b).gen
     (2 ^ 31 ≤ (gen - p - 1).toNat → exec (.syBarw t) s = .next (entry s 0 (.barw b p))) ∧
     ((gen - p - 1).toNat < 2 ^ 31 → exec (.syBarw t) s = .next (modGroup (entry s 0 (.barw b p)) c sl (fun g =>
       fillEntry g (cycleOf s c) false 20 ((portOf g false 20).q.length - 1) (splat (lo32 gen)))))) ∧
    exec (.syCbar t) s = .next (arrive (mark (entry s 0 .cbar) true) 16) ∧
    exec (.syAcq t) s = .next (acquire (mark s (wideScope t.mod)) c sl (wideScope t.mod)) ∧
    (holdDone s c sl (n, false, t.mod) = true → exec (.syRel t) s = .next s) ∧
    (holdDone fenced c sl (n, true, t.mod) = true → exec (.syFence t) s = .next (acquire fenced c sl (wideScope t.mod))) ∧
    (holdDone s c sl (n, false, t.mod) = false →
      exec (.syRel t) s = .next (modGroup s c sl (fun g => setHold g g.hmode (some (n, false, t.mod))))) ∧
    (holdDone fenced c sl (n, true, t.mod) = false →
      exec (.syFence t) s = .next (modGroup fenced c sl (fun g => setHold g g.hmode (some (n, true, t.mod))))) ∧
    (twaitOk s c (group s c sl) ctr = true →
      let n : BitVec 64 := (uniform o.en o.a).setWidth 64
      let x := ctrValue s c ctr
      let s' := lastSy (entry s 0 (.twait (o.aux.extractLsb' 0 8) n)) c sl (fun e =>
        if n.toNat ≤ x.toNat then { e with met := some (cycleOf s c + 1, false), val := splat (lo64 x) } else e)
      exec (.syTwait t) s = .next (if ctr.acquires = true then mark s' true else s')) ∧
    (treadFault s c (group s c sl) ctr = none →
      exec (.syTread t) s = .next (entry s (splat (lo64 (ctrValue s c ctr))) (.timed (cycleOf s c + 1)))) ∧
    exec (.sySleep t) s = .next (entry s 0 (.sleep (coreTime s c + (v.setWidth 32 : BitVec 32).setWidth 64))) ∧
    exec (.syTick t) s = .next (entry s (splat (lo64 (coreTime s c))) (.timed (cycleOf s c)))

/-- mwait and wmwait take their slot's place in program order and, when the address translates, an entry that waits at it; mwait
acquires; a wmwait that its channel has passed, or left abandoned, ends in the next cycle (R397, R398). -/
def Claims.MemoryWaitOperations : Prop :=
  ∀ (s : State) (c sl k : Nat) (t : Trig), Carried s c sl k t.src → moveLanes s c sl k ≠ 0 → t.inst = 0 →
    let o := operands s c sl k 20
    let mark (s : State) : State := modGroup s c sl (fun g => markAcquire g (placeOf s c sl) true)
    let el (len : Nat) : List Elem := [{ lane := (lowest o.en).getD 0, off := 0, len := len, va := (uniform o.en o.t).toNat % 2 ^ 52 }]
    let a (kd : AccKind) (len : Nat) : Access :=
      { kind := kd, lanes := o.en, elems := el len, seq := placeOf s c sl, part := (group s c sl).part, priv := (group s c sl).hmode }
    let ch := (o.aux.extractLsb' 0 3).toNat
    (∀ a', decideAccess s c (group s c sl).team (a .mwait 8) false = .ready a' →
      exec (.syMwait t) s =
        .next (mark (addEntry (fillWalks s c (a .mwait 8)) c sl k 20 o 0 (.mwait a' ((uniform o.en o.a).setWidth 64) 0)))) ∧
    (∀ a', ((chanOf s c ch).own = none ∨ (chanOf s c ch).own = some (group s c sl).team) →
      decideAccess s c (group s c sl).team (a .wmwait 1) false = .ready a' →
      ∀ y ys, a'.elems = y :: ys →
      exec (.syWmwait t) s = .next (lastSy (addEntry (fillWalks s c (a .wmwait 1)) c sl k 20 o 0 (.wmwait ch a')) c sl (fun e =>
        match compare1 (group s c sl).part (chanOf s c ch) y with
        | .pass => { e with met := some (cycleOf s c + 1, false) }
        | .abandoned => { e with met := some (cycleOf s c + 1, true) }
        | .held => e)))

/-- What every sy trigger starts (R243 to R246, R389 to R399). -/
def Obligations.SynchronisationOperationsStart : Prop :=
  Claims.SynchronisationOperations ∧ Claims.MemoryWaitOperations

/-! ### System operations -/

/-- What each ss trigger starts (R334, R339, R343, R346, R373 to R378): an entry and what it waits for; trap and rti are taken
at the end of the bundle. -/
def Claims.SystemOperations : Prop :=
  ∀ (s : State) (c sl k : Nat) (t : Trig), Carried s c sl k t.src → moveLanes s c sl k ≠ 0 → t.inst = 0 →
    let o := operands s c sl k 21
    let v := uniform (moveLanes s c sl k) (moveValue s c sl k)
    let reg := (o.aux.extractLsb' 0 8).toNat
    let va := v.toNat % 2 ^ 52
    let len := (uniform o.en o.a).toNat % 2 ^ 32
    let n := placeOf s c sl
    let entry (s : State) (x : Row) (p : Pend) : State := addEntry s c sl k 21 o x p
    exec (.ssRdsys t) s = .next (entry s (splat (lo64 (coreTime s c))) (.rdsys (cycleOf s c + 2) reg)) ∧
    (perLaneReg reg = false → v &&& sysReserved reg = 0 →
      exec (.ssWrsys t) s = .next (entry s 0 (.wrsys (cycleOf s c + 2) reg (moveValue s c sl k)))) ∧
    (perLaneReg reg = true → (∀ L < 32, o.en.getLsbD L = true → lane o.t L &&& sysReserved reg = 0) →
      exec (.ssWrsys t) s = .next (entry s 0 (.wrsys (cycleOf s c + 2) reg (moveValue s c sl k)))) ∧
    exec (.ssTrap t) s = .next (modGroup s c sl (fun g => { g with bun := { g.bun with trap := some (k, v.setWidth 7) } })) ∧
    exec (.ssRti t) s = .next (modGroup s c sl (fun g => { g with bun := { g.bun with rti := true } })) ∧
    exec (.ssTlbinv t) s = .next (entry s 0 (.tlbinv n (t.typ == 1) va false [] [])) ∧
    exec (.ssReplay t) s = .next (entry s 0 (.replay n (t.typ == 1) va false [] 0 false)) ∧
    (len ≠ 0 → exec (.ssPub t) s = .next (entry s 0 (.pub n t.mod va len)) ∧
      exec (.ssIclock t) s = .next (entry s 0 (.iclock n true va len)) ∧
      exec (.ssIcunlock t) s = .next (entry s 0 (.iclock n false va len))) ∧
    (len = 0 → exec (.ssPub t) s = .next (slotFault s c sl 0x04 0 ((lowest o.en).getD 0)) ∧
      exec (.ssIclock t) s = .next (slotFault s c sl 0x04 0 ((lowest o.en).getD 0)) ∧
      exec (.ssIcunlock t) s = .next (slotFault s c sl 0x04 0 ((lowest o.en).getD 0)))

/-- ctxsave begins a save of its team, whose cluster is one team, at a 256-byte aligned address; ctxload of a well-placed image
takes an entry (R377, R378). A larger cluster or another alignment faults against the slot. -/
def Claims.ContextOperations : Prop :=
  ∀ (s : State) (c sl k : Nat) (t : Trig), Carried s c sl k t.src → moveLanes s c sl k ≠ 0 → t.inst = 0 →
    let o := operands s c sl k 21
    let va := (uniform o.en o.t).toNat % 2 ^ 52
    let r := (grid s (team s (group s c sl).team).grid).lr
    (r.w * r.h = 1 → va % 256 = 0 →
      exec (.ssCtxsave t) s = .next (beginSave (addEntry s c sl k 21 o 0 (.ctxsave va (!(uniform o.en o.a).getLsbD 0)))
        (group s c sl).team 5)) ∧
    (r.w * r.h ≠ 1 → exec (.ssCtxsave t) s = .next (slotFault s c sl 0x04 0 ((lowest o.en).getD 0))) ∧
    (r.w * r.h = 1 → va % 256 ≠ 0 → exec (.ssCtxsave t) s = .next (slotFault s c sl 0x08 va ((lowest o.en).getD 0))) ∧
    (∀ pa, va % 256 = 0 → imagePlace s c sl va = .ok pa → readFails s pa Image.groupsAt = false →
      (headerBad s c pa = true ∨ featureAbsent s (imageHere s (dieOf c) (group s c sl).part va pa) = false) →
      exec (.ssCtxload t) s = .next (addEntry s c sl k 21 o 0 (.ctxload (cycleOf s c) va)))

/-- What every ss trigger starts (R334, R339, R343, R346, R373 to R378). -/
def Obligations.SystemOperationsStart : Prop :=
  Claims.SystemOperations ∧ Claims.ContextOperations

/-! ### Copy operations -/

/-- The cp operations of a channel that the group's team owns, or that no team owns (R285 to R289, R294 to R297): the channel
is the team's, its registers take their values, and an accepted copy or binding is started with the next operation number; a
team's channel that another team owns faults. -/
def Claims.CopyOperations : Prop :=
  ∀ (s : State) (c sl k : Nat) (t : Trig), Carried s c sl k t.src → moveLanes s c sl k ≠ 0 → t.inst = 0 →
    let o := operands s c sl k 17
    let v := uniform (moveLanes s c sl k) (moveValue s c sl k)
    let ch := (o.aux.extractLsb' 0 3).toNat
    let g := group s c sl
    let s1 := if (chanOf s c ch).own.isSome then s else modChan s c ch (fun _ => { own := some g.team })
    let q := chanOf s1 c ch
    let span := (shapeSpan q.shape).getD 0
    let ring := ((v.extractLsb' 0 10)).toNat
    let r := tget {} s1.ingest ring
    let start (halo : Bool) (key : Option (List (Nat × Nat × Nat))) (q : Chan) : Chan :=
      { q with
        st := if halo then .armed else .landing, halo := halo, ring := none
        rsrc := q.csrc.toNat, rdst := q.cdst.toNat, rshape := q.shape, pos := 0, phys := key
        fixed := fixedParts s1 c (group s1 c sl).part (group s1 c sl).hmode (key.getD [])
        cwm := q.cdst.toNat, cwm0 := q.cdst.toNat, gend := q.cdst.toNat + span, clen := shapeEs q.shape * shapeN q.shape }
    ((chanOf s c ch).own = none ∨ (chanOf s c ch).own = some g.team →
      exec (.cpCpsrc t) s = .next (modChan s1 c ch (fun q => { q with csrc := v.setWidth 52 })) ∧
      exec (.cpCpdst t) s = .next (modChan s1 c ch (fun q => { q with cdst := v.setWidth 52 })) ∧
      exec (.cpCpshape t) s = .next (modChan s1 c ch (fun q => { q with
        shape := tput (tput q.shape (2 * t.typ.toNat) ((uniform o.en o.a).setWidth 32)) (2 * t.typ.toNat + 1) (v.setWidth 32) })) ∧
      (∀ key, ringBound q = false → copyFault q.shape q.csrc.toNat q.cdst.toNat = none →
        guardKey s1 c (group s1 c sl).team (group s1 c sl).part q.cdst.toNat span = .ok key →
        exec (.cpCpgo t) s = .next (acceptCopy s1 c sl k o ch (start false key)) ∧
        (haloOk s1 (group s1 c sl).team q.shape q.csrc.toNat key = true →
          exec (.cpCphalo t) s = .next (acceptCopy s1 c sl k o ch (start true key)))) ∧
      (ringBound q = false → r.enabled = true → r.part = (group s1 c sl).part →
        exec (.cpCpring t) s = .next (acceptCopy s1 c sl k o ch (fun q => { q with
          st := .landing, halo := false, ring := some ring, rdst := r.rb, gend := r.rb + r.rs, cwm := r.rb, clen := 0
          rshape := [], pos := 0, phys := none, fixed := [], wp0 := r.wp, rp0 := r.rp, landLog := [(r.wp.toNat, coreTime s1 c)] })))) ∧
    (∀ tm, (chanOf s c ch).own = some tm → tm ≠ g.team →
      ∀ i ∈ [Instr.cpCpsrc t, .cpCpdst t, .cpCpshape t, .cpCpgo t, .cpCphalo t, .cpCpring t, .cpCpabort t],
        exec i s = .next (slotFault s c sl 0x04 0 ((lowest o.en).getD 0)))

/-- An accepted copy gives its operation number, one more than the last number that its channel gave, or than CSEQ where CSEQ has
reached that (log 50), through an entry that fills at once; it waits for the operations of its group that stand before it
(R250, R288). -/
def Claims.AcceptedCopyAnswersItsNumber : Prop :=
  ∀ (s : State) (c sl k ch : Nat) (o : Opnd) (f : Chan → Chan), (∀ q, (f q).n = q.n) → (∀ q, (f q).wait = q.wait) →
    let t := acceptCopy s c sl k o ch f
    (chanOf t c ch).n = lastNumber (chanOf s c ch) + 1 ∧ ((chanOf s c ch).owed = [] → lastNumber (chanOf s c ch) = (chanOf s c ch).cseq) ∧
    (chanOf t c ch).wait = some (sl, placeOf s c sl) ∧
    ∃ e : QEntry, (port (group t c sl) 17).q = (port (group s c sl) 17).q ++ [e] ∧
      e.pend = .timed (cycleOf s c) ∧ e.val = splat (lo64 (lastNumber (chanOf s c ch) + 1)) ∧ e.dis = ~~~o.en

/-- cpwm and cpstat read what a channel of the group's partition showed at the start of the cycle into an entry that fills two cycles
on; cpabort ends a channel and gives its watermark, once no element is on its way and every write of the channel has reached its W
(R283, R285, R286, R294, R295; log 50). -/
def Claims.CopyStatusOperations : Prop :=
  ∀ (s : State) (c sl k : Nat) (t : Trig), Carried s c sl k t.src → moveLanes s c sl k ≠ 0 → t.inst = 0 →
    let o := operands s c sl k 17
    let ch := (o.aux.extractLsb' 0 3).toNat
    let q := chanOf s c ch
    let entry (due : Nat) (x : Nat) : State := addEntry s c sl k 17 o (splat (BitVec.ofNat 128 x)) (.timed due)
    ((∀ tm, q.own = some tm → (team s tm).part = (group s c sl).part) →
      exec (.cpCpwm t) s = .next (addEntry s c sl k 17 o (splat (tget (0, 0) (core s c).shown ch).1) (.timed (cycleOf s c + 2))) ∧
      exec (.cpCpstat t) s = .next (addEntry s c sl k 17 o (splat (tget (0, 0) (core s c).shown ch).2) (.timed (cycleOf s c + 2)))) ∧
    (∀ tm, q.own = some tm → (team s tm).part ≠ (group s c sl).part →
      exec (.cpCpwm t) s = .next (slotFault s c sl 0x04 0 ((lowest o.en).getD 0)) ∧
      exec (.cpCpstat t) s = .next (slotFault s c sl 0x04 0 ((lowest o.en).getD 0))) ∧
    (q.own = none → exec (.cpCpabort t) s = .next (entry (cycleOf s c) 0)) ∧
    (q.own = some (group s c sl).team → q.st = .idle ∨ q.st = .done ∨ q.st = .abandoned →
      exec (.cpCpabort t) s = .next (modChan (entry (cycleOf s c) (q.cwm % 2 ^ 52)) c ch (fun _ => {}))) ∧
    (q.own = some (group s c sl).team → q.st = .armed ∨ q.st = .landing ∨ q.st = .frozen → stopped s c q = false →
      exec (.cpCpabort t) s = .next (modChan (addEntry s c sl k 17 o 0 (.cpabort ch)) c ch (fun q => { q with aborting := true }))) ∧
    (q.own = some (group s c sl).team → q.st = .armed ∨ q.st = .landing ∨ q.st = .frozen → stopped s c q = true →
      exec (.cpCpabort t) s = .next (addEntry (abandonChan s c ch) c sl k 17 o
        (splat (BitVec.ofNat 128 ((chanOf (abandonChan s c ch) c ch).cwm % 2 ^ 52))) (.timed (cycleOf (abandonChan s c ch) c))))

/-- The cp operations that own their channel, the number that an accepted one answers, and cpwm, cpstat and cpabort
(R250, R283, R285 to R289, R294 to R297). -/
def Obligations.CopyOperationsStart : Prop :=
  Claims.CopyOperations ∧ Claims.AcceptedCopyAnswersItsNumber ∧ Claims.CopyStatusOperations

/-! ### The matrix engine -/

/-- The mx operations on records and registers of the group's team, each with an entry that fills two cycles on
(R255, R258, R260, R261, R276). -/
def Obligations.MatrixRegisterOperations : Prop :=
  ∀ (s : State) (c sl k : Nat) (t : Trig), Carried s c sl k t.src → moveLanes s c sl k ≠ 0 → t.inst = 0 →
    let o := operands s c sl k 18
    let v := uniform (moveLanes s c sl k) (moveValue s c sl k)
    let i := (o.aux.extractLsb' 0 4).toNat
    let tm := (group s c sl).team
    let rec_ : BitVec 128 := tget 0 (team s tm).ob i
    let entry (s : State) (x : Slice) : State := addEntry s c sl k 18 o (splat x) (.timed (cycleOf s c + 2))
    exec (.mxMxrel t) s = .next (entry (modTeam s tm (fun x => { x with ob := tput x.ob i (rec_ &&& ~~~(1#128 <<< 63)) })) 0) ∧
    exec (.mxMxcop t) s = .next (entry (modTeam s tm (fun x => { x with cop := v })) 0) ∧
    (t.typ = 2 → exec (.mxMxstat t) s = .next (entry s rec_)) ∧
    (t.typ = 0 → exec (.mxMxstat t) s = .next (entry s (BitVec.ofNat 128 (mxstat s (leaderOf c))))) ∧
    (t.typ = 1 → exec (.mxMxstat t) s = .next (entry (modCore s (leaderOf c) (fun x => { x with mxflags := x.mxflags &&& 0x60 }))
      (BitVec.ofNat 128 (mxstat s (leaderOf c))))) ∧
    (let T := v.toNat % 2 ^ 32
     let A := (uniform o.en o.a).toNat % 2 ^ 32
     let B := (uniform o.en o.b).toNat % 2 ^ 32
     let len := A % 2 ^ 20
     let soff := B % 2 ^ 20
     let r : BitVec 128 := newRecord t.typ.toNat T len soff (B / 2 ^ 20)
     T < 2 ^ 24 → A < 2 ^ 20 → B < 2 ^ 21 → len ≠ 0 → soff ≤ len → T % 16 = 0 → len % 16 = 0 → soff % 16 = 0 →
     (aperture s tm (apertureBase + T) len).isSome = true →
     exec (.mxMxres t) s = .next (entry (modCore (modTeam s tm (fun x => { x with ob := tput x.ob i r })) (leaderOf c) (fun x => { x with
       mxops := x.mxops.map (fun p =>
         if p.team = tm then { p with ia := if p.ia = i then 16 else p.ia, ib := if p.ib = i then 16 else p.ib } else p) })) r))

/-- mxpass, mxdrain and mxdrain.acc on a bank of the group's team or of none: with operands in range the operation joins the
pair's order with an entry; a drain leases its accumulator rows from its issue (R266 to R274). A drain of a bank whose format is not
known yet, since an mxload before it has not found its page, is checked when it starts (log 21). None issues on a core that does not
lead its pair. -/
def Claims.MatrixEngineOperationsIssue : Prop :=
  ∀ (s : State) (c sl k : Nat) (t : Trig), Carried s c sl k t.src → moveLanes s c sl k ≠ 0 → t.inst = 0 →
    let o := operands s c sl k 18
    let T := (uniform (moveLanes s c sl k) (moveValue s c sl k)).toNat % 2 ^ 32
    let g := group s c sl
    let b := T / 2 ^ 20 % 2
    (leaderOf c ≠ c → ∀ i ∈ [Instr.mxMxpass t, .mxMxdrain t, .mxMxdrainAcc t, .mxMxsave t, .mxMxload t],
      exec i s = .next (slotFault s c sl 0x04 0 ((lowest o.en).getD 0))) ∧
    (let depth := T % 2 ^ 16 + 1
     let ia := (o.aux.extractLsb' 0 4).toNat
     let ib := T / 2 ^ 16 % 16
     let ra : BitVec 128 := tget 0 (team s g.team).ob ia
     let rb : BitVec 128 := tget 0 (team s g.team).ob ib
     leaderOf c = c → T < 2 ^ 25 → ra.getLsbD 63 = true → rb.getLsbD 63 = true → nativeOf (recFmt ra) = nativeOf (recFmt rb) →
     depth ≤ (spanOf (nativeOf (recFmt ra))).2 → shortData ra 128 depth = false → shortData rb 256 depth = false →
     shortScales ra 128 depth = false → shortScales rb 256 depth = false → othersBank s c sl b = false →
     exec (.mxMxpass t) s = .next (issueMx (claimBank s c sl b) c sl k o
       { id := 0, kind := .pass, slot := 0, team := 0, bank := b, fmt := nativeOf (recFmt ra), reca := ra, recb := rb, ia := ia
         ib := ib, cop := (team s g.team).cop, depth := depth, seq := placeOf s c sl })) ∧
    (∀ f, lastFmt s c b = some f →
     let i0 := T % 128
     let n := T / 2 ^ 7 % 128 + 1
     let d := T / 2 ^ 14 % 64
     let rpt := drainRpt t.typ.toNat (cplxFmt f)
     let id := (core s c).mxnext
     let rows := if f = unknownFmt ∧ t.typ = 4 then min (n * 8) (g.vrows - d) else n * rpt
     let op (acc : Bool) : MxOp :=
       { id := 0, kind := .drain, slot := 0, team := 0, bank := b, fmt := f, mode := t.typ.toNat, acc := acc
         t := BitVec.ofNat 32 T, row0 := g.vbase + d, rows := rows, seq := placeOf s c sl }
     leaderOf c = c → T < 2 ^ 22 → i0 + n ≤ 128 → d + n * rpt ≤ g.vrows →
     (f = unknownFmt ∨ t.typ.toNat = 4 ∨ (t.typ.toNat = 3 ↔ cplxFmt f = true)) → othersBank s c sl b = false →
     ∀ acc : Bool, exec (if acc then .mxMxdrainAcc t else .mxMxdrain t) s =
       .next (modCore (issueMx s c sl k o (op acc)) c (fun x => { x with
         leases := x.leases ++ (List.range rows).map (fun r => (g.vbase + d + r, id)) })))

/-- mxsave and mxload on the leader of a pair at a 64-byte aligned address: when all pages of the image translate, the operation joins
the pair's order with an entry, and mxload claims its bank; its format is its header's when it starts (log 21); an operation whose
image has an absent page parks with its entry (R222, R267, R275). -/
def Claims.MatrixImageOperationsIssue : Prop :=
  ∀ (s : State) (c sl k : Nat) (t : Trig), Carried s c sl k t.src → moveLanes s c sl k ≠ 0 → t.inst = 0 → leaderOf c = c →
    let o := operands s c sl k 18
    let va := (uniform (moveLanes s c sl k) (moveValue s c sl k)).toNat % 2 ^ 52
    let b := (uniform o.en o.a).toNat % 2
    let g := group s c sl
    let n := placeOf s c sl
    va % 64 = 0 → othersBank s c sl b = false →
    (∀ f a', lastFmt s c b = some f →
      let a : Access := { kind := .mxsave, seq := n, part := g.part, priv := g.hmode, elems := lineElems va (imageBytes (cplxFmt f)) }
      decideAccess s c g.team a true = .ready a' →
      exec (.mxMxsave t) s = .next (issueMx (fillWalks s c a) c sl k o
        { id := 0, kind := .save, slot := 0, team := 0, bank := b, access := some a', seq := n, fmt := f })) ∧
    (∀ a',
      let a : Access := { kind := .mxload, seq := n, part := g.part, priv := g.hmode, elems := lineElems va (imageBytes false) }
      decideAccess s c g.team a true = .ready a' →
      exec (.mxMxload t) s = .next (issueMx (claimBank (fillWalks s c a) c sl b) c sl k o
        { id := 0, kind := .load, slot := 0, team := 0, bank := b, access := some a', seq := n, fmt := unknownFmt })) ∧
    (∀ f key v, lastFmt s c b = some f →
      let a : Access := { kind := .mxsave, seq := n, part := g.part, priv := g.hmode, elems := lineElems va (imageBytes (cplxFmt f)) }
      decideAccess s c g.team a true = .park key v →
      exec (.mxMxsave t) s = .next (parkAccess (issueMx (fillWalks s c a) c sl k o
        { id := 0, kind := .save, slot := 0, team := 0, bank := b, access := some { a with stat := .parked key v }, seq := n, fmt := f })
        c (.entry c sl 18 false n) key v (originOf c sl) 0 .mxsave)) ∧
    (∀ key v,
      let a : Access := { kind := .mxload, seq := n, part := g.part, priv := g.hmode, elems := lineElems va (imageBytes false) }
      decideAccess s c g.team a true = .park key v →
      exec (.mxMxload t) s = .next (parkAccess (issueMx (claimBank (fillWalks s c a) c sl b) c sl k o
        { id := 0, kind := .load, slot := 0, team := 0, bank := b, access := some { a with stat := .parked key v }, seq := n
          fmt := unknownFmt }) c (.entry c sl 18 false n) key v (originOf c sl) 0 .mxload))

/-- The mx operations that join the pair's order (R222, R266 to R275). -/
def Obligations.MatrixOperationsIssue : Prop :=
  Claims.MatrixEngineOperationsIssue ∧ Claims.MatrixImageOperationsIssue

/-! ### Launch operations -/

/-- push of an aligned record waits for its acceptance; stat gives the state of the target's FIFO four cycles on; cancel gives
its outcome at once (R312 to R314). Another alignment of the record faults against the slot. -/
def Claims.LaunchOperations : Prop :=
  ∀ (s : State) (c sl k tc : Nat) (t : Trig), Carried s c sl k t.src → moveLanes s c sl k ≠ 0 → t.inst = 0 →
    let o := operands s c sl k 22
    let v := uniform (moveLanes s c sl k) (moveValue s c sl k)
    let rcd := v.toNat % 2 ^ 52
    lnTarget c o = some tc →
    (rcd % 256 = 0 → exec (.lnPush t) s = .next (addEntry s c sl k 22 o 0 (.push (placeOf s c sl) tc rcd))) ∧
    (rcd % 256 ≠ 0 → exec (.lnPush t) s = .next (slotFault s c sl 0x08 rcd ((lowest o.en).getD 0))) ∧
    exec (.lnStat t) s = .next (addEntry s c sl k 22 o (splat (BitVec.ofNat 128 ((core s tc).plq.length % 8 +
      (core s tc).pls % 2 ^ 16 * 2 ^ 16 + (headTicket s tc).toNat * 2 ^ 32))) (.timed (cycleOf s c + 4))) ∧
    exec (.lnCancel t) s = .next (addEntry (cancelTicket s tc (v.setWidth 32)).2 c sl k 22 o
      (splat (BitVec.ofNat 128 (cancelTicket s tc (v.setWidth 32)).1)) (.timed (cycleOf (cancelTicket s tc (v.setWidth 32)).2 c)))

/-! ### Issue, cycles and fetch -/

/-- The slots of a bundle (R61): those below MCNT hold moves; an MCNT of 7, a nonzero bit of [247:240] or of an unused slot is an
illegal bundle (cause 1 of R370), which the issue checks find before any other fault; a bundle with no move is valid, performs no
move, and with STOP ends the group; forty zero bits are the move g0 -> g0. -/
def Obligations.BundleFormIsChecked : Prop :=
  (∀ (s : State) (c sl : Nat) (g : Group) (b : Bundle),
    (b.word.extractLsb' 253 3 = 7 ∨ b.word.extractLsb' 240 8 ≠ 0 ∨
        (∃ i < 6, (b.word.extractLsb' 253 3).toNat ≤ i ∧ slotWord b.word i ≠ 0) →
      (issueFault s c sl g b).map (·.cause) = some 1) ∧
    (b.word.extractLsb' 253 3 = 0 → b.word.extractLsb' 240 8 = 0 → (∀ i < 6, slotWord b.word i = 0) →
      issueFault s c sl g b = none ∧ openSlots b = []) ∧
    (b.done = [] → b.word.extractLsb' 253 3 ≠ 7 → openSlots b = List.range (b.word.extractLsb' 253 3).toNat)) ∧
  (∀ (s : State) (c sl : Nat), (group s c sl).bun.faults = [] → (group s c sl).bun.trap = none → (group s c sl).bun.rti = false →
    (group s c sl).bun.lstep = false → (group s c sl).bun.word.extractLsb' 253 3 = 0 → (group s c sl).bun.word.getLsbD 252 = true →
    (group (finishBundle s c sl) c sl).ended = true) ∧
  decodeWord 0 = .ok (.move ⟨false, 0, 0, 0, false⟩ (.g 0))

/-- A core that may issue takes the bundle of the group that R27 chooses: with no failed check it captures the values of all of
its sources and the lanes of every slot; with a failed check it takes the trap at the bundle, and no slot completes. The
registers keep their values in both (R26, R27, R73, R80, R369). -/
def Obligations.BundleIssue : Prop :=
  ∀ (s : State) (c sl : Nat) (b : Bundle), selAt s 0 = c → mayIssue s c = true → chosen s c = some sl →
    nextBundle (group s c sl) = some b →
    (issueFault s c sl (group s c sl) b = none →
      ∃ t : State, exec .bundleIssue s = .next t ∧ t.cur = some (c, sl) ∧ (core t c).issued = some sl ∧
        (group t c sl).busy = true ∧ (group t c sl).bun.word = b.word ∧ (group t c sl).bun.addr = b.addr ∧
        (∀ i ∈ openSlots b, tget 0 (group t c sl).bun.en i = slotMask (group s c sl) b i ∧
          (readsNow b i = true → tget 0 (group t c sl).bun.val i =
            readSrc s c sl (group s c sl) b.addr (slotFields b.word i).src)) ∧
        (group t c sl).g = (group s c sl).g ∧ (group t c sl).k = (group s c sl).k ∧ (group t c sl).q = (group s c sl).q ∧
        (group t c sl).pc = (group s c sl).pc ∧ (core t c).acc = (core s c).acc ∧ t.mem = s.mem) ∧
    (∀ f, issueFault s c sl (group s c sl) b = some f → (group s c sl).hmode = false →
      (part s (group s c sl).part).tvec ≠ 0 →
      ∃ t : State, exec .bundleIssue s = .next t ∧ (core t c).issued = some sl ∧ (group t c sl).hmode = true ∧
        (group t c sl).pc = (part s (group s c sl).part).tvec.extractLsb' 5 47 ∧
        (group t c sl).fraddr = b.addr.setWidth 64 ∧
        (group t c sl).frcause = BitVec.ofNat 64 (f.fva % 2 ^ 52 * 2 ^ 12 + f.slot * 2 ^ 8 + f.cause) ∧
        (group t c sl).g = (group s c sl).g ∧ (group t c sl).k = (group s c sl).k ∧ (group t c sl).q = (group s c sl).q ∧
        (core t c).acc = (core s c).acc ∧ t.mem = s.mem)

/-- The end of a core's cycle, once everything that falls in it has come about, the ends of waits and the arrivals at barriers among
it: the cycle counter rises by 1, a bundle may issue again, every performance counter that is enabled takes the events of the cycle, the
groups that are eligible are noted, a yield has a cycle less, a twait that finds its value is noted to end in the cycle after the new
one, and the rest of the architectural state of every group stays, but for pushes whose answer comes at this end (R26, R28, R181, R384,
R385, R396, R450). What falls in a cycle and when it ends are the model's reading, log 51. -/
def Claims.CoreCycleEnds : Prop :=
  ∀ (s : State) (c : Nat), selAt s 0 = c → coreRuns s c = true → issueOver s c = true → releaseDue s c = false →
    (∀ p ∈ (core s c).groups, dueNow p.2 (core s c).cycle = false ∧ fallsNow s c p.1 = false) →
    ∃ t s1 : State, exec .coreCycle s = .next t ∧ t = startCycle s1 c ∧ (core t c).cycle = (core s c).cycle + 1 ∧
      (core t c).issued = none ∧ (core t c).landed = false ∧ (core t c).groups = (core s1 c).groups ∧
      (core t c).ready = ((core s1 c).groups.filter (fun p => eligible s1 c p.1 p.2)).map (·.1) ∧
      (∀ i < 16, tget 0 (core t c).pmc i = pmcNext (tget 0 (core s c).pmsel i) (tget 0 (core s c).pmc i) (core s c).events) ∧
      (let rest (g : Group) : Group := { g with waited := 0, yieldLeft := 0, ports := [], hports := [], streams := [] }
       ∀ sl, rest (group t c sl) = rest (group s c sl) ∧ (group t c sl).yieldLeft = (group s c sl).yieldLeft - 1 ∧
        (∀ u, { tget {} (group t c sl).streams u with unwritten := [] } = { tget {} (group s c sl).streams u with unwritten := [] }) ∧
        ∀ h u, u ≠ 22 →
          { portOf (group t c sl) h u with q := [] } = { portOf (group s c sl) h u with q := [] } ∧
          (portOf (group t c sl) h u).q.length = (portOf (group s c sl) h u).q.length ∧
          ∀ i e, entryAt (group s c sl) h u i = some e → ∃ e', entryAt (group t c sl) h u i = some e' ∧
            e'.dis = e.dis ∧ e'.filled = e.filled ∧ (e.pend = .full → e' = e) ∧ ((∀ a, e.pend ≠ .mem a) → e'.pend = e.pend) ∧
            (∀ k v, h = false → u = 20 → e.pend = .twait k v → e.met = none → v.toNat ≤ (ctrValue s c (ctrOf k)).toNat →
              e'.met = some ((core s c).cycle + 2, false) ∧ e'.val = splat (lo64 (ctrValue s c (ctrOf k))))) ∧
      (∀ d, d ≠ c → { core t d with groups := [] } = { core s d with groups := [] } ∧
        ∀ sl, { group t d sl with ports := [] } = { group s d sl with ports := [] }) ∧ t.mem = s.mem

/-- A fetch of a line that no instruction cache holds brings the 64 bytes of its home to the group; a later line that the furthest
advanced group fetches goes to every group of its team that may fetch it. One whose translation fails at the group's bundle
boundary is trapped with the bundle's address (R29, R195, R341). -/
def Obligations.InstructionFetch : Prop :=
  ∀ (s : State) (c sl n : Nat), selAt s 0 = c → selAt s 1 = sl → selAt s 2 = n →
    (group? s c sl).isSome = true → (group s c sl).ended = false →
    let g := group s c sl
    let ln := (g.pc.toNat / 2 + n) % 2 ^ 46
    (∀ pa e, fetchTranslate s c g.part g.hmode (ln * 64) = .ok pa e → tfind (core s c).icache (pa / 64) = none →
      failingAt s (pa / 64 * 64) 64 = false → n = 0 ∨ furthest s c g = true →
      ∃ t : State, exec .instructionFetchFill s = .next t ∧
        (n = 0 → tfind (group t c sl).fetch ln = some (homeLine s (some c) (pa / 64))) ∧
        (n ≠ 0 → ∀ p ∈ (team s g.team).slots, e.attr.priv = false ∨ (group s c p.2).hmode = true →
          tfind (group t c p.2).fetch ln = some (homeLine s (some c) (pa / 64))) ∧
        tfind (core t c).icache (pa / 64) = some (homeLine s (some c) (pa / 64)) ∧
        (group t c sl).pc = g.pc ∧ t.mem = s.mem) ∧
    (∀ cause, fetchTranslate s c g.part g.hmode (ln * 64) = .fault cause → n = 0 → atBoundary g = true →
      tfind g.fetch ln = none → g.late = [] → g.hmode = false → (part s g.part).tvec ≠ 0 →
      ∃ t : State, exec .instructionFetchFill s = .next t ∧ (group t c sl).hmode = true ∧
        (group t c sl).pc = (part s g.part).tvec.extractLsb' 5 47 ∧ (group t c sl).fraddr = g.pc.setWidth 64 ∧
        (group t c sl).frcause = BitVec.ofNat 64 (g.pc.toNat * 32 % 2 ^ 52 * 2 ^ 12 + cause) ∧ t.mem = s.mem)

/-! ### Results and waits -/

/-- The n-th entry of a queue is full with a value from the next cycle on. -/
def Claims.filledWith (s t : State) (c sl u h n : Nat) (v : Row) : Prop :=
  ∃ e e' : QEntry, entryAt (group s c sl) (h == 1) u n = some e ∧ entryAt (group t c sl) (h == 1) u n = some e' ∧
    e'.pend = .full ∧ e'.val = v ∧ e'.filled = cycleOf s c + 1 ∧ e'.dis = e.dis

/-- Entries that wait for a time, a system register, a barrier generation, a lock of code lines or an image fill with the values
that their operations define (R84, R343, R373, R378, R393). -/
def Obligations.EntriesFill : Prop :=
  ∀ (s : State) (c sl u h n : Nat) (e : QEntry), s.sel = [c, sl, u, h, n] → u ≠ 11 → u ≠ 12 →
    entryAt (group s c sl) (h == 1) u n = some e →
    let fills (v : Row) : Prop := ∃ t : State, exec .resultEntryFill s = .next t ∧ Claims.filledWith s t c sl u h n v
    let g := group s c sl
    (∀ due, e.pend = .timed due → due ≤ cycleOf s c → fills e.val) ∧
    (∀ due reg, e.pend = .rdsys due reg → due ≤ cycleOf s c → rdsysReady g due reg = true →
      fills (sysValue s c sl reg ((lane e.val 0).setWidth 64))) ∧
    (∀ due reg t, e.pend = .wrsys due reg t → due ≤ cycleOf s c →
      exec .resultEntryFill s = .next (modGroup s c sl (fun g =>
        sysWrite (fillEntry g (cycleOf s c) (h == 1) u n (sysValue s c sl reg 0)) reg (~~~e.dis) t))) ∧
    (∀ b p, e.pend = .barw b p → staysArmed g (cycleOf s c) e = false → ((tget {} (team s g.team).nb b).gen - p - 1).toNat < 2 ^ 31 →
      fills (splat (lo32 (tget {} (team s g.team).nb b).gen))) ∧
    (∀ m va len, e.pend = .iclock m true va len → released s c sl m true = true →
      fills (splat (BitVec.ofNat 128 (lockLines s c g.part va len).1))) ∧
    (∀ m va len, e.pend = .iclock m false va len → released s c sl m true = true →
      fills (splat (BitVec.ofNat 128 (unlockLines s c g.part va len).1))) ∧
    (∀ due va, e.pend = .ctxload due va → fills (splat (BitVec.ofNat 128 (ctxload s c sl va).1)))

/-- The waits of sy end: twait in the cycle after the one whose start finds its counter not below the awaited value, with that value;
mwait at a value not below the awaited one, sleep at its tick, wmwait in the cycle after the one whose start finds the watermark past its
address, with a fault when its channel was abandoned, and at once outside the ring; twait on a synchronising counter and mwait acquire
(R251, R396 to R399). An mwait reads its word after the earlier accesses of its group to those bytes (R219). A poll of host memory reads
the word as it then stands; one that finds less is repeated 1,024 ticks on, and a word that cannot be read ends the wait with cause
0x19. -/
def Claims.WaitsEnd : Prop :=
  ∀ (s : State) (c sl n : Nat) (x : QEntry), selAt s 0 = c → selAt s 1 = sl → selAt s 2 = n →
    entryAt (group s c sl) false 20 n = some x →
    let fill (s : State) (v : Nat) : State :=
      modGroup s c sl (fun g => fillEntry g (cycleOf s c) false 20 n (splat (BitVec.ofNat 128 v)))
    let put (s : State) (x : QEntry) : State := modGroup s c sl (fun g => setEntry g false 20 n x)
    (∀ k v, x.pend = .twait k v →
      (∀ cyc, x.met = none → v.toNat ≤ (ctrValue s c (ctrOf k)).toNat →
        meetTwait s c cyc x = { x with met := some (cyc + 1, false), val := splat (lo64 (ctrValue s c (ctrOf k))) }) ∧
      (∀ m b, x.met = some (m, b) → m ≤ cycleOf s c →
        let t := modGroup s c sl (fun g => fillEntry g (cycleOf s c) false 20 n x.val)
        exec .twaitFill s = .next (if (ctrOf k).acquires then acquire t c sl true else t))) ∧
    (∀ a v p e, x.pend = .mwait a v p → a.stat = .ready → a.elems = [e] → regionOf e.pa = 0 → orderOk s c sl a = true →
      exec .mwaitFill s = .next
        (if failingAt s e.pa 8 then { accessFault s c sl 20 false n 0x19 e.va with fresh := s.fresh + 1 }
        else if v.toNat ≤ physRead s (some c) e.pa 8 then acquire (fill s (physRead s (some c) e.pa 8)) c sl true
        else put s { x with met := some (0, false) })) ∧
    (∀ a v p e, x.pend = .mwait a v p → a.stat = .ready → a.elems = [e] → regionOf e.pa = 1 →
      orderOk s c sl a = true → p.toNat ≤ (coreTime s c).toNat →
      let s0 := hostBytes s 3
      exec .mwaitHostPoll s = .next
        (if failingAt s e.pa 8 || Config.remoteError s.fresh then
          { accessFault s0 c sl 20 false n 0x19 e.va with fresh := s.fresh + 1 }
        else if v.toNat ≤ physRead s0 (some c) e.pa 8 then acquire (fill s0 (physRead s0 (some c) e.pa 8)) c sl true
        else put s0 { x with pend := .mwait a v (coreTime s c + 1024) })) ∧
    (∀ ch a, x.pend = .wmwait ch a →
      (∀ e, x.met = none → a.stat = .ready → a.elems = [e] →
        compare1 a.part (tget {} (core s c).chans ch) e = .pass → (meetWmwait (core s c) x).met = some (cycleOf s c + 1, false)) ∧
      (∀ m, x.met = some (m, false) → m ≤ cycleOf s c →
        exec .wmwaitFill s = .next (fill s ((chanView (chanOf s c ch)).1 % 2 ^ 52))) ∧
      (∀ m, x.met = some (m, true) → m ≤ cycleOf s c → outsideRing s c ch a = false →
        exec .wmwaitFill s = .next (accessFault s c sl 20 false n 0x18 (((a.elems.head?).map (·.va)).getD 0))) ∧
      (outsideRing s c ch a = true →
        exec .wmwaitFill s = .next (fill s ((chanView (chanOf s c ch)).1 % 2 ^ 52)))) ∧
    (∀ tick, x.pend = .sleep tick → tick.toNat ≤ (coreTime s c).toNat →
      exec .sleepExpiry s = .next (fill s (coreTime s c).toNat))

/-- A release that is complete lets its group go on, and a fence then acquires; an arrival whose release is complete joins the
phase of its barrier, which completes with the last group that has not ended (R244, R246, R393, R394). -/
def Claims.ReleasesAndArrivals : Prop :=
  ∀ (s : State) (c sl : Nat), selAt s 0 = c → selAt s 1 = sl →
    let g := group s c sl
    (∀ (hand : Bool) n fence scope, (selAt s 2 == 1) = hand → (if hand then g.hhold else g.hold) = some (n, fence, scope) →
      holdDone s c sl (n, fence, scope) = true →
      let go := modGroup s c sl (fun g => if hand then { g with hhold := none } else { g with hold := none })
      exec .releaseComplete s = .next (if fence then acquire go c sl (wideScope scope) else go)) ∧
    (∀ b n, g.arrive = [(b, n)] → b < 16 → releaseDone s c sl n false = true →
      ∃ t : State, exec .barrierArrival s = .next t ∧
        let m := (tget {} (team s g.team).nb b).mask ||| BitVec.ofNat 16 (2 ^ g.gid)
        let done := (liveGids (team s g.team)).all (fun i => m.getLsbD i)
        (done = true → m ≠ 0 → tget {} (team t g.team).nb b = { mask := 0, gen := (tget {} (team s g.team).nb b).gen + 1 }) ∧
        (done = false → tget {} (team t g.team).nb b = { mask := m, gen := (tget {} (team s g.team).nb b).gen } ∧
          (group t c sl).arrive = [])) ∧
    (∀ n, g.arrive = [(16, n)] → g.cbarIn = false → releaseDone s c sl n true = true →
      exec .clusterBarrierArrival s = .next (clusterCheck (modGroup s c sl (fun g =>
        { g with arrive := [], cbarIn := true })) g.team))

/-- How the waits of sy, releases and barrier arrivals complete (R244, R246, R251, R393 to R399). -/
def Obligations.WaitsAndArrivalsComplete : Prop :=
  Claims.WaitsEnd ∧ Claims.ReleasesAndArrivals

/-- A yield ends when its cycles are over. A hidden write that has reached its completion time becomes the memory's own, and no observer
sees a byte of it change by that (R181, R241). A unit that fails stays failing under writes of some of its bytes, and ends failing when
it is written whole (R191). -/
def Claims.CoreEventsComplete : Prop :=
  ∀ s : State,
    ((group s (selAt s 0) (selAt s 1)).yielding = true → (group s (selAt s 0) (selAt s 1)).yieldLeft = 0 →
      exec .yieldExpiry s = .next (modGroup s (selAt s 0) (selAt s 1) (fun g => { g with yielding := false }))) ∧
    (∀ h, (servedNow s none).find? (fun h => h.1.die == selAt s 0 && h.2) = some (h, true) →
      ∃ t : State, exec .hiddenWriteReveal s = .next t ∧ t.mem = memPuts s.mem h.cells ∧ t.hidden.length + 1 = s.hidden.length ∧
        t.cores = s.cores ∧ t.teams = s.teams ∧ (∀ v b, regionOf b = 0 → physByte t v b = physByte s v b)) ∧
    (regionOf (selAt s 0) = 0 → dramOk s (selAt s 0) = true →
      ∃ t : State, exec .uncorrectableError s = .next t ∧ failingAt t (selAt s 0) 1 = true ∧ t.mem = s.mem) ∧
    (∀ a c via d prop cs, regionOf a = 0 → failingAt s a 1 = true → (∀ x ∈ cs, regionOf x.1 = 0) →
      (failingAt (performWrite s c via d prop cs).1 a 1 = true ↔ ∃ j < 8, ∀ x ∈ cs, x.1 ≠ a / 8 * 8 + j))

/-- The end of a cycle, and the events of a core and its memories (R26, R181, R191, R241, R384, R385). -/
def Obligations.CoreCycleAndEvents : Prop :=
  Claims.CoreCycleEnds ∧ Claims.CoreEventsComplete

/-! ### Walks and faults -/

/-- The walks of an access end: an access that translates is ready; one on an absent page parks with a fault in the die's buffer, unless
a watermark holds it, where it waits for that first (log 31); and a fault is reported against the slot that triggered it (R222, R330,
R335, R337, R369). -/
def Claims.PageWalkCompletes : Prop :=
  ∀ (s : State) (d : Nat) (w : Walk) (a : Access), selAt s 0 = d → selAt s 1 = w.id →
    (die s d).walks.find? (fun x => x.id == w.id) = some w →
    let s1 := modDie s d (fun x => { x with walks := x.walks.filter (fun y => y.id != w.id) })
    let ends (t : State) : Prop := exec .pageWalkComplete s = .next (settle (modGroup t w.core w.slot (fun g =>
      { g with bun := { g.bun with undecided := g.bun.undecided.erase w.bslot } })) w.core w.slot)
    findAccess s1 w.core w.slot w.unit w.hand w.seq = some a →
    (∀ a', decideAccess s1 w.core (group s1 w.core w.slot).team a true = .ready a' →
      ends (putAccess (fillWalks s1 w.core a) w.core w.slot w.unit w.hand a')) ∧
    (∀ k v, decideAccess s1 w.core (group s1 w.core w.slot).team a true = .park k v →
      ends (parkOrHold (fillWalks s1 w.core a) w.core w.slot w.unit w.hand a k v)) ∧
    (∀ cz v l, decideAccess s1 w.core (group s1 w.core w.slot).team a true = .fault cz v l → a.kind ≠ .streamWrite →
      ends (modGroup (dropAccess (leaseEvent (fillWalks s1 w.core a) w.core a.part cz) w.core w.slot w.unit w.hand w.seq)
        w.core w.slot (fun g =>
        { g with bun := { g.bun with faults := { slot := w.bslot, cause := cz, fva := v, lane := l } :: g.bun.faults } })))

/-- The scheduler Newt hands the oldest fault of a die's buffer to its origin group, which takes it at a bundle boundary outside
the handler with the cause, address and origin of the fault in its record; the entry leaves the buffer (R337, R340, R368, R369). -/
def Claims.FaultDelivery : Prop :=
  ∀ (s : State) (d c sl : Nat) (e : FbEntry) (rest : List FbEntry), selAt s 0 = d → (die s d).fb = e :: rest →
    modeOf s .fault d = 0 → deliveryOf s e = .to c sl →
    let f := bFault (asRemoved s d e) (die s d).drop
    exec .faultBufferDelivery s = .next (postLate (popFault s d) c sl f) ∧
    ((die s d).joined = [] → (die (popFault s d) d).fb = rest) ∧ f.cause = 0x10 + e.cause ∧ f.fva = e.va ∧ f.bKind = true

/-- A deferred fault is taken at a bundle boundary: HMODE is set, the program counter goes to TVEC, and the record names the
next bundle, all six slots, and the kind of the fault in its slot field (R369). -/
def Claims.DeferredTrap : Prop :=
  ∀ (s : State) (c sl : Nat) (f : LateFault) (rest : List LateFault), selAt s 0 = c → selAt s 1 = sl →
    let g := group s c sl
    g.late = f :: rest → g.ended = false → g.busy = false → g.hmode = false → g.redo = false → g.saving = false →
    (part s g.part).tvec ≠ 0 →
    ∃ t : State, exec .deferredTrapEntry s = .next t ∧ (group t c sl).late = rest ∧ (group t c sl).hmode = true ∧
      (group t c sl).pc = (part s g.part).tvec.extractLsb' 5 47 ∧ (group t c sl).fraddr = g.pc.setWidth 64 ∧
      (group t c sl).frmask = 0x3F ∧
      (group t c sl).frcause = BitVec.ofNat 64 (f.fva % 2 ^ 52 * 2 ^ 12 + (if f.bKind then 0xF else 0xE) * 2 ^ 8 + f.cause) ∧
      (∀ L < 32, (lane (group t c sl).frstage L).setWidth 64 = f.stage) ∧
      (group t c sl).g = g.g ∧ (group t c sl).k = g.k ∧ (group t c sl).q = g.q ∧ t.mem = s.mem

/-- How a fault of the buffer reaches its group, and how the group takes it (R337, R368, R369). -/
def Obligations.DeferredFaultsTrap : Prop :=
  Claims.FaultDelivery ∧ Claims.DeferredTrap

/-- A bundle whose slots have faulted traps at its end: the record holds its address, the lowest faulting slot with its cause
and address, a bit for every slot that completed, the captured source of every slot that did not, and the lanes that each slot
enabled; the handler runs at TVEC (R366 to R371). That the slot of a software trap which is not reported counts as not completed is the
model's choice (log 49). -/
def Claims.SlotFaultRecord : Prop :=
  ∀ (s : State) (c sl : Nat) (f : SlotFault), worstFault (group s c sl).bun.faults = some f →
    (∀ i code, (group s c sl).bun.trap = some (i, code) → f.slot ≤ i) →
    let g := group s c sl
    let t := finishBundle s c sl
    g.hmode = false → (part s g.part).tvec ≠ 0 →
    (group t c sl).hmode = true ∧ (group t c sl).pc = (part s g.part).tvec.extractLsb' 5 47 ∧
    (group t c sl).fraddr = g.bun.addr.setWidth 64 ∧
    (group t c sl).frcause = BitVec.ofNat 64 (f.fva % 2 ^ 52 * 2 ^ 12 + f.slot * 2 ^ 8 + f.cause) ∧
    (∀ i < 6, (group t c sl).frmask.getLsbD i =
      !(g.bun.faults.any (fun x => x.slot == i) || (g.bun.trap.map (·.1)) == some i)) ∧
    (∀ i < slotsUsed g.bun.word, ∀ L < 32,
      (lane (group t c sl).frstage L).getLsbD (122 + i) = (tget 0 g.bun.en i).getLsbD L) ∧
    (∀ x ∈ g.bun.faults, ∀ v, tfind g.bun.val x.slot = some v → tget 0 (group t c sl).frsv x.slot = v) ∧
    (group t c sl).busy = false ∧ (group t c sl).g = g.g ∧ (group t c sl).k = g.k ∧ (group t c sl).q = g.q ∧
    (group t c sl).kept = some { addr := g.bun.addr, br := g.bun.br, places := g.bun.places } ∧ t.mem = s.mem

/-- A fault taken in the handler, or in a partition whose TVEC is 0, ends the group; PFERR counts it, up to 255, and keeps its
cause and bundle (R367, R371). -/
def Claims.DoubleFaultEndsGroup : Prop :=
  ∀ (s : State) (c sl : Nat) (f : SlotFault), worstFault (group s c sl).bun.faults = some f →
    (∀ i code, (group s c sl).bun.trap = some (i, code) → f.slot ≤ i) →
    let g := group s c sl
    let t := finishBundle s c sl
    let p := part s g.part
    g.hmode = true ∨ p.tvec = 0 →
    (group t c sl).ended = true ∧
    (part t g.part).pferr.extractLsb' 56 8 = (if p.pferr.extractLsb' 56 8 = 0xFF#8 then 0xFF#8 else p.pferr.extractLsb' 56 8 + 1) ∧
    (part t g.part).pferr.extractLsb' 48 8 = BitVec.ofNat 8 f.cause ∧
    (part t g.part).pferr.extractLsb' 0 47 = g.bun.addr ∧ t.mem = s.mem

/-- The record of a precise fault and the handler's entry, or the end of the group by a double fault (R366 to R371). -/
def Obligations.SlotFaultsTrap : Prop :=
  Claims.SlotFaultRecord ∧ Claims.DoubleFaultEndsGroup

/-- A trap instruction ends its bundle in the handler with cause 0x80 + code and every slot completed; a return leaves the
handler for the recorded bundle, whose slots that did not complete are re-performed, unless the record is that of a deferred fault or of
a fetch (R374, R375). -/
def Obligations.TrapAndReturn : Prop :=
  ∀ (s : State) (c sl : Nat), (group s c sl).bun.faults = [] →
    let g := group s c sl
    let t := finishBundle s c sl
    (∀ i code, g.bun.trap = some (i, code) → g.hmode = false → (part s g.part).tvec ≠ 0 →
      (group t c sl).hmode = true ∧ (group t c sl).pc = (part s g.part).tvec.extractLsb' 5 47 ∧
      (group t c sl).fraddr = g.bun.addr.setWidth 64 ∧ (group t c sl).frmask = 0x3F ∧
      (group t c sl).frcause = BitVec.ofNat 64 (i * 2 ^ 8 + (0x80 + code.toNat)) ∧ t.mem = s.mem) ∧
    (g.bun.trap = none → g.bun.rti = true → g.bun.word.getLsbD 252 = false →
      (group t c sl).hmode = false ∧ (group t c sl).pc = g.fraddr.extractLsb' 0 47 ∧ (group t c sl).busy = false ∧
      ((group t c sl).redo = true ↔
        g.frcause.extractLsb' 8 4 ≠ 0xE ∧ g.frcause.extractLsb' 8 4 ≠ 0xF ∧ (lane g.frstage 0).getLsbD 56 = false) ∧
      (group t c sl).g = g.g ∧ (group t c sl).k = g.k ∧ (group t c sl).q = g.q ∧ t.mem = s.mem)

/-- The end of a bundle without a fault, a trap or a return: the last bundle, or br.halt, ends the group; else the program
counter is the branch target, the call's target with the return address pushed, the popped return address, the top of the loop
that the bundle closes, or the next bundle, which a yield lets the group issue later (R174 to R185). A rotating loop that is closed
names its predicates anew; a branch taken in a closing bundle ends the loop. -/
def Claims.ProgramCounterMoves : Prop :=
  ∀ (s : State) (c sl : Nat), (group s c sl).bun.faults = [] →
    let g := group s c sl
    let b := g.bun
    let t := finishBundle s c sl
    let next (v : BAddr) : Prop := (group t c sl).pc = v ∧ (group t c sl).busy = false ∧ (group t c sl).g = g.g ∧
      (group t c sl).k = g.k ∧ (group t c sl).hmode = g.hmode ∧ t.mem = s.mem
    let plain (v : BAddr) : Prop := next v ∧ (group t c sl).q = g.q ∧ (group t c sl).qrot = g.qrot
    let on : Prop := b.br = none ∨ ∃ n, b.br = some (.yield n)
    let closes : Prop := b.word.getLsbD 251 = true ∧ holdsLoop b.word = false ∧ g.hmode = false
    b.trap = none → b.rti = false → b.lstep = false →
    (b.word.getLsbD 252 = true ∨ b.br = some .halt → (group t c sl).ended = true) ∧
    (b.word.getLsbD 252 = false → b.br ≠ some .halt →
      (∀ a, b.br = some (.goto a) → plain a) ∧
      (∀ a, b.br = some (.call a) → g.rsd ≠ 8 → plain a ∧ (group t c sl).rsd = g.rsd + 1 ∧
        tget 0 (group t c sl).rstk g.rsd = b.addr + 1) ∧
      (b.br = some .ret → g.rsd ≠ 0 → plain (tget 0 g.rstk (g.rsd - 1)) ∧ (group t c sl).rsd = g.rsd - 1) ∧
      (closes → (∃ a, b.br = some (.goto a)) ∨ (∃ a, b.br = some (.call a) ∧ g.rsd ≠ 8) ∨ (b.br = some .ret ∧ g.rsd ≠ 0) →
        (group t c sl).lcnt = g.lcnt.extractLsb' 28 4 ++ 0#28) ∧
      (∀ n, b.br = some (.loopi n) → n ≠ 0 →
        plain (b.addr + 1) ∧ (group t c sl).ltop = b.addr + 1 ∧ (group t c sl).lcnt = 0#4 ++ n) ∧
      (b.br = some (.loopi 0) ∨ (∃ stg ls, b.br = some (.loop 0 stg ls)) → plain (b.addr + 1) ∧ (group t c sl).lcnt = 0) ∧
      (∀ n stg ls, b.br = some (.loop n stg ls) → n ≠ 0 →
        next (b.addr + 1) ∧ (group t c sl).ltop = b.addr + 1 ∧ (group t c sl).qrot = 0 ∧
        (group t c sl).lcnt = 1#1 ++ stg ++ BitVec.ofNat 28 (min (n.toNat + stg.toNat) (2 ^ 28 - 1)) ∧
        ∀ i < 16, readQ (group t c sl) i = if i < 8 then readQ g i else if i = 8 then ls else 0) ∧
      (on → closes → g.lcnt.getLsbD 31 = false →
        (1 < remOf g.lcnt → plain g.ltop ∧ remOf (group t c sl).lcnt = remOf g.lcnt - 1) ∧
        (remOf g.lcnt ≤ 1 → plain (b.addr + 1) ∧ remOf (group t c sl).lcnt = 0)) ∧
      (on → closes → g.lcnt.getLsbD 31 = true → 1 ≤ remOf g.lcnt →
        next (if remOf g.lcnt = 1 then b.addr + 1 else g.ltop) ∧ remOf (group t c sl).lcnt = remOf g.lcnt - 1 ∧
        (group t c sl).lcnt.extractLsb' 28 4 = g.lcnt.extractLsb' 28 4 ∧ (group t c sl).qrot = g.qrot + 7 ∧
        ∀ i < 16, readQ (group t c sl) i = if i < 8 then readQ g i else if 8 < i then readQ g (i - 1)
          else if (g.lcnt.extractLsb' 28 3).toNat + 2 ≤ remOf g.lcnt then readQ g 8 else 0) ∧
      (on → holdsLoop b.word = true ∨ b.word.getLsbD 251 = false ∨ g.hmode = true ∨ remOf g.lcnt = 0 →
        plain (b.addr + 1) ∧ (group t c sl).lcnt = g.lcnt) ∧
      (∀ n, b.br = some (.yield n) → (group t c sl).yieldLeft = b.at_ + n.toNat + 2 - cycleOf s c ∧
        (group t c sl).yielding = decide (cycleOf s c < b.at_ + n.toNat + 2)))

/-- A call at depth 8 and a return at depth 0 trap: the br slot is the one that did not complete, the stack stays, and the record says
that the loop step of the bundle has been performed (R179, R368). -/
def Claims.StackDepthFaults : Prop :=
  ∀ (s : State) (c sl i : Nat),
    let g := group s c sl
    let b := g.bun
    let t := finishBundle s c sl
    b.faults = [] → b.trap = none → b.rti = false → b.word.getLsbD 252 = false → g.hmode = false → (part s g.part).tvec ≠ 0 →
    i < slotsUsed b.word → isBr b.word i = true → (∀ j < i, isBr b.word j = false) →
    ((∃ a, b.br = some (.call a)) ∧ g.rsd = 8) ∨ (b.br = some .ret ∧ g.rsd = 0) →
    (group t c sl).hmode = true ∧ (group t c sl).pc = (part s g.part).tvec.extractLsb' 5 47 ∧
    (group t c sl).fraddr = b.addr.setWidth 64 ∧ (group t c sl).frcause = BitVec.ofNat 64 (i * 2 ^ 8 + 0x0D) ∧
    (∀ j < 6, (group t c sl).frmask.getLsbD j = decide (j ≠ i)) ∧ (lane (group t c sl).frstage 0).getLsbD 55 = true ∧
    (group t c sl).rsd = g.rsd ∧ (group t c sl).rstk = g.rstk ∧ t.mem = s.mem

/-- Where the end of a bundle takes its group (R174 to R185). -/
def Obligations.BundleEndMovesProgramCounter : Prop :=
  Claims.ProgramCounterMoves ∧ Claims.StackDepthFaults

/-- An access that the watermark compare held goes on once the watermark has passed it, and faults as abandoned when its channel
ended without it (R224, R225). -/
def Claims.WatermarkRelease : Prop :=
  ∀ (s : State) (c sl u h n : Nat) (e : QEntry) (a : Access), s.sel = [c, sl, u, h, n] →
    entryAt (group s c sl) (h == 1) u n = some e → e.pend = .mem a → a.held = true → a.stat = .ready →
    (core s c).landed = false →
    (compareAccess s c a.part a.elems = .pass →
      exec .watermarkRelease s = .next (putAccess s c sl u (h == 1)
        { stampPast s c (group s c sl).team a with held := false, sent := coreTime s c })) ∧
    (compareAccess s c a.part a.elems = .abandoned → a.kind ≠ .streamRead →
      exec .watermarkRelease s = .next (accessFault s c sl u (h == 1) n 0x18 (abandonedAt s c a).1))

/-- How an access that waits for its walks or for a watermark goes on (R222, R224, R225, R330, R335, R337, R369). -/
def Obligations.AccessesAreDecided : Prop :=
  Claims.PageWalkCompletes ∧ Claims.WatermarkRelease

/-! ### Streams -/

/-- The oldest pending vector of a read stream is read, all at once or some elements before others, and its entry fills with its
elements once all have been read; the oldest pushed vector of a write stream is written, and its completion time joins PWT (R111, R208,
R230, R231, R235), all of it or some parts before others. A vector that was translated with the handler's privilege is translated anew once its
group has left the handler (R12, R222; that a vector of a stream started in the handler has its privilege there alone is the model's
choice, log 53). -/
def Obligations.StreamVectors : Prop :=
  ∀ (s : State) (c sl u later : Nat), u < 4 → s.sel = [c, sl, u, later] → (core s c).landed = false →
    (∀ n e a, (portOf (group s c sl) false (13 + u)).q.findIdx? isPending = some n →
      entryAt (group s c sl) false (13 + u) n = some e → e.pend = .mem a → a.stat = .ready → a.held = false →
      (a.priv = true → (group s c sl).hmode = true) → compareAccess s c a.part a.elems = .pass → orderOk s c sl a = true → badElem s c a = none →
      unanswered s c a.sent (a.elems.map (·.pa)) = false →
      let some_ (left : Bool) : List Elem := (a.elems.zipIdx.filter (fun x => later.testBit x.2 == left)).map (·.1)
      ∃ (t : State) (e' : QEntry), exec .streamVectorFetch s = .next t ∧
        entryAt (group t c sl) false (13 + u) n = some e' ∧ e'.err = e.err ∧
        e'.pend = (if some_ true = [] then .full else .mem { a with elems := some_ true }) ∧
        e'.val = e.val ||| (readElems s c { a with elems := some_ false } (fun x => BitVec.ofNat 128 x)).2 ∧
        t.mem = s.mem ∧ t.hidden = s.hidden) ∧
    (∀ n e a cz v l, (portOf (group s c sl) false (13 + u)).q.findIdx? isPending = some n →
      entryAt (group s c sl) false (13 + u) n = some e → e.pend = .mem a → a.stat = .ready → a.held = false →
      a.priv = true → (group s c sl).hmode = false →
      let b : Access := { a with priv := false, stat := .walking }
      decideAccess s c (group s c sl).team b true = .fault cz v l →
      exec .streamVectorFetch s = .next (vectorFault (leaseEvent (fillWalks s c b) c a.part cz) c sl (13 + u) n cz v l)) ∧
    (∀ a rest, (tget {} (group s c sl).streams (13 + u)).unwritten = a :: rest → a.stat = .ready → orderOk s c sl a = true →
      unanswered s c a.sent (a.elems.map (·.pa)) = false →
      let r := performStore s c later a
      (r.2.elems = [] →
        exec .streamVectorWrite s = .next (raisePwt (dropAccess r.1 c sl (13 + u) false a.seq) c sl r.2.w)) ∧
      (r.2.elems ≠ [] → exec .streamVectorWrite s = .next (putAccess r.1 c sl (13 + u) false r.2)))


/-! ### Copies -/

/-- Where an element of a copy lands: a physically keyed destination was translated whole at cpgo, and an element of it lands where the
key says, in a page that passed its checks then, whatever the tables say now; a destination without such a key translates and checks
when the element is written (R291, R293). -/
def Claims.WhereElementsLand : Prop :=
  ∀ (s : State) (c : Nat) (q : Chan) (va : Nat),
    (∀ r prop, (q.phys.getD []).find? (fun r => decide (r.2.1 ≤ va) && decide (va < r.2.1 + r.2.2)) = some r →
      tfind q.fixed r.2.1 = some prop → destCheck s c q va = .ok (r.1 + (va - r.2.1)) { prop := prop }) ∧
    (q.phys = none → destCheck s c q va = elemCheck s c (q.own.getD 0) (chanAccess q .copyDst va) true
      { lane := 0, off := 0, len := shapeEs q.rshape, va := va })

/-- One element of a running copy, at the end of a cycle: once its source and destination translate, no earlier channel holds it
and no row of it is leased, the source bytes, read then at their home or read ahead, are written at the destination; an element
written to plain stacked DRAM is counted into the watermark when it is served to every observer, any other at once (R274, R289 to
R292). An element may be read ahead of its turn (R290). CSEQ reaches the number of an operation once its last write has completed
(R251, R289). -/
def Claims.CopyElements : Prop :=
  ∀ (s : State) (c ch : Nat), selAt s 0 = c → selAt s 1 = ch →
    let q := chanOf s c ch
    let es := shapeEs q.rshape
    let src := srcAddr q.rshape q.rsrc q.pos
    let dst := q.rdst + dstOff q.rshape q.pos
    let check (s : State) (k : AccKind) (va : Nat) : ElemOut :=
      elemCheck s c (q.own.getD 0) (chanAccess q k va) true { lane := 0, off := 0, len := es, va := va }
    let runs : Prop := q.st = .landing ∧ q.ring = none ∧ selAt s 2 = 0 ∧ issueOver s c = true ∧ releaseDue s c = false
    let lands : Prop := runs ∧ q.elemW = none ∧ startReady s c q.wait q.minT = true ∧ q.aborting = false ∧
      elemAsks s c q (fun pa => unanswered s c q.sent [pa]) = none
    let source (v : Nat) (s0 : State) : Prop := (tfind q.ahead q.pos = some v ∧ s0 = s) ∨
      (tfind q.ahead q.pos = none ∧ ∃ pa at_, check s .copySrc src = .ok pa at_ ∧ readFails s (homePa s pa).1 es = false ∧
        v = physRead s (some c) (homePa s pa).1 es ∧ s0 = sendOut s (dieOf c) false (homePa s pa).1 es)
    (∀ v s0 pd da, lands → source v s0 → destCheck s0 c q dst = .ok pd da →
      heldByEarlier s0 c q { lane := 0, off := 0, len := es, va := dst, pa := (homePa s0 pd).1 } = false →
      touchesLease s0 (homePa s0 pd).1 es = false →
      let s1 := landWalks s0 c q
      let out := performWrite { s1 with fresh := s1.fresh + 1 } (some c) none (dieOf c) da.prop (leCells (homePa s0 pd).1 es v)
      let s2 := modChan (modCore out.1 c (fun k => { k with closed := true, landed := true })) c ch (fun q =>
        { q with wov := false, wls := false, lastW := tmax q.lastW out.2, elemW := some out.2 })
      exec .copyElementLand s = .next (if regionOf (homePa s0 pd).1 = 0 ∧ da.prop = false then s2 else countElem s2 c ch)) ∧
    (∀ w, runs → q.elemW = some w → elemServed s c w = true → exec .copyElementLand s = .next (countElem s c ch)) ∧
    (∀ k, lands → tfind q.ahead q.pos = none → check s .copySrc src = .absent k →
      exec .copyElementLand s =
        .next (freezeChan (fillWalks s c (chanAccess q .copySrc src)) c ch 1 false k src .copySrc)) ∧
    (∀ j v pa, q.st = .landing → q.ring = none → selAt s 2 = j + 1 → startReady s c q.wait q.minT = true → q.pos + j < shapeN q.rshape →
      readSource s c q (q.pos + j) = .ok v pa → planeDown s pa = false →
      ∃ t : State, exec .copyElementLand s = .next t ∧ tfind (chanOf t c ch).ahead (q.pos + j) = some v ∧ t.mem = s.mem) ∧
    (∀ n w rest, q.aborting = false → q.owed = (n, w) :: rest → w.toNat ≤ (coreTime s c).toNat →
      exec .copyCseqAdvance s = .next (modChan s c ch (fun q => { q with cseq := n, owed := rest })))

/-- A counted element moves the watermark to the next element's destination, or to the end of the guarded range with the last
one, after which the channel is DONE and CSEQ owes its number; CLEN falls by the element (R289). -/
def Claims.CountedElementMovesWatermark : Prop :=
  ∀ (s : State) (c ch : Nat), let q := chanOf s c ch
    let last := decide (shapeN q.rshape ≤ q.pos + 1)
    let t := countElem s c ch
    q.aborting = false → q.halo = false →
    (chanOf t c ch).cwm = (if last then q.gend else q.rdst + dstOff q.rshape (q.pos + 1)) ∧
    (chanOf t c ch).clen = q.clen - shapeEs q.rshape ∧ (chanOf t c ch).pos = q.pos + 1 ∧
    (chanOf t c ch).st = (if last then .done else .landing) ∧ (chanOf t c ch).own = q.own ∧
    (chanOf t c ch).owed = (if last then q.owed ++ [(q.n, q.lastW)] else q.owed) ∧ t.mem = s.mem

/-- How a copy lands element by element, and its watermark and CSEQ (R251, R289 to R293). -/
def Obligations.CopiesLand : Prop :=
  Claims.WhereElementsLand ∧ Claims.CopyElements ∧ Claims.CountedElementMovesWatermark

/-! ### The engine at work -/

/-- The first operation of its kind whose earlier ones on its bank have retired starts: a pass takes in both operand buffers and
is due after its scan and its steps; a drain takes its rows' time and leases the rows of the format that its bank now has, or faults
where that format refuses its mode or its rows go beyond the group's; a load reads the header of its image, and translates the
further pages of a complex one (R266, R269 to R275). While a pass runs, an element of an operand may be read again (R208, R279).
The model's choices among these: a drain's format at its start and an image's further pages by log 21, what a pass reads late by
logs 7 and 11. -/
def Obligations.EngineStarts : Prop :=
  ∀ (s : State) (c : Nat) (o : MxOp), selAt s 0 = c →
    (selAt s 1 = 0 → nextMx s c true = some o → o.kind = .pass → startReady s c (some (o.slot, o.seq)) 0 = true →
      exec .mxPassStart s = .next (putMx s c { readOperand s 1 (readOperand s 0 o) with
        started := true, due := cycleOf s c + (passCycles o.fmt o.depth).1 + (passCycles o.fmt o.depth).2 + 39 })) ∧
    (selAt s 1 ≠ 0 → (core s c).mxops.find? (fun o => o.kind == .pass && o.started) = some o →
      exec .mxPassStart s = .next (putMx s c (readLate s o ((selAt s 1 - 1) % 2) (selAt s 2) (selAt s 3 % 17)))) ∧
    (nextMx s c false = some o → o.kind = .drain →
      let f := if (bankAt s c o.bank).full then (bankAt s c o.bank).fmt else o.fmt
      let rows := (o.t.toNat / 2 ^ 7 % 128 + 1) * drainRpt o.mode (cplxFmt f)
      let fits : Prop := (o.mode = 4 ∨ (o.mode = 3 ↔ cplxFmt f = true)) ∧
        o.row0 + rows ≤ (group s c o.slot).vbase + (group s c o.slot).vrows
      (fits → exec .mxDrainStart s = .next (modCore
        (putMx s c { o with fmt := f, rows := rows, started := true, due := cycleOf s c + rows + 15 }) c (fun k => { k with
          leases := k.leases.filter (fun l => l.2 != o.id) ++ (List.range rows).map (fun r => (o.row0 + r, o.id)) }))) ∧
      (¬fits → exec .mxDrainStart s = .next (failMx s c o 0x04 0))) ∧
    (∀ a, nextMx s c true = some o → o.kind = .load → o.access = some a → a.stat = .ready →
      startReady s c (some (o.slot, o.seq)) 0 = true → a.elems.any (fun e => planeDown s e.pa) = false →
      let va := ((a.elems.head?).map (·.va)).getD 0
      (readFails s (imageAddr a va) 64 = true → exec .mxloadStart s = .next (startLoad s c o a 0)) ∧
      (readFails s (imageAddr a va) 64 = false →
      ((imageHead s c a % 8 ≤ 4 ∧ imageHead s c a / 2 ^ 13 = 0) → cplxFmt (imageHead s c a % 8) = false →
        exec .mxloadStart s = .next (startLoad s c o a (imageHead s c a))) ∧
      (∀ a', (imageHead s c a % 8 ≤ 4 ∧ imageHead s c a / 2 ^ 13 = 0) → cplxFmt (imageHead s c a % 8) = true →
        let full : Access := { a with stat := .walking, elems := lineElems va (imageBytes true) }
        decideAccess s c o.team full true = .ready a' →
        exec .mxloadStart s = .next (startLoad (fillWalks s c full) c o a' (imageHead s c a))) ∧
      (4 < imageHead s c a % 8 ∨ imageHead s c a / 2 ^ 13 ≠ 0 → exec .mxloadStart s = .next (refuseLoad s c o 0x04 va))))

/-- What a bank holds after a pass, whose products are then those of the operands it took in, or an mxload of it has retired
without an error at the end of a cycle: the bank is FULL with the operation's format, reference and cells, TL has counted it, and
the operation has left the order (R270, R271, R275, R278). -/
def Claims.PassAndLoadRetire : Prop :=
  ∀ (s : State) (c : Nat) (o : MxOp) (k : MxKind), selAt s 0 = c →
    (k = .pass ∧ (retiringMx s c .pass).map computePass = some o) ∨ (k = .load ∧ retiringMx s c .load = some o) → o.bad = false →
    ∃ t : State, exec (if k = .pass then .mxPassRetire else .mxloadRetire) s = .next t ∧
      (bankAt t c o.bank).full = true ∧ (bankAt t c o.bank).fmt = o.fmt ∧ (bankAt t c o.bank).ref = o.ref ∧
      (bankAt t c o.bank).cells = o.res ∧ (bankAt t c o.bank).owner = (bankAt s c o.bank).owner ∧
      (core t c).tl = (core s c).tl + 1 ∧ (core t c).mxops = (core s c).mxops.filter (fun p => p.id != o.id) ∧
      t.mem = s.mem ∧ (core t c).acc = (core s c).acc

/-- A drain that retires without an error writes each of its rows from the bank, frees their leases, and leaves every other row
and all of memory; with FREE set its bank is EMPTY afterwards, and the residues stay as they are (R199, R272 to R274, R278). -/
def Claims.DrainRetires : Prop :=
  ∀ (s : State) (c : Nat) (o : MxOp), selAt s 0 = c → retiringMx s c .drain = some o → drainBad s c o = false →
    let rpt := drainRpt o.mode (cplxFmt o.fmt)
    ∃ t : State, exec .mxDrainRetire s = .next t ∧
      (∀ r < o.rows, tget 0 (core t c).acc (o.row0 + r) =
        (drainRow (bankAt s c o.bank) o.mode o.acc (o.t.toNat % 128 + r / rpt) (r % rpt)
          (tget 0 (core s c).acc (o.row0 + r))).1) ∧
      (∀ r, r < o.row0 ∨ o.row0 + o.rows ≤ r → tget 0 (core t c).acc r = tget 0 (core s c).acc r) ∧
      (core t c).leases = (core s c).leases.filter (fun l => l.2 != o.id) ∧
      (core t c).mxops = (core s c).mxops.filter (fun p => p.id != o.id) ∧ t.mem = s.mem ∧
      (bankAt t c o.bank).full = ((bankAt s c o.bank).full && !o.t.getLsbD 21) ∧
      (bankAt t c o.bank).cells = (bankAt s c o.bank).cells ∧ (bankAt t c o.bank).ref = (bankAt s c o.bank).ref

/-- What a pass, an mxload and a drain leave when they retire (R270, R272 to R275, R278). -/
def Obligations.EngineRetires : Prop :=
  Claims.PassAndLoadRetire ∧ Claims.DrainRetires

/-- An mxsave that is next on its bank, with its image translated and its stores in order, leaves the order with its bank as it
was, and changes no byte outside its image for any observer (R219, R275). -/
def Obligations.BankImageIsSaved : Prop :=
  ∀ (s : State) (c : Nat) (o : MxOp) (a : Access), selAt s 0 = c → nextMx s c false = some o → o.kind = .save →
    o.access = some a → a.stat = .ready → orderOk s c o.slot a = true →
    unanswered s c a.sent (a.elems.map (·.pa)) = false → bankBad s c o.bank 0 32768 = false →
    imageBytes (cplxFmt (bankAt s c o.bank).fmt) / 64 ≤ a.elems.length →
    ∃ t : State, exec .mxsaveStart s = .next t ∧ bankAt t c o.bank = bankAt s c o.bank ∧
      (core t c).mxops = (core s c).mxops.filter (fun p => p.id != o.id) ∧
      ∀ (v : Option Nat) (b : Nat), remoteAt s b = false →
        (∀ e ∈ a.elems, ∀ j < 64, Claims.home s (e.pa + j) ≠ Claims.home s b) →
        physByte t v b = physByte s v b

/-! ### Waits of system operations -/

/-- tlbinv drops the translations once earlier writes are done, and the older ones that an access might still use, again once the
walks that it met have ended, and its entry fills once the accesses through what it dropped either time have ended (R333, R334,
R376). -/
def Claims.TlbinvCompletes : Prop :=
  ∀ (s : State) (c sl i n va : Nat) (all : Bool), s.sel = [c, sl, i] →
    let p := (group s c sl).part
    (∀ ws as, ssWait s = some (.tlbinv n all va false ws as) → released s c sl n true = true →
      ∃ t : State, exec .tlbinvComplete s = .next t ∧ t.mem = s.mem ∧
        (∀ d x, x ∈ (core t d).tlb → tlbHit p all va x = false) ∧ (∀ d x, x ∈ (die t d).l2tlb → tlbHit p all va x = false) ∧
        ∀ x ∈ t.past, tlbHit p all va x = false) ∧
    (∀ w ws as, ssWait s = some (.tlbinv n all va true (w :: ws) as) → (∀ x ∈ w :: ws, x ∉ walksOf s p) →
      exec .tlbinvComplete s = .next (tlbDrop (setSsWait s (.tlbinv n all va true [] (as ++ throughDropped s p all va))) p all va)) ∧
    (∀ as, ssWait s = some (.tlbinv n all va true [] as) →
      (∀ a ∈ as, a ∉ (openAccesses s).map (fun x => (x.1, x.2.1, x.2.2.seq))) →
      exec .tlbinvComplete s = .next (fillSs s 0))

/-- replay fixes its set once earlier writes are done, walks its accesses one by one, and its entry fills with their number and
DROP; pub fills once every core of its scope has discarded the range (R337 to R339, R346, R375, R376). -/
def Claims.ReplayAndPubComplete : Prop :=
  ∀ (s : State) (c sl i n va : Nat), s.sel = [c, sl, i] →
    (∀ all todo k drop, ssWait s = some (.replay n all va false todo k drop) → released s c sl n true = true →
      let S := fixS s (dieOf c) (group s c sl).part all va
      exec .replayWalk s = .next (setSsWait S.2.2 (.replay n all va true S.1 S.1.length S.2.1))) ∧
    (∀ all id rest k drop, ssWait s = some (.replay n all va true (id :: rest) k drop) →
      exec .replayWalk s = .next (replayOne (setSsWait s (.replay n all va true rest k drop)) id)) ∧
    (∀ all k drop, ssWait s = some (.replay n all va true [] k drop) →
      exec .replayComplete s = .next (fillSs s (BitVec.ofNat 128 (k % 2 ^ 32 + drop.toNat * 2 ^ 32)))) ∧
    (∀ scope len, ssWait s = some (.pub n scope va len) → released s c sl n false = true →
      exec .pubComplete s = .next (fillSs ((scopeCores s c sl scope).foldl (fun s x =>
        discardLines s c (group s c sl).part va len x) s) 0))

/-- How tlbinv, replay and pub complete (R334, R337 to R339, R346, R375, R376). -/
def Obligations.SystemWaitsComplete : Prop :=
  Claims.TlbinvCompletes ∧ Claims.ReplayAndPubComplete

/-! ### Launch and scheduling -/

/-- The oldest push of a group whose wait is over, in its turn among the pushes of the cycle: with room in the target's queue and none
of the target's records in segments, both as the target's cycle began and the pushes accepted since have left them, and none handed
over, it takes the next ticket and the last place of the queue; else it is handed over with its ticket. Outside Newt mode a hand-over that finds 64 others fills with status 2. A target out of service gives status 3
(R309, R313, R316, R424). -/
def Claims.PushIsAccepted : Prop :=
  ∀ (s : State) (c sl i n tc rcd : Nat) (e : QEntry), s.sel = [c, sl, i] → entryAt (group s c sl) false 22 i = some e →
    e.pend = .push n tc rcd → released s c sl n true = true →
    ((portOf (group s c sl) false 22).q.take i).all (fun x => match x.pend with | .push _ _ _ => false | _ => true) = true →
    pushTurn s c sl tc = true →
    let room : Prop := (core s tc).plq0.1 + (core s tc).pushed < 4 ∧ (core s tc).plq.length < 4 ∧ (core s tc).plq0.2 = 0 ∧
      handing s tc = false
    (coreUp s tc = true → room →
      ∃ (t : State) (e' : QEntry), exec .lnPushAccept s = .next t ∧
        (core t tc).plq = (core s tc).plq ++ [{ rcd := rcd, ticket := (core s tc).ptk, part := (group s c sl).part
                                                parent := some (group s c sl).team, pusher := some c }] ∧
        (core t tc).ptk = (core s tc).ptk + 1 ∧ (core t tc).pushed = (core s tc).pushed + 1 ∧
        entryAt (group t c sl) false 22 i = some e' ∧ e'.pend = .accepted tc 0 (core s tc).ptk ∧ t.mem = s.mem) ∧
    (coreUp s tc = true → ¬room →
      modeOf s .sched (dieOf tc) ≠ 0 → 64 ≤ (die s (dieOf tc)).hoq.length →
      exec .lnPushAccept s = .next (notePush (modGroup s c sl (fun g =>
        fillEntry g (cycleOf s c) false 22 i (splat (pushWord s tc 2 0)))) c sl tc)) ∧
    (coreUp s tc = true → ¬room →
      modeOf s .sched (dieOf tc) = 0 ∨ (die s (dieOf tc)).hoq.length < 64 →
      ∃ (t : State) (e' : QEntry), exec .lnPushAccept s = .next t ∧ (core t tc).plq = (core s tc).plq ∧
        (core t tc).ptk = (core s tc).ptk + 1 ∧ entryAt (group t c sl) false 22 i = some e' ∧
        e'.pend = .pushed tc rcd (core s tc).ptk ∧
        (die t (dieOf tc)).hoq = (die s (dieOf tc)).hoq ++
          [{ core := tc, ticket := (core s tc).ptk, rcd := rcd, pcore := c, pslot := sl, part := (group s c sl).part
             parent := some (group s c sl).team }]) ∧
    (coreUp s tc = false → exec .lnPushAccept s = .next (notePush (modGroup s c sl (fun g =>
      setEntry g false 22 i { e with pend := .accepted tc 3 0 })) c sl tc))

/-- The entry of a push that a core accepted fills as the core's cycle ends, with the core's queue as it then stands: a head that
the dispatcher took in the cycle has left it, and the pushes of the next cycle are decided on what it holds then. What asked a core out
of service fills with the pushing core's cycle (R313, R450). -/
def Claims.AcceptedPushAnswers : Prop :=
  ∀ (s : State) (c d sl i x status : Nat) (tk : BitVec 32) (e : QEntry), selAt s 0 = c → coreRuns s c = true →
    issueOver s c = true → releaseDue s c = false →
    (∀ p ∈ (core s c).groups, dueNow p.2 (core s c).cycle = false ∧ fallsNow s c p.1 = false) →
    entryAt (group s d sl) false 22 i = some e → e.pend = .accepted x status tk → x = c ∨ (d = c ∧ coreUp s x = false) →
    ∃ (t : State) (e' : QEntry), exec .coreCycle s = .next t ∧ entryAt (group t d sl) false 22 i = some e' ∧ e'.pend = .full ∧
      e'.val = splat (pushWord t x status tk) ∧ (core t c).plq = (core s c).plq.drop (core s c).took.toNat ∧
      (core t c).took = false ∧ (core t c).plq0 = ((core t c).plq.length, (core t c).pls) ∧ (core t c).pushed = 0

/-- The scheduler Newt writes the oldest handed-over record as an entry of its core's segments in the die's stacked DRAM, in a new
segment only while the die has one free, and moves the oldest segment entry, as the memory holds it, into a free place of the core's
queue (R310, R311, R313); of entries in error log 53 says what becomes. -/
def Claims.SegmentsAreServed : Prop :=
  ∀ s : State,
    (∀ h rest, (die s (selAt s 0)).hoq = h :: rest → modeOf s .sched (selAt s 0) = 0 →
      (∀ n, segPlace s h.core = some n →
        let e : SegEntry :=
          { rcd := h.rcd, ticket := h.ticket, part := h.part, parent := h.parent, pusher := some h.pcore, place := n }
        let s1 := putSegEntry { s with fresh := s.fresh + 1 } (selAt s 0) e
        exec .segmentLink s = .next (dropHandover (fillPushed (setSegs s1 h.core (appendSeg (segsOf s1 h.core) e)) h 1) h)) ∧
      (segPlace s h.core = none →
        exec .segmentLink s = .next (unissue (dropHandover (fillPushed s h 2) h) h.core h.ticket))) ∧
    (∀ c n, segPlace s c = some n → n / 64 ∈ freeSegs (die s (dieOf c)) ∨
      ∃ x e, (segsOf s c).getLast? = some x ∧ x.getLast? = some e ∧ x.length < 64 ∧ n / 64 = e.place / 64) ∧
    (∀ c, segPlace s c = none → freeSegs (die s (dieOf c)) = []) ∧
    (∀ e l, modeOf s .sched (dieOf (selAt s 0)) = 0 → (core s (selAt s 0)).plq.length < 4 →
      takeSeg ((segsOf s (selAt s 0)).map (fun l => l.map (segEntryNow s (dieOf (selAt s 0))))) = (some e, l) →
      (∀ x ∈ (segsOf s (selAt s 0)).flatten, segFails s (dieOf (selAt s 0)) x = false) →
      ∃ t : State, exec .segmentRefill s = .next t ∧ (core t (selAt s 0)).plq = (core s (selAt s 0)).plq ++ [e] ∧ t.mem = s.mem)

/-- The ln operations, and how a push is accepted, answered, handed over, linked and refilled (R309 to R314, R316, R424, R450). The
model's choices among these, by log 17: a push is decided on the occupancy at the start of the cycle also where no head is taken in
it, a refused hand-over moves the later tickets down, a cancelled hand-over fills with status 1,
ln.stat shows the core as it is at its issue, and which free segment of the pool is taken. -/
def Obligations.PushesAndSegments : Prop :=
  Claims.LaunchOperations ∧ Claims.PushIsAccepted ∧ Claims.AcceptedPushAnswers ∧ Claims.SegmentsAreServed

/-- A free dispatcher takes the record that became ready first, of those that stand behind no other one of their queue: the head
of a core's queue leaves it at the end of the cycle; a valid record is held for placement, or joins the timetable; one that breaks a
rule is finished with its status; one that cannot be read or that names a known grid posts an event, but a suspended grid is resumed
(R308, R349, R358, R361, R450). In a tick in which FRAME is due to advance it takes after the advance, and while a deadline is open no
record of the timetable, whose place log 30 settles. -/
def Obligations.DispatcherTakesRecord : Prop :=
  ∀ (s : State) (d : Nat) (r : Ready), selAt s 0 = d → (die s d).held = [] →
    (die s d).ready.find? (fun r => !behindQueue s d r) = some r → dieUp s d = true → r.stamp ≤ cycleOf s (readyClock d r) →
    (s.pkg.fdue = true → deadlineOpen s.pkg ≠ [] ∧ isTimed s d r = false) →
    let s1 := modDie s d (fun x => { x with ready := x.ready.erase r })
    (∀ c, r.core = some c → coreRuns s c = true →
      exec .dispatcherTake s = .next (launch (modCore s1 c (fun k => { k with took := true })) d r)) ∧
    (r.core = none → r.skein = false →
      (gridKnown s1 r.part r.rcd = true → suspended s1 (gridKey r.part r.rcd) = false →
        exec .dispatcherTake s = .next (postEvent s1 r.part d 4 (r.rcd + 7 * 2 ^ 64))) ∧
      (gridKnown s1 r.part r.rcd = true → suspended s1 (gridKey r.part r.rcd) = true →
        exec .dispatcherTake s = .next (resumeGrid s1 d r)) ∧
      (gridKnown s1 r.part r.rcd = false → readRecord s1 d r.part r.rcd = none →
        exec .dispatcherTake s = .next (postEvent s1 r.part d 4 (r.rcd + 2 * 2 ^ 64))) ∧
      (∀ lr st, gridKnown s1 r.part r.rcd = false → readRecord s1 d r.part r.rcd = some (lr, st) →
        (refusal s1 r lr st ≠ 0 → exec .dispatcherTake s = .next (finishRecord s1 d r.part r.rcd lr (refusal s1 r lr st))) ∧
        (refusal s1 r lr st = 0 → lr.flags.getLsbD 1 = true → exec .dispatcherTake s = .next (addSkein s1 d r lr)) ∧
        (refusal s1 r lr st = 0 → lr.flags.getLsbD 1 = false →
          ∃ t : State, exec .dispatcherTake s = .next t ∧ (die t d).held = [{ rcd := r.rcd, src := r }] ∧
            (grid t (gridKey r.part r.rcd)).lr = lr ∧ t.mem = s.mem)))

/-- The dispatcher's choice for the cluster that it places: the first candidate that fits takes it, where what the cycle has freed still
counts as taken; with none it waits, and a quota or resource wait scans again only once something of its kind has been freed; a wait on fragmentation ends after 16,384 cycles, when FRAG counts it, and goes on with the
next candidate that lacks no more than a run, the first of all after the last one, begun anew; a candidate that is no longer allowed or
in service is given up (R354 to R358, R386). -/
def Claims.CandidatesAreTested : Prop :=
  ∀ (s : State) (d : Nat) (p : Placing) (rest : List Placing), selAt s 0 = d → (die s d).held = p :: rest →
    let key := gridKey p.src.part p.rcd
    let lr := (grid s key).lr
    let os := candidates s lr.part (homeOf s lr (grid s key).src (grid s key).placed) lr.w lr.h
    (restoreChoice s d (classOf s lr) = none → p.wait ≠ .fragmentation ∨ candidateUp s lr p.cand = false → stillWaits p = false →
      (∀ l, firstFitting s lr os = some l → exec .teamPlacement s = .next (placed s d key lr l)) ∧
      (firstFitting s lr os = none → exec .teamPlacement s = .next (startWait s d lr os))) ∧
    (restoreChoice s d (classOf s lr) = none → stillWaits p = true → exec .teamPlacement s = .next s) ∧
    (∀ l, restoreChoice s d (classOf s lr) = none → p.wait = .fragmentation →
      candidateUp s lr p.cand = true → fitAll s (clusterNeeds lr p.cand) = .fits l →
      exec .teamPlacement s = .next (placed s d key lr l)) ∧
    (p.wait = .fragmentation → p.since + 16384 ≤ cycleOf s p.cand →
      (∀ l, fitAll s (clusterNeeds lr p.cand) ≠ .fits l) →
      let s1 := modCore s p.cand (fun k => { k with
        frag := if k.frag = BitVec.allOnes 32 then k.frag else k.frag + 1 })
      let home := homeOf s1 lr (grid s key).src (grid s key).placed
      let os := (candidates s1 lr.part home lr.w lr.h).filter (waitsOrFits s1 lr)
      let later (o : Nat) : Bool := decide (candidateRank home p.cand < candidateRank home o)
      (∀ o, os.find? later = some o ∨ (os.find? later = none ∧ os.head? = some o) →
        exec .fragmentationWaitExpiry s = .next (setPlacing s1 d (fun p => { p with cand := o, since := cycleOf s1 o }))) ∧
      (os = [] → exec .fragmentationWaitExpiry s = .next (setPlacing s1 d (fun p => { p with wait := .none }))))

/-- What a core has freed in its cycle counts as taken till the cycle's end, and then wakes the waits that it may serve: a resource wait
of a partition that may use the die, and a quota wait of the partition that freed it (R357). -/
def Claims.FreedResourcesCount : Prop :=
  ∀ (s : State) (c : Nat),
    (∀ (f : Freed) (i : Nat), f ∈ (core s c).freed → i ∈ f.slots → ∀ n a, allocOn s c n = some a → ∀ p ∈ a.slots, p.2 ≠ i) ∧
    (core (endFreed s c) c).freed = [] ∧
    (∀ d, (die (endFreed s c) d).held = (die s d).held.map (fun p =>
      if (core s c).freed.any (fun f => wakesFor s f.part (dieOf c) p) then { p with rescan := true } else p))

/-- How a cluster finds its place, and when freed resources count (R354 to R358, R386). -/
def Obligations.DispatcherPlacesCluster : Prop :=
  Claims.CandidatesAreTested ∧ Claims.FreedResourcesCount

/-- The end of work: an ended group whose operations are done leaves its slot and waits of channels on it become waits for a tick;
a grid whose teams have retired is finished with status 0 once its writes have completed, and forgotten (R23 to R25, R250,
R318). -/
def Obligations.WorkRetires : Prop :=
  ∀ s : State,
    (∀ (c sl : Nat) (g : Group), selAt s 0 = c → selAt s 1 = sl → group? s c sl = some g → g.ended = true → opsDone s c sl g = true →
      let s1 := noteFreed (modCore s c (fun k => { k with
        groups := tdel k.groups sl, chans := k.chans.map (fun q => (q.1, dropWait sl (g.pwt + 2) q.2)) })) c
        { part := g.part, slots := [sl], blocks := [(g.gbase, g.gcount / 8)] }
      exec .groupSlotFree s = .next (retireTeam (modGrid (modTeam s1 g.team (fun t => { t with slots := tdel t.slots g.gid }))
        (team s1 g.team).grid (fun x => { x with lastW := tmax x.lastW g.pwt })) g.team)) ∧
    (∀ g w, tfind s.grids (gridKey (selAt s 0) (selAt s 1)) = some g → g.ending = some w →
      (g.lastW + 2).toNat ≤ (gtime s g.die).toNat →
      exec .gridCompletion s = .next { finishRecord s g.die g.src.part g.src.rcd g.lr 0 with
        grids := tdel s.grids (gridKey (selAt s 0) (selAt s 1)) })

/-- Saves: at the end of a time slice, whose length is that of its placement, a team that another waits for is asked to save in Newt mode, else its slice begins anew; a
parent whose groups all wait on its children's counters is swapped out; a team at rest leaves its core with its image; and a
swapped-out parent whose counter has come joins the front of the restore list (R359, R360, R364). -/
def Claims.TeamsAreSaved : Prop :=
  ∀ (s : State) (tid : Nat) (tm : Team), selAt s 0 = tid → tfind s.teams tid = some tm →
    (tm.retired = false → tm.quantum ≠ 0 → tm.saveFor = 0 →
      tm.slice.toNat + tm.quantum ≤ (coreTime s tm.core).toNat →
      let waits := s.dies.any (fun d => d.2.held.any (waitsForCore s tm))
      (modeOf s .sched (dieOf tm.core) = 0 → waits = true → exec .timeSliceExpiry s = .next (requestSave s tid 1 false)) ∧
      (modeOf s .sched (dieOf tm.core) ≠ 0 ∨ waits = false →
        exec .timeSliceExpiry s = .next (modTeam s tid (fun t => { t with slice := coreTime s tm.core })))) ∧
    (s.dies.any (fun d => d.2.held.any (fun p => waitsOnDie s (dieOf tm.core) p && p.src.parent == some tid)) = true →
      modeOf s .sched (dieOf tm.core) = 0 → tm.saveFor = 0 → tm.retry = 0 → swapEligible s tid = true →
      exec .swapOut s = .next (requestSave s tid 3 false)) ∧
    (clusterTeams s tm.grid tm.cluster = [(tid, tm)] → tm.retired = false → teamSaves s tid tm = true →
      ∃ t : State, exec .teamSave s = .next t ∧ t.images = s.images ++ [packTeam s tid tm] ∧
        (∀ p ∈ tm.slots, group? t tm.core p.2 = none) ∧ tfind t.teams tid = none) ∧
    (∀ im, s.images.find? (fun x => x.tid == tid) = some im → im.cause = 3 → im.listed = false →
      (clusterImages s im).any (parentReady s) = true →
      let ids := (clusterImages s im).map (·.tid)
      exec .swappedParentWake s = .next (modDie { s with images := s.images.map (fun x => if ids.contains x.tid then { x with listed := true } else x) }
        (takingDie s im.team.part (dieOf im.team.core)) (fun d => { d with restore := ids ++ d.restore })))

/-- A dispatcher restores the first saved cluster of its list that fits: its teams take their places on the cores of the candidate,
then every channel is re-keyed, then their accesses and waits go on (R358, R363, R390). -/
def Claims.TeamsAreRestored : Prop :=
  ∀ (s : State) (d : Nat) (l : List (Image × Nat × Alloc)), selAt s 0 = d →
    let s1 := refuseImages s d
    let cls := match (die s1 d).held with | p :: _ => classOf s1 (grid s1 (gridKey p.src.part p.rcd)).lr | [] => 0
    restoreChoice s1 d cls = some l →
    exec .teamRestore s = .next (retrySaves
      (l.foldl (fun s x => wakeImage s x.1 x.2.1 x.2.2) (l.foldl (fun s x => rekeyChans s x.1 x.2.1 x.2.2)
        (l.foldl (fun s x => seatImage s x.1 x.2.1 x.2.2) s1)))
      ((l.head?.map (fun x => x.1.team.part)).getD 0))

/-- When teams are saved and restored, and what a save leaves (R358 to R360, R363, R364). -/
def Obligations.TeamsAreSavedAndRestored : Prop :=
  Claims.TeamsAreSaved ∧ Claims.TeamsAreRestored

/-! ### Host command queues -/

/-- A doorbell moves PI, and a value below it or too far ahead is counted in ERR; a consumer's write moves CI within what has been
produced (R303, R326). -/
def Claims.QueuePointersMove : Prop :=
  ∀ (s : State) (i j v : Nat), s.sel = [i, j, v] →
    (i < 8 → j < 64 → (hcq s i j).enabled = true → v < 2 ^ 64 →
      ((hcq s i j).pi.toNat ≤ v → v ≤ (hcq s i j).ci.toNat + (hcq s i j).n →
        exec .hcqDoorbell s = .next (modHcq s i j (fun x => { x with pi := BitVec.ofNat 64 v }))) ∧
      (v < (hcq s i j).pi.toNat ∨ (hcq s i j).ci.toNat + (hcq s i j).n < v →
        ∃ t : State, exec .hcqDoorbell s = .next t ∧ (hcq t i j).pi = (hcq s i j).pi ∧
          (hcq t i j).err.toNat = min ((hcq s i j).err.toNat + 1) (2 ^ 32 - 1))) ∧
    (let r : DevRing := tget {} s.rings (ringKey (i % 8) j)
     r.base.isSome = true → r.ci.toNat ≤ v → v ≤ r.pi.toNat →
      ∃ t : State, exec .ringCiWrite s = .next t ∧ (tget {} t.rings (ringKey (i % 8) j)).ci.toNat = v ∧
        (tget {} t.rings (ringKey (i % 8) j)).pi = r.pi ∧ t.mem = s.mem)

/-- The host commands at the head of a queue that nothing holds (R305, R306, R361): each is taken, and NOP does no more, LAUNCH
hands its record to the dispatcher, WAITCTR holds the queue until its counter is reached, SIGNAL adds to a word or posts an event,
and PREEMPT withdraws its grid; a SIGNAL waits for a hidden write of its word (R241). An entry that breaks the format is skipped with
an event. The die that takes a record or an event of a host queue, the lowest that the partition may use in service or under repair, is
the model's choice (log 25); so are that an entry in error is skipped (log 53), and that a PREEMPT of a record which still waits for a
dispatcher launches it first (log 44), not before a FRAME advance that is due (log 30). -/
def Obligations.HostCommandsRun : Prop :=
  ∀ (s : State) (p q : Nat), s.sel = [p, q] → commandReady s p q = true →
    let w := command s (hcq s p q)
    let s1 := takeCommand s p q
    (hcq s1 p q).ci = (hcq s p q).ci + 1 ∧
    (cmdBad w = true → exec .nop s = .next (postEvent s1 p (serving s1 p) 4 (cmdWord0 w + 2 * 2 ^ 64))) ∧
    (cmdBad w = false → cmdOp w = 0 → exec .nop s = .next s1) ∧
    (cmdBad w = false → cmdOp w = 1 →
      exec .launch s = .next (queueReady s1 (serving s1 p)
        { rcd := cmdWord0 w, part := p, queue := some (hcqKey p q), num := (hcq s1 p q).ci.toNat })) ∧
    (cmdBad w = false → cmdOp w = 2 → exec .waitctr s = .next (modHcq s1 p q (fun x => { x with
      waitctr := some (cmdWord0 w, BitVec.ofNat 64 (cmdWord1 w)) }))) ∧
    (cmdBad w = false → cmdOp w = 3 → addWaits s (serving s p) p (cmdWord0 w) = true → exec .signal s = .next s) ∧
    (cmdBad w = false → cmdOp w = 3 → addWaits s (serving s p) p (cmdWord0 w) = false →
      (∀ t v, devAdd s1 (serving s1 p) p (cmdWord0 w) (BitVec.ofNat 64 (cmdWord1 w)) = some (t, v) → exec .signal s = .next t) ∧
      (devAdd s1 (serving s1 p) p (cmdWord0 w) (BitVec.ofNat 64 (cmdWord1 w)) = none →
        exec .signal s = .next (postEvent s1 p (serving s1 p) 8 (cmdWord0 w)))) ∧
    (cmdBad w = false → cmdOp w = 4 → modeOf s .sched (serving s p) = 0 →
      (preemptWaits s p (cmdWord0 w) = false → exec .preempt s = .next (preemptGrid s1 (serving s1 p) p (cmdWord0 w))) ∧
      (preemptWaits s p (cmdWord0 w) = true → exec .preempt s = .next s))

/-- A queue that WAITCTR holds goes on once its counter has reached the value (R305). -/
def Claims.CommandQueueResumes : Prop :=
  ∀ (s : State) (p q va v : Nat) (n : BitVec 64), s.sel = [p, q] → (hcq s p q).waitctr = some (va, n) → va % 8 = 0 →
    devRead s (serving s p) p va 8 = some v → n.toNat ≤ v → modeOf s .sched (serving s p) ≠ 2 →
    ∃ t : State, exec .commandQueueResume s = .next t ∧ (hcq t p q).waitctr = none ∧ (hcq t p q).ci = (hcq s p q).ci ∧
      (hcq t p q).pi = (hcq s p q).pi ∧ t.mem = s.mem

/-- The pointers of queues and rings, and the end of a WAITCTR (R303, R305, R326). -/
def Obligations.CommandQueuesMove : Prop :=
  Claims.QueuePointersMove ∧ Claims.CommandQueueResumes

/-! ### The host at the BARs -/

/-- BAR2: a write of up to 8 bytes of populated stacked DRAM is performed as one by an outside agent of its link; a read gives the
bytes little-endian, and an AtomicOp the old value; an address that is not populated is answered as unsupported. A register of
BAR0, by its number in the model (log 48), is read without effect (R402, R421, R423 to R425). -/
def Obligations.HostReachesMemory : Prop :=
  ∀ (s : State) (l a n : Nat), linkUp s l = true →
    (∀ v, s.sel = [l, 1, a, n, v] → bar2Ok s a n = true →
      exec .bar2Access s = .next (performWrite s none (some l) (homeDie a) false (leCells a n v)).1) ∧
    (s.sel = [l, 0, a, n] → bar2Ok s a n = true → failingAt s a n = false →
      exec .bar2Access s = .next (emit s (.readData l (BitVec.ofNat 64 (physRead s none a n))))) ∧
    (∀ i j, s.sel = [l, 3, a, n, i, j] →
      exec .bar2Access s = .next (emit s (.readData l (BitVec.ofNat 64 (registerRead s a i j / 2 ^ (64 * n)))))) ∧
    (s.sel = [l, 0, a, n] → bar2Ok s a n = false → exec .bar2Access s = .next (emit s (.unsupported l))) ∧
    (∀ op x y, s.sel = [l, op, 1, a, x, y] → bar2Ok s a 8 = true → a % 8 = 0 → failingAt s a 8 = false → hiddenIn s a 8 = false →
      exec .bar2Atomicop s = .next (emit (outsideAtomic s l a 8 (atomicOpNo op) false x y).1
        (.readData l (BitVec.ofNat 64 (physRead s none a 8)))))

/-- The registers of a partition take the values that keep their limits; new quotas wake the partition's quota waits and leave the teams
that stand, with the slices that their placement gave them, as they are; a new page-table root drops every translation of the
partition from every TLB of the package, saves that found no room are tried again in a new save area, and PFERR is cleared on request
(R327, R351, R357, R367, R388). The digests by which MR4 is extended are free (log 12); that a value beyond the limits, or a quota while they
are frozen, leaves everything as it was is the model's choice (logs 26 and 35). -/
def Obligations.PartitionRegistersAreWritten : Prop :=
  ∀ (s : State) (p v : Nat), p < 8 → mgBusy s = false →
    (s.sel = [p, 0, v] → quotasOpen s = true → pquotaOk (BitVec.ofNat 64 v) = true →
      ∃ t : State, exec .partitionQuotaWrite s = .next t ∧ (part t p).pquota = BitVec.ofNat 64 v ∧ t.mem = s.mem ∧
        t.teams = s.teams ∧ ∀ d, (die t d).held =
          (die s d).held.map (fun x => if x.src.part = p ∧ x.wait = .quota then { x with rescan := true } else x)) ∧
    (s.sel = [p, 1, v] → quotasOpen s = true → pobqOk (BitVec.ofNat 32 v) = true →
      ∃ t : State, exec .partitionQuotaWrite s = .next t ∧ (part t p).pobq = BitVec.ofNat 32 v ∧ t.mem = s.mem) ∧
    (s.sel = [p, v] → (BitVec.ofNat 64 v).extractLsb' 52 12 = 0 → (BitVec.ofNat 64 v).extractLsb' 0 16 = 0 →
      ∃ t : State, exec .ptrootWrite s = .next t ∧ (part t p).ptroot = BitVec.ofNat 64 v ∧
        (∀ c e, e ∈ (core t c).tlb → e.part ≠ p) ∧ (∀ d e, e ∈ (die t d).l2tlb → e.part ≠ p) ∧ (∀ e ∈ t.past, e.part ≠ p) ∧
        t.mem = s.mem) ∧
    (s.sel = [p, 1, v] → (BitVec.ofNat 64 v).extractLsb' 52 12 = 0 → (BitVec.ofNat 64 v).extractLsb' 16 5 = 0 →
      exec .tvecSavebaseWrite s =
        .next (retrySaves (mrChange (modPart s p (fun x => { x with savebase := BitVec.ofNat 64 v })) 4) p)) ∧
    (s.sel = [p, 0, v] → (BitVec.ofNat 64 v).extractLsb' 52 12 = 0 → (BitVec.ofNat 64 v).extractLsb' 0 5 = 0 →
      ∃ t : State, exec .tvecSavebaseWrite s = .next t ∧ (part t p).tvec = BitVec.ofNat 64 v ∧ t.mem = s.mem) ∧
    (s.sel = [p] → ∃ t : State, exec .pferrClear s = .next t ∧ (part t p).pferr = 0 ∧ (part t p).tvec = (part s p).tvec ∧
      t.mem = s.mem)

/-- Plain registers of BAR0 take their values within their limits: a command queue's base, size and enable, a device ring's base,
the Skein registers and the nonce of a quote (R303, R304, R347, R438). The numbers of the registers are the model's (log 2), and that a queue
size beyond its limits leaves everything as it was is its choice (log 35). -/
def Claims.PlainRegistersAreWritten : Prop :=
  ∀ (s : State) (i j v : Nat),
    (s.sel = [0, i, j, v] → i < 8 → j < 64 → v % 64 = 0 →
      exec .registerWrite s = .next (modHcq s i j (fun x => { x with base := v }))) ∧
    (s.sel = [1, i, j, v] → i < 8 → j < 64 →
      (∀ e, 4 ≤ e → e ≤ 16 → v = 2 ^ e → exec .registerWrite s = .next (modHcq s i j (fun x => { x with n := v }))) ∧
      ((∀ e, 4 ≤ e → e ≤ 16 → v ≠ 2 ^ e) → exec .registerWrite s = .next s)) ∧
    (s.sel = [2, i, j, v] → i < 8 → j < 64 → exec .registerWrite s = .next (modHcq s i j (fun x => { x with enabled := v % 2 == 1 }))) ∧
    (s.sel = [3, i, j, v] → i ≤ 16 → mgBusy s = false → v % 64 = 0 →
      exec .registerWrite s = .next (modRing s i (fun r => { r with base := some v, losing := false }))) ∧
    (s.sel = [9, i, j, v] → exec .registerWrite s = .next (modPkg s (fun k => { k with qnonce := BitVec.ofNat 384 v }))) ∧
    (s.sel = [10, i, j, v] → 1000 ≤ v → v < 2 ^ 32 →
      exec .registerWrite s = .next (modPkg s (fun k => { k with skfnext := BitVec.ofNat 32 v }))) ∧
    (s.sel = [11, i, j, v] → i < 8 → exec .registerWrite s = .next (modPart s i (fun p => { p with sken := true }))) ∧
    (s.sel = [12, i, j, v] → i < 8 → 1 ≤ v → v ≤ 255 →
      exec .registerWrite s = .next (modPart s i (fun p => { p with skdspan := BitVec.ofNat 8 v })))

/-- Performance selectors are written unless a reserved bit is set, counters are cleared, and a measurement register that the host
may extend becomes the SHA-384 of its old value and the host's 48 bytes (R384, R386, R388). That SHA-384 is FIPS 180-4's and takes both
values big-endian is the model's (log 12). -/
def Claims.MonitorsAndMeasurements : Prop :=
  ∀ (s : State) (c i v : Nat), c < 576 → i < 16 →
    (s.sel = [c, i, 0, v] → v < 2 ^ 13 →
      exec .pmselWrite s = .next (modCore s c (fun k => { k with pmsel := tput k.pmsel i (BitVec.ofNat 32 v) }))) ∧
    (s.sel = [c, i, 0, v] → 2 ^ 13 ≤ v → exec .pmselWrite s = .next s) ∧
    (s.sel = [c, i, 1, v] → exec .pmselWrite s = .next (modCore s c (fun k => { k with pmc := tput k.pmc i 0 }))) ∧
    (s.sel = [c] → exec .fragmentationCounterClear s = .next (modCore s c (fun k => { k with frag := 0 }))) ∧
    (∀ (r : Nat) (bytes : List Nat), r = 6 ∨ r = 7 → bytes.length = 48 → s.sel = r :: bytes →
      ∃ t : State, exec .mrExtendRequest s = .next t ∧
        tget 0 t.pkg.mr r = Sha.hash384 (Sha.beBytes 48 (tget 0 s.pkg.mr r).toNat ++
          Sha.beBytes 48 (BitVec.ofNat 384 (Sha.beNat (bytes.map (BitVec.ofNat 8)))).toNat) ∧ t.mem = s.mem)

/-! ### Service by the host in host-assisted mode -/

/-- In host-assisted mode of the fault function the host drops, delivers and replays the faults of a die's buffer (R423). -/
def Claims.HostServesFaults : Prop :=
  ∀ (s : State) (d : Nat), modeOf s .fault d ≠ 0 →
    (s.sel = [d] → exec .fbpop s = .next (popFault s d) ∧ ((die s d).joined = [] → (die (popFault s d) d).fb = (die s d).fb.drop 1)) ∧
    (∀ e rest c sl, s.sel = [d] → (die s d).fb = e :: rest → deliveryOf s e = .to c sl →
      exec .fbdeliv s = .next (postLate (modDie (popFault s d) d (fun x => { x with fbRefused := false })) c sl
        (bFault (asRemoved s d e) (die s d).drop))) ∧
    (∀ e rest, s.sel = [d] → (die s d).fb = e :: rest → deliveryOf s e = .waits →
      exec .fbdeliv s = .next (modDie s d (fun x => { x with fbRefused := true }))) ∧
    (∀ v, s.sel = [d, v] → (die s d).fbTodo = [] →
      let S := fixS s d (v % 8) (v.testBit 3) (v / 2 ^ 12 % 2 ^ 52)
      exec .fbrpl s = .next (modDie S.2.2 d (fun x => { x with fbTodo := S.1, fbCount := S.1.length, fbDrop := S.2.1 })))

/-- In host-assisted mode of the scheduler the host launches and preempts grids, answers hand-overs, writes PLS, fills hardware
queues and finishes cancelled records; a record whose partition's scheduler is not in that mode is finished with status 3; and the list
of cancels is popped in every mode (R361, R365, R424). The partition of a record that the host names by its address alone is the model's
choice (log 27). -/
def Claims.HostServesScheduling : Prop :=
  ∀ (s : State) (d : Nat),
    (s.sel = [d] → exec .hcancpop s = .next (modDie s d (fun x => { x with hcanc := x.hcanc.drop 1 }))) ∧
    (hostSched s d = true →
    (∀ v p, s.sel = [d, v] → recordPart s d (v % 2 ^ 52) = some p → hostSched s (serving s p) = true →
      exec .hlaunch s = .next (queueReady (modDie (hostResume s (gridKey p (v % 2 ^ 52))) d
          (fun x => { x with hlaunched := (die s d).hlaunched + 1 })) d
        { rcd := v % 2 ^ 52, part := p, queue := some (hostQueue d), num := (die s d).hlaunched })) ∧
    (∀ v p, s.sel = [d, v] → recordPart s d (v % 2 ^ 52) = some p → hostSched s (serving s p) = false →
      exec .hlaunch s = .next (finishUnrun s d p (v % 2 ^ 52) 3)) ∧
    (∀ v p, s.sel = [d, v] → (List.range 8).find? (fun p => recordKnown s p (v % 2 ^ 52)) = some p →
      preemptWaits s p (v % 2 ^ 52) = false → exec .hpreempt s = .next (preemptGrid s d p (v % 2 ^ 52))) ∧
    (∀ lo st h, s.sel = [d, lo, st] → st = 1 ∨ st = 2 →
      (die s d).hoq.find? (fun h => h.core == lo % 2 ^ 10 && h.ticket.toNat == lo / 2 ^ 32 % 2 ^ 32) = some h →
      exec .hoqdone s = .next (setHstat (answerHandover s d h st) d 1 false)) ∧
    (∀ v, s.sel = [d, v] → v % 2 ^ 10 < 576 → dieOf (v % 2 ^ 10) = d →
      exec .plsw s = .next (modCore s (v % 2 ^ 10) (fun k => { k with pls := v / 2 ^ 16 % 2 ^ 16 }))) ∧
    (∀ lo rcd, s.sel = [d, lo, rcd] → lo % 2 ^ 10 < 576 → dieOf (lo % 2 ^ 10) = d → (core s (lo % 2 ^ 10)).plq.length < 4 →
      ∃ (t : State) (e : SegEntry), exec .plqfill s = .next t ∧
        (core t (lo % 2 ^ 10)).plq = (core s (lo % 2 ^ 10)).plq ++ [e] ∧ e.rcd = rcd % 2 ^ 52 ∧
        ((die t d).hstat).getLsbD 0 = false) ∧
    (∀ v x, s.sel = [d, v] → v / 2 ^ 56 = 5 → (die s d).taken.find? (fun x => x.2.rcd == v % 2 ^ 52) = some x →
      exec .hfin s = .next (setHstat (finishUnrun (modDie s d (fun k => { k with taken := k.taken.erase x })) d x.2.part (v % 2 ^ 52) 5) d 1 false)))

/-- What the host does in host-assisted mode (R361, R365, R423, R424). -/
def Obligations.HostAssistedService : Prop :=
  Claims.HostServesFaults ∧ Claims.HostServesScheduling

/-! ### The fabric -/

/-- The fabric: the package's number is taken once, planes are mapped, a port that goes down takes no lines and one that returns
is up again; a request of another package is performed at most once and answered again as before; and an access to another package
with no answer for 2^24 ticks faults (R405 to R407, R425). Which port takes the lines of one that is down is the model's choice (log 28). -/
def Obligations.FabricEvents : Prop :=
  ∀ s : State,
    (∀ v, s.sel = [v] → modeOf s .fabric 0 = 2 → s.pkg.fabid = none → v < 192 → portsUp s = true →
      exec .fabidw s = .next (modPkg s (fun k => { k with fabid := some v }))) ∧
    (∀ lo hi, s.sel = [lo, hi] → modeOf s .fabric 0 ≠ 1 → (∀ p < 18, planeField (lo % 2 ^ 64 + hi % 2 ^ 26 * 2 ^ 64) p < 18) →
      ∃ t : State, exec .planemap s = .next t ∧ t.mem = s.mem ∧
        ∀ p < 18, planePort t p = planeField (lo % 2 ^ 64 + hi % 2 ^ 26 * 2 ^ 64) p) ∧
    (∀ p, s.sel = [p] → p < 18 → ∃ t : State, exec .fabricPlaneFailover s = .next t ∧ t.pkg.planefail.getLsbD p = true ∧
      (modeOf s .fabric 0 = 0 → (∃ q < 18, t.pkg.planefail.getLsbD q = false) → ∀ i < 18, planePort t i ≠ p)) ∧
    (∀ p, s.sel = [p] → p < 18 → portsUp s = true → ∃ t : State, exec .fabricPlaneReturn s = .next t ∧
      t.pkg.planefail.getLsbD p = false ∧ ∀ i, planePort t i = planePort s i) ∧
    (portsUp s = false → exec .fabricPlaneReturn s = .next s) ∧
    (∀ port src seq op a n lo hi cmp, s.sel = [port, src, seq, op, a, n, lo, hi, cmp] → portsUp s = true → port < 18 →
      (∀ r, s.pkg.seen.find? (fun r => r.1 == src && r.2.1 == seq) = some r →
        exec .fabricRemoteAccess s = .next (emit s (.fabricAnswer port r.2.2.1 r.2.2.2))) ∧
      (s.pkg.seen.find? (fun r => r.1 == src && r.2.1 == seq) = none → op < 2 → 1 ≤ n → n ≤ 16 → a + n ≤ 2 ^ 39 → dramOk s a = true →
        dramOk s (a + n - 1) = true → failingAt s a n = false →
        let out := remoteAccess s port op a n (lo % 2 ^ 64 + hi * 2 ^ 64) cmp
        exec .fabricRemoteAccess s = .next (emit (modPkg out.1 (fun k => { k with seen := k.seen ++ [(src, seq, out.2.1, out.2.2)] }))
          (.fabricAnswer port out.2.1 out.2.2)))) ∧
    (∀ c sl u h n a, s.sel = [0, c, sl, u, h, n] → findAccess s c sl u (h == 1) n = some a → a.stat = .ready → a.held = false →
      a.kind ≠ .wmwait → timedOut s c a.sent (a.elems.map (·.pa)) = true →
      exec .fabricAccessTimeout s = .next (accessTimeout s c sl u (h == 1) a))

/-! ### Ingest -/

/-- A frame that arrives whole with a good FCS takes the lowest rule that it matches and waits to land in that rule's ring; one that
matches none, or that is malformed, is counted (R408, R409). Where a rule's fields lie in a frame, and what a MAC control frame is, are the
model's (log 29). -/
def Claims.FramesArrive : Prop :=
  ∀ (s : State) (p : Nat) (bytes : List Nat), p < 16 → portsUp s = true →
    let bs := bytes.map (BitVec.ofNat 8)
    (s.sel = p :: 1 :: bytes → 60 ≤ bs.length → bs.length ≤ 9212 → macControl bs = false →
      (matchRule (eth s p) bs = none → ∃ t : State, exec .frameReceive s = .next t ∧ (eth t p).noMatch = (eth s p).noMatch + 1 ∧
        (eth t p).frames = (eth s p).frames) ∧
      (∀ i, matchRule (eth s p) bs = some i → ∃ (t : State) (f : Frame), exec .frameReceive s = .next t ∧
        (eth t p).frames = (eth s p).frames ++ [f] ∧ f.bytes = bs ∧ f.port = p ∧ f.rule = i ∧ f.landed = none ∧
        f.ring = ((tget 0 (eth s p).rules i).extractLsb' 0 10).toNat ∧ f.arrival = portTime s p)) ∧
    (s.sel = p :: 0 :: bytes → ∃ t : State, exec .frameReceive s = .next t ∧ (eth t p).fcserr = (eth s p).fcserr + 1 ∧
      (eth t p).frames = (eth s p).frames)

/-- A landed record that every observer is served lets WP advance past it, and XOFF is repeated every 20,000 ticks while a port
pauses (R321, R322, R410). Rings and flow rules take configurations that keep their limits, and a rule that makes the port pause
another priority sends its XOFF; a ring that is disabled pauses nothing, and the priorities that its port pauses no longer get XON (R320,
R409, R410). That a rule's priority pauses beside its ring's is the model's reading (log 29). -/
def Claims.RingsAreServed : Prop :=
  ∀ (s : State) (p : Nat),
    (∀ f rest e w, s.sel = [p, 1] → (eth s p).frames = f :: rest → f.landed = some (e, w) → (iring s f.ring).enabled = true →
      w.toNat ≤ (gtime s (homeDie (iring s f.ring).rb)).toNat → exec .ingestWpAdvance s = .next (advanceWp s p f e)) ∧
    (s.sel = [p, 0] → exec .ingestWpAdvance s = .next (landNext s p)) ∧
    (s.sel = [p] → portsUp s = true → ∃ t : State, exec .pauseXoffRefresh s = .next t ∧ t.mem = s.mem ∧ t.ingest = s.ingest ∧
      ∀ k < 8, (if pausing s p k = true ∧ (tget 0 (eth s p).xoff k).toNat + 20000 ≤ (portTime s p).toNat
        then tget 0 (eth t p).xoff k = portTime s p ∧ Output.pfc p k 0xFFFF ∈ t.out
        else tget 0 (eth t p).xoff k = tget 0 (eth s p).xoff k)) ∧
    (∀ i rb rs high rcb part port prio, s.sel = [i, 1, rb, rs, high, rcb, part, port, prio] → i < 1024 → mgBusy s = false →
      ringCfgOk s rb rs high rcb part port prio = true →
      ∃ t : State, exec .ringConfigure s = .next t ∧ (iring t i).enabled = true ∧ (iring t i).rb = rb ∧ (iring t i).rs = rs ∧
        (iring t i).high = high ∧ (iring t i).rcb = rcb ∧ (iring t i).part = part ∧ (iring t i).port = port ∧ (iring t i).prio = prio) ∧
    (∀ i, s.sel = [i, 0] → i < 1024 → mgBusy s = false →
      ∃ t : State, exec .ringConfigure s = .next t ∧ (iring t i).enabled = false ∧ (iring t i).paused = false ∧ t.mem = s.mem ∧
        ∀ k < 8, pausing s (iring s i).port k = true → pausing t (iring s i).port k = false →
          Output.pfc (iring s i).port k 0 ∈ t.out) ∧
    (∀ i v, s.sel = [p, i, v] → p < 16 → i < 64 → mgBusy s = false → ruleOk s p (BitVec.ofNat 64 v) = true →
      ∃ t : State, exec .flowRuleWrite s = .next t ∧ tget 0 (eth t p).rules i = BitVec.ofNat 64 v ∧
        (∀ k < 8, pausing s p k = false → pausing t p k = true → Output.pfc p k 0xFFFF ∈ t.out) ∧
        (∀ j, j ≠ i → tget 0 (eth t p).rules j = tget 0 (eth s p).rules j) ∧ t.mem = s.mem)

/-- Frames, rings and pauses of Ethernet ingest (R320 to R322, R408 to R410). -/
def Obligations.IngestEvents : Prop :=
  Claims.FramesArrive ∧ Claims.RingsAreServed

/-! ### Time -/

/-- A tick moves every copy of GTIME that is not held on by 1, once nothing that falls in the tick before it is left: no FRAME
advance that no deadline holds, no end of a watch, no overdue heartbeat, no end of a sleep (R348, R380, R399, R420, R430); a copy is held
only while it stays within 2 ticks of every other (R380). That a tick waits for these is the model's choice (log 51), and which
deadlines are open in a stall is log 30. -/
def Claims.GtimeTicks : Prop :=
  ∀ s : State,
    (tickOwes s = true → exec .gtimeTick s = .next s) ∧
    (s.pkg.fdue = false → tickOwes s = false → ∃ t : State, exec .gtimeTick s = .next t ∧
      (∀ i < 10, tget 0 t.pkg.gtime i = if tget 0 s.pkg.gheld i = 0 then tget 0 s.pkg.gtime i + 1 else tget 0 s.pkg.gtime i) ∧
      (∀ i < 10, tget 0 t.pkg.gheld i = tget 0 s.pkg.gheld i - 1) ∧ t.pkg.frame = s.pkg.frame ∧
      (s.pkg.notices = [] → s.pkg.finishes = [] → s.ingest = [] → t.mem = s.mem)) ∧
    (∀ i n, s.sel = [i, n] → i < 10 → n ≤ 2 → tget 0 s.pkg.gheld i = 0 →
      (∀ j < 10, (tget 0 s.pkg.gtime j).toNat + n ≤ (tget 0 s.pkg.gtime i).toNat + 2) →
      exec .gtimeResync s = .next (modPkg s (fun k => { k with gheld := tput k.gheld i n })))

/-- A FRAME advance that is due, with no deadline open, raises FRAME by 1, takes SKFPER, and releases the entries whose frame is
reached: their records are ready for their dispatchers; clearing SKEN takes every HELD entry of the partition out of the timetable (R347
to R350). Which deadlines are open in a stall is the model's choice (log 30). -/
def Claims.FrameAdvances : Prop :=
  ∀ s : State,
    (s.pkg.fdue = true → deadlineOpen s.pkg = [] →
      ∃ t : State, exec .frameAdvance s = .next t ∧ t.pkg.frame = s.pkg.frame + 1 ∧ t.pkg.skfper = s.pkg.skfnext ∧
        t.pkg.fbase = gtime s x0 ∧ t.pkg.stall = false ∧ t.pkg.fdue = false ∧
        t.pkg.skein = s.pkg.skein.map (fun e => if releases (s.pkg.frame + 1) e then { e with st := 1 } else e) ∧
        ∀ e ∈ s.pkg.skein, releases (s.pkg.frame + 1) e = true → ∃ r ∈ (die t (takingDie s e.part e.die)).ready,
          r.rcd = e.src.rcd ∧ r.part = e.src.part ∧ r.skein = true ∧ r.core = none) ∧
    (∀ p, s.sel = [p] → p < 8 →
      ∃ t : State, exec .skenClear s = .next t ∧ (part t p).sken = false ∧
        t.pkg.skein = s.pkg.skein.filter (fun e => !(e.part == p && e.st == 0)))

/-- GTIME and FRAME (R347 to R350, R380). -/
def Obligations.TimeAdvances : Prop :=
  Claims.GtimeTicks ∧ Claims.FrameAdvances

/-- Power: the arithmetic limit rises by 25 MHz after a second below both thresholds, the host's limit is held until the next FRAME
advance, a die's current limit is set and released, and a clock plan that keeps every harmonic out of its bands is taken (R411 to
R417, R425). -/
def Obligations.PowerEvents : Prop :=
  ∀ s : State,
    (modeOf s .thermal 0 = 0 → mgBusy s = false → s.pkg.climit < 1450 → s.pkg.power < 6000 → s.pkg.temp < 105 →
      s.pkg.coolAt.toNat + 10 ^ 9 ≤ (gtime s x0).toNat →
      exec .thermalLimitRaise s = .next (modPkg s (fun k => { k with
        climit := min 1450 (k.climit + 25), coolAt := gtime s x0, planPending := true }))) ∧
    (∀ v, s.sel = [v] → modeOf s .thermal 0 = 2 → 1300 ≤ v → v ≤ 1450 →
      exec .thlimit s = .next (modPkg s (fun k => { k with thPending := some v }))) ∧
    (∀ d, s.sel = [d] → d < 8 → dieUp s d = true →
      exec .vcoreCurrentLimit s = .next (modDie s d (fun x => { x with limited := true })) ∧
      exec .vcoreLimitRelease s = .next (modDie s d (fun x => { x with limited := false }))) ∧
    (mgBusy s = false → s.sel.length % 2 = 0 → tableOk s.pkg (pairsOf s.sel) = true →
      ∃ t : State, exec .clockPlanWrite s = .next t ∧ t.pkg.bands = pairsOf s.sel ∧ t.pkg.planPending = true ∧ t.pkg.planstat = false ∧
        t.pkg.climit = s.pkg.climit ∧ t.mem = s.mem)

/-! ### Newts and Molt -/

/-- Heartbeats and modes: a heartbeat of a running image is noted, that of a failed one too, and one that is overdue is noted after the
failure; a committed image that is silent for more than 2^25 ticks fails with its NFAIL bit, the mode table is taken whole while no Molt and no repair is active and held behind other held
writes otherwise, and a Newt takes it up (R420 to R422). The order of a failure and the heartbeat that comes too late is the model's choice
(logs 4 and 51). -/
def Obligations.NewtsAndModes : Prop :=
  ∀ s : State,
    (∀ n, s.sel = [n] → newtRuns s n = true → (newt s n).failed = false ∨ (newt s n).committed = true →
      s.pkg.molt.step = 0 ∨ moltNewt s.pkg.molt ≠ n →
      (timeoutDue s n = false →
        exec .newtHeartbeat s = .next (modNewt s n (fun x => { x with nhbt := gtime s n, waiting := false }))) ∧
      (timeoutDue s n = true →
        exec .newtHeartbeat s = .next (modNewt (newtFails s n) n (fun x => { x with nhbt := gtime s n, waiting := false })) ∧
        (newt (newtFails s n) n).failed = true ∧ (newtFails s n).pkg.nfail.getLsbD n = true)) ∧
    (∀ n, s.sel = [n] → newtRuns s n = true → (newt s n).committed = true → (newt s n).failed = false → s.pkg.molt.step < 3 →
      (tmax (newt s n).nhbt (newt s n).since).toNat + 2 ^ 25 < (gtime s n).toNat →
      ∃ t : State, exec .heartbeatTimeout s = .next t ∧ (newt t n).failed = true ∧ t.pkg.nfail.getLsbD n = true) ∧
    (∀ v, s.sel = [v] → modetabOk (BitVec.ofNat 64 v) = true →
      (modesHeld s = false → ∃ t : State, exec .modetabWrite s = .next t ∧
        t.pkg.modetab.extractLsb' 0 8 = BitVec.ofNat 8 v ∧ t.mem = s.mem) ∧
      (modesHeld s = true → exec .modetabWrite s = .next (modPkg s (fun k => { k with modeHeld := k.modeHeld ++ [BitVec.ofNat 8 v] })))) ∧
    (∀ n, s.sel = [n] → newtRuns s n = true →
      exec .modetabApply s = .next (modPkg s (fun k => { k with taken := tput k.taken n (k.modetab.extractLsb' 0 8) })))

/-- The steps of a Molt: a request copies the staged image, for the lowest of the dies that it names where its function is 0; the
image is verified, its function quiesces, the old image exports its record, the new one is loaded if the record's schema suits it, imports
the record, enters its executive, extends its function's measurement register and posts its event, is watched, and its first heartbeat
leads to the commit; or the Molt falls back, when its watch is over too, and the old image is restored (R427 to R432). Keys and what an image exports and accepts are free values (log 14); that SHA-384
is FIPS 180-4's is the model's (log 12), and so is that the image is read at the request (log 40). -/
def Obligations.MoltSteps : Prop :=
  ∀ s : State, let m := s.pkg.molt
    (∀ v, s.sel = [v] → v / 4 % 4 = 1 → v % 4 = 1 ∨ v % 4 = 2 → v / 16 % 16 = 0 → v < 2 ^ 16 → s.pkg.moltaddr.toNat % 256 = 0 →
      moltActive s = false → tadpole s.pkg = false →
      ∃ t : State, exec .molt s = .next t ∧ t.pkg.molt.step = 1 ∧ t.pkg.molt.func = v % 4 ∧ t.pkg.molt.err = 0 ∧
        t.pkg.molt.image = stagedImage s s.pkg.moltaddr.toNat) ∧
    (∀ v d, s.sel = [v] → v / 4 % 4 = 1 → v % 4 = 0 → v / 16 % 16 = 0 → v < 2 ^ 16 → s.pkg.moltaddr.toNat % 256 = 0 →
      moltActive s = false → tadpole s.pkg = false → lowestOf (BitVec.ofNat 8 (v / 2 ^ 8)) = some d →
      ∃ t : State, exec .molt s = .next t ∧ t.pkg.molt.step = 1 ∧ t.pkg.molt.func = 0 ∧ t.pkg.molt.die = d ∧ t.pkg.molt.err = 0 ∧
        t.pkg.molt.dies = withoutDie (BitVec.ofNat 8 (v / 2 ^ 8)) d ∧ t.pkg.molt.image = stagedImage s s.pkg.moltaddr.toNat) ∧
    (m.step = 1 → exec .moltVerify s = .next (if verifyErr m.image m.func = 0 then modMolt s (fun m => { m with step := 2 })
      else endMolt s (BitVec.ofNat 8 (verifyErr m.image m.func)))) ∧
    (m.step = 2 → exec .moltQuiesce s = .next (modMolt s (fun m => { m with step := 3 }))) ∧
    (m.step = 3 → ∃ (t : State) (r : StateRecord), exec .moltExport s = .next t ∧ t.pkg.molt.step = 4 ∧ t.pkg.molt.record = some r ∧
      r.func = m.func ∧ r.die = m.die ∧ r.body.length ≤ 49152 ∧ r.digest = Sha.hash384 r.body) ∧
    (m.step = 4 → field m.image 14 2 ≤ recordSchema m → recordSchema m ≤ field m.image 16 2 →
      ∃ t : State, exec .moltSwitch s = .next t ∧ t.pkg.molt.step = 5 ∧
        (newt t (moltNewt m)).digest = Sha.hash384 m.image ∧ (newt t (moltNewt m)).version = imageVersion m.image ∧
        (newt t (moltNewt m)).committed = false ∧ t.pkg.molt.oldDigest = (newt s (moltNewt m)).digest ∧
        t.pkg.molt.oldImage = (newt s (moltNewt m)).image) ∧
    (m.step = 5 → (∀ r, m.record = some r → r.digest ≠ Sha.hash384 r.body) →
      ∃ t : State, exec .moltImport s = .next t ∧ t.pkg.molt.step = 11) ∧
    (∀ r, m.step = 5 → m.record = some r → r.digest = Sha.hash384 r.body →
      ∃ t : State, exec .moltImport s = .next t ∧ t.pkg.molt.step = (if Config.recordOk s.fresh then 6 else 11)) ∧
    (m.step = 6 → exec .moltImport s = .next (modMolt s (fun m => { m with step := 7 }))) ∧
    (m.step = 7 → exec .moltImport s = .next (modMolt
      (postAll (mrExtend s (mrOf m.func) (newt s (moltNewt m)).digest) x0 1 (moltDetail m (newt s (moltNewt m)).version))
      (fun m => { m with step := 8 }))) ∧
    (m.step = 8 → exec .moltImport s = .next (modMolt s (fun m => { m with step := 9, watch := gtime s x0 }))) ∧
    (m.step = 9 → s.sel = [moltNewt m] → newtRuns s (moltNewt m) = true → (newt s (moltNewt m)).failed = false → watchOver s = false →
      exec .newtHeartbeat s = .next (modMolt (modNewt s (moltNewt m) (fun x => { x with
        nhbt := gtime s (moltNewt m), waiting := false })) (fun m => { m with step := 10 }))) ∧
    (m.step = 10 → ∃ t : State, exec .moltImport s = .next t ∧ (newt t (moltNewt m)).committed = true ∧
        t.pkg.molt.ver = (newt s (moltNewt m)).version ∧
        (m.func ≠ 0 ∨ lowestOf m.dies = none → t.pkg.molt.step = 0 ∧ t.pkg.molt.err = 0) ∧
        (∀ d, m.func = 0 → lowestOf m.dies = some d → t.pkg.molt.step = 1 ∧ t.pkg.molt.die = d)) ∧
    (watchOver s = true → exec .moltFallback s = .next (modMolt s (fun m => { m with step := 11 }))) ∧
    (m.step = 11 → moltNewt m < 10 → ∃ t : State, exec .moltFallback s = .next t ∧ t.pkg.molt.step = 0 ∧ t.pkg.molt.err = 5 ∧
      (newt t (moltNewt m)).digest = m.oldDigest ∧ (newt t (moltNewt m)).version = m.oldVersion ∧
      (newt t (moltNewt m)).image = m.oldImage ∧
      (newt t (moltNewt m)).committed = true)

/-- Repair, bring-up and reset: a die that is repaired leaves service, and the repair ends once its teams are gone, with the die's
Newt booted anew and its image measured; a bring-up starts from Tadpole service; a reset of the package leaves no core, team, grid, partition or saved image as
it was, CAPMASK, GTIME and FRAME at their reset values, every Newt booted from the board's flash and measured, on-chip and stacked memory
cleared, and host memory as it was (R192, R388, R418, R434 to R437). The model's choices among these: that the repaired die's Newt boots anew and extends MR1 with its
digest (log 39), that host memory, the flash, the
repair map and the dead dies stay (log 43), that the measurement registers stand as the boot leaves them (log 19), and that on-chip memory
reads 0 (log 5). -/
def Obligations.RepairBringupAndReset : Prop :=
  ∀ s : State,
    (∀ v d, s.sel = [v] → v / 4 % 4 = 2 → ctlBad v = false → lowestOf (BitVec.ofNat 8 (v / 2 ^ 8)) = some d →
      withoutDie (BitVec.ofNat 8 (v / 2 ^ 8)) d = 0 → tadpole s.pkg = false → diesUp s ≠ [d] → moltActive s = false →
      s.teams.filter (fun t => dieOf t.2.core == d && !t.2.retired) = [] →
      ∃ t : State, exec .dieRepair s = .next t ∧ t.pkg.molt.repairing = some d ∧ dieUp t d = false) ∧
    (∀ d, s.pkg.molt.repairing = some d → s.teams.any (fun t => dieOf t.2.core == d) = false →
      ∃ t : State, exec .dieRepairComplete s = .next t ∧ t.pkg.molt.repairing = none ∧
        (newt t d).digest = (bootNewt s d).digest ∧
        tget 0 t.pkg.mr 1 = extendMr (tget 0 s.pkg.mr 1) (bootNewt s d).digest) ∧
    (∀ v, s.sel = [v] → v / 4 % 4 = 3 → ctlBad v = false → tadpole s.pkg = true → moltActive s = false →
      ∃ t : State, exec .fullBringup s = .next t ∧ t.pkg.molt.bringup = true ∧ t.pkg.molt.err = 0) ∧
    (∃ t : State, exec .packageReset s = .next t ∧ t.cores = [] ∧ t.teams = [] ∧ t.grids = [] ∧ t.parts = [] ∧ t.images = [] ∧
      t.pkg.capmask = capTadpole ∧ t.pkg.gtime = [] ∧ t.pkg.frame = 0 ∧
      t.pkg.mr = bootMr (bootNewt s 0).digest (bootNewt s 8).digest ∧ (∀ i < 10, newt t i = bootNewt s i) ∧
      t.pkg.flash = s.pkg.flash ∧ t.pkg.repair = s.pkg.repair ∧ t.pkg.dead = s.pkg.dead ∧ (∀ a, regionOf a ≠ 1 → memByte t.mem a = 0) ∧
      (∀ a, regionOf a = 1 → memByte t.mem a = memByte s.mem a))

/-- Health and attestation: an hour after the last one the monitors of every die are read, whose readings are free (log 14); a quote
that was asked for is served with the package's measurements (R387, R438). -/
def Claims.HealthAndQuotes : Prop :=
  ∀ s : State,
    (s.pkg.agemonAt.toNat + 3600000000000 ≤ (gtime s x0).toNat →
      ∃ t : State, exec .agemonUpdate s = .next t ∧ t.pkg.agemonAt = gtime s x0 ∧ t.cores = s.cores ∧ t.mem = s.mem) ∧
    (s.sel = [1] → exec .quoteRequest s = .next (modPkg s (fun k => { k with qreq := true }))) ∧
    (s.sel = [0] → s.pkg.qreq = true → mgBusy s = false →
      exec .quoteRequest s = .next (modPkg s (fun k => { k with qreq := false, qbuf := quote s })))

/-- During a Molt of function 1 requests to the management Newt are held, and they are what the machine does next once the Molt
ends (R433). -/
def Claims.RequestsAreHeld : Prop :=
  (∀ s : State, mgBusy s = true →
    exec .partitionQuotaWrite s = .next (holdRequest s .partitionQuotaWrite) ∧
    exec .ptrootWrite s = .next (holdRequest s .ptrootWrite) ∧
    exec .tvecSavebaseWrite s = .next (holdRequest s .tvecSavebaseWrite) ∧
    exec .ringConfigure s = .next (holdRequest s .ringConfigure) ∧
    exec .flowRuleWrite s = .next (holdRequest s .flowRuleWrite) ∧
    exec .clockPlanWrite s = .next (holdRequest s .clockPlanWrite) ∧
    (s.sel = [0] → exec .quoteRequest s = .next s)) ∧
  (∀ (s : State) (i : Instr), (holdRequest s i).pkg.mgHeld = s.pkg.mgHeld ++ [(encode i, s.sel)]) ∧
  (∀ (s : State) (err : BitVec 8), (endMolt s err).agenda = s.pkg.mgHeld ++ s.agenda ∧ mgBusy (endMolt s err) = false)

/-- Plain registers of BAR0, the performance monitors, measurements, health and quotes, and the requests that a Molt holds (R303,
R304, R347, R384, R386 to R388, R433, R438). -/
def Obligations.RegistersAndMonitors : Prop :=
  Claims.PlainRegistersAreWritten ∧ Claims.MonitorsAndMeasurements ∧ Claims.HealthAndQuotes ∧ Claims.RequestsAreHeld

/-! ### The service on offer -/

/-- What CAPMASK holds in full and in Tadpole service, by its fields (R31), and which cores are in service then (R32). -/
def Obligations.CapabilityMask : Prop :=
  (capFull.extractLsb' 48 8 = 145 ∧ capFull.extractLsb' 40 8 = 0xFF ∧ capFull.getLsbD 39 = false ∧ capFull.extractLsb' 32 7 = 72 ∧
    capFull.extractLsb' 8 8 = 0xFF ∧ capFull.extractLsb' 0 8 = 0xA1) ∧
  (capTadpole.extractLsb' 48 8 = 70 ∧ capTadpole.extractLsb' 40 8 = 0x11 ∧ capTadpole.getLsbD 39 = true ∧
    capTadpole.extractLsb' 32 7 = 18 ∧ capTadpole.extractLsb' 8 8 = 0x01 ∧ capTadpole.extractLsb' 0 8 = 0xA1) ∧
  (∀ (s : State) (c : Nat), s.pkg.capmask = capFull → coreUp s c = decide (c < 576)) ∧
  (∀ s : State, s.pkg.capmask = capTadpole →
    (∀ c, coreUp s c = true ↔ c < 72 ∧ c / 12 ≤ 2 ∧ c % 12 ≤ 5) ∧
    ((List.range 576).filter (fun c => coreUp s c)).length = 18 ∧
    ((List.range 576).filter (fun c => coreUp s c && leaderOf c == c && coreUp s (c + 1))).length = 9)

/-! ### Reset -/

/-- What reset leaves: no translation root, no trap vector, no quota, no Skein entry, GTIME and FRAME 0, Tadpole service on offer,
and every byte of memory 0 (R32, R192, R327, R347, R348, R351, R367, R380). That host memory and what has no stated value reads 0 is log 5,
and that every register of a core is 0 rests on log 8: these are the model's choices. -/
def Obligations.ResetState : Prop :=
  (∀ p, (part State.reset p).ptroot = 0 ∧ (part State.reset p).tvec = 0 ∧ (part State.reset p).pquota = 0 ∧
    (part State.reset p).sken = false ∧ (part State.reset p).skdspan = 1) ∧
  State.reset.pkg.capmask = capTadpole ∧ (∀ i, gtime State.reset i = 0) ∧ State.reset.pkg.frame = 0 ∧
  State.reset.pkg.skfper = 1000000 ∧ State.reset.pkg.skein = [] ∧ (∀ c, core State.reset c = {}) ∧
  (∀ a v, memByte State.reset.mem a = 0 ∧ physByte State.reset v a = (if regionOf a = 2 then physByte State.reset v a else 0)) ∧
  memWf State.reset.mem = true
end

