-- ==== Sys2Proof/Laws/State.lean ====
section
/-! SUPPORT. What each update of a place leaves alone, field by field, and what it holds after it. -/

namespace Sys2Proof.Machine

/-! ### setCore -/

@[simp] theorem setCore_mem (s : State) (c : Nat) (k : Core) : (setCore s c k).mem = s.mem := rfl
@[simp] theorem setCore_hidden (s : State) (c : Nat) (k : Core) : (setCore s c k).hidden = s.hidden := rfl
@[simp] theorem setCore_failing (s : State) (c : Nat) (k : Core) : (setCore s c k).failing = s.failing := rfl
@[simp] theorem setCore_dies (s : State) (c : Nat) (k : Core) : (setCore s c k).dies = s.dies := rfl
@[simp] theorem setCore_parts (s : State) (c : Nat) (k : Core) : (setCore s c k).parts = s.parts := rfl
@[simp] theorem setCore_pkg (s : State) (c : Nat) (k : Core) : (setCore s c k).pkg = s.pkg := rfl
@[simp] theorem setCore_grids (s : State) (c : Nat) (k : Core) : (setCore s c k).grids = s.grids := rfl
@[simp] theorem setCore_teams (s : State) (c : Nat) (k : Core) : (setCore s c k).teams = s.teams := rfl
@[simp] theorem setCore_nextTeam (s : State) (c : Nat) (k : Core) : (setCore s c k).nextTeam = s.nextTeam := rfl
@[simp] theorem setCore_clusters (s : State) (c : Nat) (k : Core) : (setCore s c k).clusters = s.clusters := rfl
@[simp] theorem setCore_images (s : State) (c : Nat) (k : Core) : (setCore s c k).images = s.images := rfl
@[simp] theorem setCore_archive (s : State) (c : Nat) (k : Core) : (setCore s c k).archive = s.archive := rfl
@[simp] theorem setCore_past (s : State) (c : Nat) (k : Core) : (setCore s c k).past = s.past := rfl
@[simp] theorem setCore_parked (s : State) (c : Nat) (k : Core) : (setCore s c k).parked = s.parked := rfl
@[simp] theorem setCore_nextPark (s : State) (c : Nat) (k : Core) : (setCore s c k).nextPark = s.nextPark := rfl
@[simp] theorem setCore_hcqs (s : State) (c : Nat) (k : Core) : (setCore s c k).hcqs = s.hcqs := rfl
@[simp] theorem setCore_rings (s : State) (c : Nat) (k : Core) : (setCore s c k).rings = s.rings := rfl
@[simp] theorem setCore_ingest (s : State) (c : Nat) (k : Core) : (setCore s c k).ingest = s.ingest := rfl
@[simp] theorem setCore_eth (s : State) (c : Nat) (k : Core) : (setCore s c k).eth = s.eth := rfl
@[simp] theorem setCore_out (s : State) (c : Nat) (k : Core) : (setCore s c k).out = s.out := rfl
@[simp] theorem setCore_agenda (s : State) (c : Nat) (k : Core) : (setCore s c k).agenda = s.agenda := rfl
@[simp] theorem setCore_sel (s : State) (c : Nat) (k : Core) : (setCore s c k).sel = s.sel := rfl
@[simp] theorem setCore_cur (s : State) (c : Nat) (k : Core) : (setCore s c k).cur = s.cur := rfl
@[simp] theorem setCore_fresh (s : State) (c : Nat) (k : Core) : (setCore s c k).fresh = s.fresh := rfl

/-! ### modCore -/

@[simp] theorem modCore_mem (s : State) (c : Nat) (f : Core → Core) : (modCore s c f).mem = s.mem := rfl
@[simp] theorem modCore_hidden (s : State) (c : Nat) (f : Core → Core) : (modCore s c f).hidden = s.hidden := rfl
@[simp] theorem modCore_failing (s : State) (c : Nat) (f : Core → Core) : (modCore s c f).failing = s.failing := rfl
@[simp] theorem modCore_dies (s : State) (c : Nat) (f : Core → Core) : (modCore s c f).dies = s.dies := rfl
@[simp] theorem modCore_parts (s : State) (c : Nat) (f : Core → Core) : (modCore s c f).parts = s.parts := rfl
@[simp] theorem modCore_pkg (s : State) (c : Nat) (f : Core → Core) : (modCore s c f).pkg = s.pkg := rfl
@[simp] theorem modCore_grids (s : State) (c : Nat) (f : Core → Core) : (modCore s c f).grids = s.grids := rfl
@[simp] theorem modCore_teams (s : State) (c : Nat) (f : Core → Core) : (modCore s c f).teams = s.teams := rfl
@[simp] theorem modCore_nextTeam (s : State) (c : Nat) (f : Core → Core) : (modCore s c f).nextTeam = s.nextTeam := rfl
@[simp] theorem modCore_clusters (s : State) (c : Nat) (f : Core → Core) : (modCore s c f).clusters = s.clusters := rfl
@[simp] theorem modCore_images (s : State) (c : Nat) (f : Core → Core) : (modCore s c f).images = s.images := rfl
@[simp] theorem modCore_archive (s : State) (c : Nat) (f : Core → Core) : (modCore s c f).archive = s.archive := rfl
@[simp] theorem modCore_past (s : State) (c : Nat) (f : Core → Core) : (modCore s c f).past = s.past := rfl
@[simp] theorem modCore_parked (s : State) (c : Nat) (f : Core → Core) : (modCore s c f).parked = s.parked := rfl
@[simp] theorem modCore_nextPark (s : State) (c : Nat) (f : Core → Core) : (modCore s c f).nextPark = s.nextPark := rfl
@[simp] theorem modCore_hcqs (s : State) (c : Nat) (f : Core → Core) : (modCore s c f).hcqs = s.hcqs := rfl
@[simp] theorem modCore_rings (s : State) (c : Nat) (f : Core → Core) : (modCore s c f).rings = s.rings := rfl
@[simp] theorem modCore_ingest (s : State) (c : Nat) (f : Core → Core) : (modCore s c f).ingest = s.ingest := rfl
@[simp] theorem modCore_eth (s : State) (c : Nat) (f : Core → Core) : (modCore s c f).eth = s.eth := rfl
@[simp] theorem modCore_out (s : State) (c : Nat) (f : Core → Core) : (modCore s c f).out = s.out := rfl
@[simp] theorem modCore_agenda (s : State) (c : Nat) (f : Core → Core) : (modCore s c f).agenda = s.agenda := rfl
@[simp] theorem modCore_sel (s : State) (c : Nat) (f : Core → Core) : (modCore s c f).sel = s.sel := rfl
@[simp] theorem modCore_cur (s : State) (c : Nat) (f : Core → Core) : (modCore s c f).cur = s.cur := rfl
@[simp] theorem modCore_fresh (s : State) (c : Nat) (f : Core → Core) : (modCore s c f).fresh = s.fresh := rfl

/-! ### setGroup -/

@[simp] theorem setGroup_mem (s : State) (c sl : Nat) (g : Group) : (setGroup s c sl g).mem = s.mem := rfl
@[simp] theorem setGroup_hidden (s : State) (c sl : Nat) (g : Group) : (setGroup s c sl g).hidden = s.hidden := rfl
@[simp] theorem setGroup_failing (s : State) (c sl : Nat) (g : Group) : (setGroup s c sl g).failing = s.failing := rfl
@[simp] theorem setGroup_dies (s : State) (c sl : Nat) (g : Group) : (setGroup s c sl g).dies = s.dies := rfl
@[simp] theorem setGroup_parts (s : State) (c sl : Nat) (g : Group) : (setGroup s c sl g).parts = s.parts := rfl
@[simp] theorem setGroup_pkg (s : State) (c sl : Nat) (g : Group) : (setGroup s c sl g).pkg = s.pkg := rfl
@[simp] theorem setGroup_grids (s : State) (c sl : Nat) (g : Group) : (setGroup s c sl g).grids = s.grids := rfl
@[simp] theorem setGroup_teams (s : State) (c sl : Nat) (g : Group) : (setGroup s c sl g).teams = s.teams := rfl
@[simp] theorem setGroup_nextTeam (s : State) (c sl : Nat) (g : Group) : (setGroup s c sl g).nextTeam = s.nextTeam := rfl
@[simp] theorem setGroup_clusters (s : State) (c sl : Nat) (g : Group) : (setGroup s c sl g).clusters = s.clusters := rfl
@[simp] theorem setGroup_images (s : State) (c sl : Nat) (g : Group) : (setGroup s c sl g).images = s.images := rfl
@[simp] theorem setGroup_archive (s : State) (c sl : Nat) (g : Group) : (setGroup s c sl g).archive = s.archive := rfl
@[simp] theorem setGroup_past (s : State) (c sl : Nat) (g : Group) : (setGroup s c sl g).past = s.past := rfl
@[simp] theorem setGroup_parked (s : State) (c sl : Nat) (g : Group) : (setGroup s c sl g).parked = s.parked := rfl
@[simp] theorem setGroup_nextPark (s : State) (c sl : Nat) (g : Group) : (setGroup s c sl g).nextPark = s.nextPark := rfl
@[simp] theorem setGroup_hcqs (s : State) (c sl : Nat) (g : Group) : (setGroup s c sl g).hcqs = s.hcqs := rfl
@[simp] theorem setGroup_rings (s : State) (c sl : Nat) (g : Group) : (setGroup s c sl g).rings = s.rings := rfl
@[simp] theorem setGroup_ingest (s : State) (c sl : Nat) (g : Group) : (setGroup s c sl g).ingest = s.ingest := rfl
@[simp] theorem setGroup_eth (s : State) (c sl : Nat) (g : Group) : (setGroup s c sl g).eth = s.eth := rfl
@[simp] theorem setGroup_out (s : State) (c sl : Nat) (g : Group) : (setGroup s c sl g).out = s.out := rfl
@[simp] theorem setGroup_agenda (s : State) (c sl : Nat) (g : Group) : (setGroup s c sl g).agenda = s.agenda := rfl
@[simp] theorem setGroup_sel (s : State) (c sl : Nat) (g : Group) : (setGroup s c sl g).sel = s.sel := rfl
@[simp] theorem setGroup_cur (s : State) (c sl : Nat) (g : Group) : (setGroup s c sl g).cur = s.cur := rfl
@[simp] theorem setGroup_fresh (s : State) (c sl : Nat) (g : Group) : (setGroup s c sl g).fresh = s.fresh := rfl

/-! ### modGroup -/

@[simp] theorem modGroup_mem (s : State) (c sl : Nat) (f : Group → Group) : (modGroup s c sl f).mem = s.mem := rfl
@[simp] theorem modGroup_hidden (s : State) (c sl : Nat) (f : Group → Group) : (modGroup s c sl f).hidden = s.hidden := rfl
@[simp] theorem modGroup_failing (s : State) (c sl : Nat) (f : Group → Group) : (modGroup s c sl f).failing = s.failing := rfl
@[simp] theorem modGroup_dies (s : State) (c sl : Nat) (f : Group → Group) : (modGroup s c sl f).dies = s.dies := rfl
@[simp] theorem modGroup_parts (s : State) (c sl : Nat) (f : Group → Group) : (modGroup s c sl f).parts = s.parts := rfl
@[simp] theorem modGroup_pkg (s : State) (c sl : Nat) (f : Group → Group) : (modGroup s c sl f).pkg = s.pkg := rfl
@[simp] theorem modGroup_grids (s : State) (c sl : Nat) (f : Group → Group) : (modGroup s c sl f).grids = s.grids := rfl
@[simp] theorem modGroup_teams (s : State) (c sl : Nat) (f : Group → Group) : (modGroup s c sl f).teams = s.teams := rfl
@[simp] theorem modGroup_nextTeam (s : State) (c sl : Nat) (f : Group → Group) : (modGroup s c sl f).nextTeam = s.nextTeam := rfl
@[simp] theorem modGroup_clusters (s : State) (c sl : Nat) (f : Group → Group) : (modGroup s c sl f).clusters = s.clusters := rfl
@[simp] theorem modGroup_images (s : State) (c sl : Nat) (f : Group → Group) : (modGroup s c sl f).images = s.images := rfl
@[simp] theorem modGroup_archive (s : State) (c sl : Nat) (f : Group → Group) : (modGroup s c sl f).archive = s.archive := rfl
@[simp] theorem modGroup_past (s : State) (c sl : Nat) (f : Group → Group) : (modGroup s c sl f).past = s.past := rfl
@[simp] theorem modGroup_parked (s : State) (c sl : Nat) (f : Group → Group) : (modGroup s c sl f).parked = s.parked := rfl
@[simp] theorem modGroup_nextPark (s : State) (c sl : Nat) (f : Group → Group) : (modGroup s c sl f).nextPark = s.nextPark := rfl
@[simp] theorem modGroup_hcqs (s : State) (c sl : Nat) (f : Group → Group) : (modGroup s c sl f).hcqs = s.hcqs := rfl
@[simp] theorem modGroup_rings (s : State) (c sl : Nat) (f : Group → Group) : (modGroup s c sl f).rings = s.rings := rfl
@[simp] theorem modGroup_ingest (s : State) (c sl : Nat) (f : Group → Group) : (modGroup s c sl f).ingest = s.ingest := rfl
@[simp] theorem modGroup_eth (s : State) (c sl : Nat) (f : Group → Group) : (modGroup s c sl f).eth = s.eth := rfl
@[simp] theorem modGroup_out (s : State) (c sl : Nat) (f : Group → Group) : (modGroup s c sl f).out = s.out := rfl
@[simp] theorem modGroup_agenda (s : State) (c sl : Nat) (f : Group → Group) : (modGroup s c sl f).agenda = s.agenda := rfl
@[simp] theorem modGroup_sel (s : State) (c sl : Nat) (f : Group → Group) : (modGroup s c sl f).sel = s.sel := rfl
@[simp] theorem modGroup_cur (s : State) (c sl : Nat) (f : Group → Group) : (modGroup s c sl f).cur = s.cur := rfl
@[simp] theorem modGroup_fresh (s : State) (c sl : Nat) (f : Group → Group) : (modGroup s c sl f).fresh = s.fresh := rfl

/-! ### modDie -/

@[simp] theorem modDie_mem (s : State) (d : Nat) (f : Die → Die) : (modDie s d f).mem = s.mem := rfl
@[simp] theorem modDie_hidden (s : State) (d : Nat) (f : Die → Die) : (modDie s d f).hidden = s.hidden := rfl
@[simp] theorem modDie_failing (s : State) (d : Nat) (f : Die → Die) : (modDie s d f).failing = s.failing := rfl
@[simp] theorem modDie_cores (s : State) (d : Nat) (f : Die → Die) : (modDie s d f).cores = s.cores := rfl
@[simp] theorem modDie_parts (s : State) (d : Nat) (f : Die → Die) : (modDie s d f).parts = s.parts := rfl
@[simp] theorem modDie_pkg (s : State) (d : Nat) (f : Die → Die) : (modDie s d f).pkg = s.pkg := rfl
@[simp] theorem modDie_grids (s : State) (d : Nat) (f : Die → Die) : (modDie s d f).grids = s.grids := rfl
@[simp] theorem modDie_teams (s : State) (d : Nat) (f : Die → Die) : (modDie s d f).teams = s.teams := rfl
@[simp] theorem modDie_nextTeam (s : State) (d : Nat) (f : Die → Die) : (modDie s d f).nextTeam = s.nextTeam := rfl
@[simp] theorem modDie_clusters (s : State) (d : Nat) (f : Die → Die) : (modDie s d f).clusters = s.clusters := rfl
@[simp] theorem modDie_images (s : State) (d : Nat) (f : Die → Die) : (modDie s d f).images = s.images := rfl
@[simp] theorem modDie_archive (s : State) (d : Nat) (f : Die → Die) : (modDie s d f).archive = s.archive := rfl
@[simp] theorem modDie_past (s : State) (d : Nat) (f : Die → Die) : (modDie s d f).past = s.past := rfl
@[simp] theorem modDie_parked (s : State) (d : Nat) (f : Die → Die) : (modDie s d f).parked = s.parked := rfl
@[simp] theorem modDie_nextPark (s : State) (d : Nat) (f : Die → Die) : (modDie s d f).nextPark = s.nextPark := rfl
@[simp] theorem modDie_hcqs (s : State) (d : Nat) (f : Die → Die) : (modDie s d f).hcqs = s.hcqs := rfl
@[simp] theorem modDie_rings (s : State) (d : Nat) (f : Die → Die) : (modDie s d f).rings = s.rings := rfl
@[simp] theorem modDie_ingest (s : State) (d : Nat) (f : Die → Die) : (modDie s d f).ingest = s.ingest := rfl
@[simp] theorem modDie_eth (s : State) (d : Nat) (f : Die → Die) : (modDie s d f).eth = s.eth := rfl
@[simp] theorem modDie_out (s : State) (d : Nat) (f : Die → Die) : (modDie s d f).out = s.out := rfl
@[simp] theorem modDie_agenda (s : State) (d : Nat) (f : Die → Die) : (modDie s d f).agenda = s.agenda := rfl
@[simp] theorem modDie_sel (s : State) (d : Nat) (f : Die → Die) : (modDie s d f).sel = s.sel := rfl
@[simp] theorem modDie_cur (s : State) (d : Nat) (f : Die → Die) : (modDie s d f).cur = s.cur := rfl
@[simp] theorem modDie_fresh (s : State) (d : Nat) (f : Die → Die) : (modDie s d f).fresh = s.fresh := rfl

/-! ### modPart -/

@[simp] theorem modPart_mem (s : State) (p : Nat) (f : Partition → Partition) : (modPart s p f).mem = s.mem := rfl
@[simp] theorem modPart_hidden (s : State) (p : Nat) (f : Partition → Partition) : (modPart s p f).hidden = s.hidden := rfl
@[simp] theorem modPart_failing (s : State) (p : Nat) (f : Partition → Partition) : (modPart s p f).failing = s.failing := rfl
@[simp] theorem modPart_cores (s : State) (p : Nat) (f : Partition → Partition) : (modPart s p f).cores = s.cores := rfl
@[simp] theorem modPart_dies (s : State) (p : Nat) (f : Partition → Partition) : (modPart s p f).dies = s.dies := rfl
@[simp] theorem modPart_pkg (s : State) (p : Nat) (f : Partition → Partition) : (modPart s p f).pkg = s.pkg := rfl
@[simp] theorem modPart_grids (s : State) (p : Nat) (f : Partition → Partition) : (modPart s p f).grids = s.grids := rfl
@[simp] theorem modPart_teams (s : State) (p : Nat) (f : Partition → Partition) : (modPart s p f).teams = s.teams := rfl
@[simp] theorem modPart_nextTeam (s : State) (p : Nat) (f : Partition → Partition) : (modPart s p f).nextTeam = s.nextTeam := rfl
@[simp] theorem modPart_clusters (s : State) (p : Nat) (f : Partition → Partition) : (modPart s p f).clusters = s.clusters := rfl
@[simp] theorem modPart_images (s : State) (p : Nat) (f : Partition → Partition) : (modPart s p f).images = s.images := rfl
@[simp] theorem modPart_archive (s : State) (p : Nat) (f : Partition → Partition) : (modPart s p f).archive = s.archive := rfl
@[simp] theorem modPart_past (s : State) (p : Nat) (f : Partition → Partition) : (modPart s p f).past = s.past := rfl
@[simp] theorem modPart_parked (s : State) (p : Nat) (f : Partition → Partition) : (modPart s p f).parked = s.parked := rfl
@[simp] theorem modPart_nextPark (s : State) (p : Nat) (f : Partition → Partition) : (modPart s p f).nextPark = s.nextPark := rfl
@[simp] theorem modPart_hcqs (s : State) (p : Nat) (f : Partition → Partition) : (modPart s p f).hcqs = s.hcqs := rfl
@[simp] theorem modPart_rings (s : State) (p : Nat) (f : Partition → Partition) : (modPart s p f).rings = s.rings := rfl
@[simp] theorem modPart_ingest (s : State) (p : Nat) (f : Partition → Partition) : (modPart s p f).ingest = s.ingest := rfl
@[simp] theorem modPart_eth (s : State) (p : Nat) (f : Partition → Partition) : (modPart s p f).eth = s.eth := rfl
@[simp] theorem modPart_out (s : State) (p : Nat) (f : Partition → Partition) : (modPart s p f).out = s.out := rfl
@[simp] theorem modPart_agenda (s : State) (p : Nat) (f : Partition → Partition) : (modPart s p f).agenda = s.agenda := rfl
@[simp] theorem modPart_sel (s : State) (p : Nat) (f : Partition → Partition) : (modPart s p f).sel = s.sel := rfl
@[simp] theorem modPart_cur (s : State) (p : Nat) (f : Partition → Partition) : (modPart s p f).cur = s.cur := rfl
@[simp] theorem modPart_fresh (s : State) (p : Nat) (f : Partition → Partition) : (modPart s p f).fresh = s.fresh := rfl

/-! ### modPkg -/

@[simp] theorem modPkg_mem (s : State) (f : Pkg → Pkg) : (modPkg s f).mem = s.mem := rfl
@[simp] theorem modPkg_hidden (s : State) (f : Pkg → Pkg) : (modPkg s f).hidden = s.hidden := rfl
@[simp] theorem modPkg_failing (s : State) (f : Pkg → Pkg) : (modPkg s f).failing = s.failing := rfl
@[simp] theorem modPkg_cores (s : State) (f : Pkg → Pkg) : (modPkg s f).cores = s.cores := rfl
@[simp] theorem modPkg_dies (s : State) (f : Pkg → Pkg) : (modPkg s f).dies = s.dies := rfl
@[simp] theorem modPkg_parts (s : State) (f : Pkg → Pkg) : (modPkg s f).parts = s.parts := rfl
@[simp] theorem modPkg_grids (s : State) (f : Pkg → Pkg) : (modPkg s f).grids = s.grids := rfl
@[simp] theorem modPkg_teams (s : State) (f : Pkg → Pkg) : (modPkg s f).teams = s.teams := rfl
@[simp] theorem modPkg_nextTeam (s : State) (f : Pkg → Pkg) : (modPkg s f).nextTeam = s.nextTeam := rfl
@[simp] theorem modPkg_clusters (s : State) (f : Pkg → Pkg) : (modPkg s f).clusters = s.clusters := rfl
@[simp] theorem modPkg_images (s : State) (f : Pkg → Pkg) : (modPkg s f).images = s.images := rfl
@[simp] theorem modPkg_archive (s : State) (f : Pkg → Pkg) : (modPkg s f).archive = s.archive := rfl
@[simp] theorem modPkg_past (s : State) (f : Pkg → Pkg) : (modPkg s f).past = s.past := rfl
@[simp] theorem modPkg_parked (s : State) (f : Pkg → Pkg) : (modPkg s f).parked = s.parked := rfl
@[simp] theorem modPkg_nextPark (s : State) (f : Pkg → Pkg) : (modPkg s f).nextPark = s.nextPark := rfl
@[simp] theorem modPkg_hcqs (s : State) (f : Pkg → Pkg) : (modPkg s f).hcqs = s.hcqs := rfl
@[simp] theorem modPkg_rings (s : State) (f : Pkg → Pkg) : (modPkg s f).rings = s.rings := rfl
@[simp] theorem modPkg_ingest (s : State) (f : Pkg → Pkg) : (modPkg s f).ingest = s.ingest := rfl
@[simp] theorem modPkg_eth (s : State) (f : Pkg → Pkg) : (modPkg s f).eth = s.eth := rfl
@[simp] theorem modPkg_out (s : State) (f : Pkg → Pkg) : (modPkg s f).out = s.out := rfl
@[simp] theorem modPkg_agenda (s : State) (f : Pkg → Pkg) : (modPkg s f).agenda = s.agenda := rfl
@[simp] theorem modPkg_sel (s : State) (f : Pkg → Pkg) : (modPkg s f).sel = s.sel := rfl
@[simp] theorem modPkg_cur (s : State) (f : Pkg → Pkg) : (modPkg s f).cur = s.cur := rfl
@[simp] theorem modPkg_fresh (s : State) (f : Pkg → Pkg) : (modPkg s f).fresh = s.fresh := rfl

/-! ### modTeam -/

@[simp] theorem modTeam_mem (s : State) (t : Nat) (f : Team → Team) : (modTeam s t f).mem = s.mem := rfl
@[simp] theorem modTeam_hidden (s : State) (t : Nat) (f : Team → Team) : (modTeam s t f).hidden = s.hidden := rfl
@[simp] theorem modTeam_failing (s : State) (t : Nat) (f : Team → Team) : (modTeam s t f).failing = s.failing := rfl
@[simp] theorem modTeam_cores (s : State) (t : Nat) (f : Team → Team) : (modTeam s t f).cores = s.cores := rfl
@[simp] theorem modTeam_dies (s : State) (t : Nat) (f : Team → Team) : (modTeam s t f).dies = s.dies := rfl
@[simp] theorem modTeam_parts (s : State) (t : Nat) (f : Team → Team) : (modTeam s t f).parts = s.parts := rfl
@[simp] theorem modTeam_pkg (s : State) (t : Nat) (f : Team → Team) : (modTeam s t f).pkg = s.pkg := rfl
@[simp] theorem modTeam_grids (s : State) (t : Nat) (f : Team → Team) : (modTeam s t f).grids = s.grids := rfl
@[simp] theorem modTeam_nextTeam (s : State) (t : Nat) (f : Team → Team) : (modTeam s t f).nextTeam = s.nextTeam := rfl
@[simp] theorem modTeam_clusters (s : State) (t : Nat) (f : Team → Team) : (modTeam s t f).clusters = s.clusters := rfl
@[simp] theorem modTeam_images (s : State) (t : Nat) (f : Team → Team) : (modTeam s t f).images = s.images := rfl
@[simp] theorem modTeam_archive (s : State) (t : Nat) (f : Team → Team) : (modTeam s t f).archive = s.archive := rfl
@[simp] theorem modTeam_past (s : State) (t : Nat) (f : Team → Team) : (modTeam s t f).past = s.past := rfl
@[simp] theorem modTeam_parked (s : State) (t : Nat) (f : Team → Team) : (modTeam s t f).parked = s.parked := rfl
@[simp] theorem modTeam_nextPark (s : State) (t : Nat) (f : Team → Team) : (modTeam s t f).nextPark = s.nextPark := rfl
@[simp] theorem modTeam_hcqs (s : State) (t : Nat) (f : Team → Team) : (modTeam s t f).hcqs = s.hcqs := rfl
@[simp] theorem modTeam_rings (s : State) (t : Nat) (f : Team → Team) : (modTeam s t f).rings = s.rings := rfl
@[simp] theorem modTeam_ingest (s : State) (t : Nat) (f : Team → Team) : (modTeam s t f).ingest = s.ingest := rfl
@[simp] theorem modTeam_eth (s : State) (t : Nat) (f : Team → Team) : (modTeam s t f).eth = s.eth := rfl
@[simp] theorem modTeam_out (s : State) (t : Nat) (f : Team → Team) : (modTeam s t f).out = s.out := rfl
@[simp] theorem modTeam_agenda (s : State) (t : Nat) (f : Team → Team) : (modTeam s t f).agenda = s.agenda := rfl
@[simp] theorem modTeam_sel (s : State) (t : Nat) (f : Team → Team) : (modTeam s t f).sel = s.sel := rfl
@[simp] theorem modTeam_cur (s : State) (t : Nat) (f : Team → Team) : (modTeam s t f).cur = s.cur := rfl
@[simp] theorem modTeam_fresh (s : State) (t : Nat) (f : Team → Team) : (modTeam s t f).fresh = s.fresh := rfl

/-! ### modGrid -/

@[simp] theorem modGrid_mem (s : State) (a : Nat) (f : Grid → Grid) : (modGrid s a f).mem = s.mem := rfl
@[simp] theorem modGrid_hidden (s : State) (a : Nat) (f : Grid → Grid) : (modGrid s a f).hidden = s.hidden := rfl
@[simp] theorem modGrid_failing (s : State) (a : Nat) (f : Grid → Grid) : (modGrid s a f).failing = s.failing := rfl
@[simp] theorem modGrid_cores (s : State) (a : Nat) (f : Grid → Grid) : (modGrid s a f).cores = s.cores := rfl
@[simp] theorem modGrid_dies (s : State) (a : Nat) (f : Grid → Grid) : (modGrid s a f).dies = s.dies := rfl
@[simp] theorem modGrid_parts (s : State) (a : Nat) (f : Grid → Grid) : (modGrid s a f).parts = s.parts := rfl
@[simp] theorem modGrid_pkg (s : State) (a : Nat) (f : Grid → Grid) : (modGrid s a f).pkg = s.pkg := rfl
@[simp] theorem modGrid_teams (s : State) (a : Nat) (f : Grid → Grid) : (modGrid s a f).teams = s.teams := rfl
@[simp] theorem modGrid_nextTeam (s : State) (a : Nat) (f : Grid → Grid) : (modGrid s a f).nextTeam = s.nextTeam := rfl
@[simp] theorem modGrid_clusters (s : State) (a : Nat) (f : Grid → Grid) : (modGrid s a f).clusters = s.clusters := rfl
@[simp] theorem modGrid_images (s : State) (a : Nat) (f : Grid → Grid) : (modGrid s a f).images = s.images := rfl
@[simp] theorem modGrid_archive (s : State) (a : Nat) (f : Grid → Grid) : (modGrid s a f).archive = s.archive := rfl
@[simp] theorem modGrid_past (s : State) (a : Nat) (f : Grid → Grid) : (modGrid s a f).past = s.past := rfl
@[simp] theorem modGrid_parked (s : State) (a : Nat) (f : Grid → Grid) : (modGrid s a f).parked = s.parked := rfl
@[simp] theorem modGrid_nextPark (s : State) (a : Nat) (f : Grid → Grid) : (modGrid s a f).nextPark = s.nextPark := rfl
@[simp] theorem modGrid_hcqs (s : State) (a : Nat) (f : Grid → Grid) : (modGrid s a f).hcqs = s.hcqs := rfl
@[simp] theorem modGrid_rings (s : State) (a : Nat) (f : Grid → Grid) : (modGrid s a f).rings = s.rings := rfl
@[simp] theorem modGrid_ingest (s : State) (a : Nat) (f : Grid → Grid) : (modGrid s a f).ingest = s.ingest := rfl
@[simp] theorem modGrid_eth (s : State) (a : Nat) (f : Grid → Grid) : (modGrid s a f).eth = s.eth := rfl
@[simp] theorem modGrid_out (s : State) (a : Nat) (f : Grid → Grid) : (modGrid s a f).out = s.out := rfl
@[simp] theorem modGrid_agenda (s : State) (a : Nat) (f : Grid → Grid) : (modGrid s a f).agenda = s.agenda := rfl
@[simp] theorem modGrid_sel (s : State) (a : Nat) (f : Grid → Grid) : (modGrid s a f).sel = s.sel := rfl
@[simp] theorem modGrid_cur (s : State) (a : Nat) (f : Grid → Grid) : (modGrid s a f).cur = s.cur := rfl
@[simp] theorem modGrid_fresh (s : State) (a : Nat) (f : Grid → Grid) : (modGrid s a f).fresh = s.fresh := rfl

/-! ### Tables -/

/-- A key just set reads as set. -/
@[simp] theorem tget_tput_self {α : Type} (d : α) (t : Tbl α) (n : Nat) (x : α) : tget d (tput t n x) n = x := by
  induction t with
  | nil => simp [tput, tget]
  | cons p t ih =>
    unfold tput
    split
    · simp [tget]
    · split
      · simp [tget]
      · rename_i h1 h2
        simp [tget, ih, Ne.symm h2]

/-- Setting a key leaves every other key as it was. -/
theorem tget_tput_ne {α : Type} (d : α) (t : Tbl α) (n m : Nat) (x : α) (h : m ≠ n) :
    tget d (tput t n x) m = tget d t m := by
  induction t with
  | nil => simp [tput, tget, Ne.symm h]
  | cons p t ih =>
    unfold tput
    split
    · simp [tget, Ne.symm h]
    · split
      · rename_i h1 h2
        simp [tget, h2 ▸ Ne.symm h, Ne.symm h]
      · simp [tget, ih]

/-- A key just set is listed. -/
@[simp] theorem tfind_tput_self {α : Type} (t : Tbl α) (n : Nat) (x : α) : tfind (tput t n x) n = some x := by
  induction t with
  | nil => simp [tput, tfind]
  | cons p t ih =>
    unfold tput
    split
    · simp [tfind]
    · split
      · simp [tfind]
      · rename_i h1 h2
        simp [tfind, ih, Ne.symm h2]

/-- Setting a key lists no other key. -/
theorem tfind_tput_ne {α : Type} (t : Tbl α) (n m : Nat) (x : α) (h : m ≠ n) : tfind (tput t n x) m = tfind t m := by
  induction t with
  | nil => simp [tput, tfind, Ne.symm h]
  | cons p t ih =>
    unfold tput
    split
    · simp [tfind, Ne.symm h]
    · split
      · rename_i h1 h2
        simp [tfind, h2 ▸ Ne.symm h, Ne.symm h]
      · simp [tfind, ih]

/-! ### The place that an update changes -/

@[simp] theorem core_modCore_self (s : State) (c : Nat) (f : Core → Core) : core (modCore s c f) c = f (core s c) := by
  simp [core, modCore, setCore]

theorem core_modCore_ne (s : State) (c d : Nat) (f : Core → Core) (h : d ≠ c) : core (modCore s c f) d = core s d := by
  simp [core, modCore, setCore, tget_tput_ne _ _ _ _ _ h]

@[simp] theorem group_modGroup_self (s : State) (c sl : Nat) (f : Group → Group) :
    group (modGroup s c sl f) c sl = f (group s c sl) := by
  simp [modGroup, setGroup, group]

theorem group_modGroup_slot (s : State) (c sl sl' : Nat) (f : Group → Group) (h : sl' ≠ sl) :
    group (modGroup s c sl f) c sl' = group s c sl' := by
  simp [modGroup, setGroup, group, tget_tput_ne _ _ _ _ _ h]

theorem group_modGroup_core (s : State) (c d sl sl' : Nat) (f : Group → Group) (h : d ≠ c) :
    group (modGroup s c sl f) d sl' = group s d sl' := by
  simp [modGroup, setGroup, group, core_modCore_ne _ _ _ _ h]

/-- A change of a group leaves the rest of its core. -/
theorem core_modGroup_self (s : State) (c sl : Nat) (f : Group → Group) :
    core (modGroup s c sl f) c = { core s c with groups := tput (core s c).groups sl (f (group s c sl)) } := by
  simp [modGroup, setGroup]

theorem core_modGroup_ne (s : State) (c d sl : Nat) (f : Group → Group) (h : d ≠ c) :
    core (modGroup s c sl f) d = core s d := by
  simp [modGroup, setGroup, core_modCore_ne _ _ _ _ h]

@[simp] theorem cycleOf_modGroup (s : State) (c d sl : Nat) (f : Group → Group) :
    cycleOf (modGroup s c sl f) d = cycleOf s d := by
  by_cases h : d = c
  · subst h; simp [cycleOf, core_modGroup_self]
  · simp [cycleOf, core_modGroup_ne _ _ _ _ _ h]

@[simp] theorem coreTime_modGroup (s : State) (c d sl : Nat) (f : Group → Group) :
    coreTime (modGroup s c sl f) d = coreTime s d := rfl

@[simp] theorem die_modDie_self (s : State) (d : Nat) (f : Die → Die) : die (modDie s d f) d = f (die s d) := by
  simp [die, modDie]

@[simp] theorem die_modGroup (s : State) (c sl d : Nat) (f : Group → Group) : die (modGroup s c sl f) d = die s d := rfl

@[simp] theorem die_modCore (s : State) (c d : Nat) (f : Core → Core) : die (modCore s c f) d = die s d := rfl

@[simp] theorem core_modDie (s : State) (c d : Nat) (f : Die → Die) : core (modDie s d f) c = core s c := rfl

@[simp] theorem group_modDie (s : State) (c sl d : Nat) (f : Die → Die) : group (modDie s d f) c sl = group s c sl := rfl

@[simp] theorem part_modPart_self (s : State) (p : Nat) (f : Partition → Partition) : part (modPart s p f) p = f (part s p) := by
  simp [part, modPart]

@[simp] theorem part_modGroup (s : State) (c sl p : Nat) (f : Group → Group) : part (modGroup s c sl f) p = part s p := rfl

@[simp] theorem part_modCore (s : State) (c p : Nat) (f : Core → Core) : part (modCore s c f) p = part s p := rfl

@[simp] theorem team_modTeam_self (s : State) (t : Nat) (f : Team → Team) : team (modTeam s t f) t = f (team s t) := by
  simp [team, modTeam]

@[simp] theorem team_modGroup (s : State) (c sl t : Nat) (f : Group → Group) : team (modGroup s c sl f) t = team s t := rfl

@[simp] theorem group_modTeam (s : State) (c sl t : Nat) (f : Team → Team) : group (modTeam s t f) c sl = group s c sl := rfl

@[simp] theorem grid_modGrid_self (s : State) (a : Nat) (f : Grid → Grid) : grid (modGrid s a f) a = f (grid s a) := by
  simp [grid, modGrid]

@[simp] theorem choose_mem (s : State) (n : Nat) : (choose s n).2.mem = s.mem := rfl

end Sys2Proof.Machine
end

