-- ==== Sys2Proof/Laws/Mem.lean ====
section
/-! SUPPORT. Every operation on the list of memory cells keeps its canonical form, and a byte reads as it was last written. -/

namespace Sys2Proof.Machine

/-- Every address of a memory in canonical form with first address above k lies above k. -/
def memAbove (k : Nat) : List Host.Cell → Prop
  | [] => True
  | (a, _) :: _ => k < a

theorem memWf_cons (k : Nat) (v : Byte) (t : List Host.Cell) :
    memWf ((k, v) :: t) = true ↔ v ≠ 0 ∧ memAbove k t ∧ memWf t = true := by
  cases t with
  | nil => simp [memWf, memAbove]
  | cons p t => obtain ⟨a, w⟩ := p; simp [memWf, memAbove]; tauto

theorem memAbove_memPut {k a : Nat} {x : Byte} {m : List Host.Cell} (h : memAbove k m) (hw : memWf m = true) (hk : k < a) :
    memAbove k (memPut m a x) := by
  induction m with
  | nil => simp only [memPut]; split <;> simp [memAbove, hk]
  | cons p t ih =>
    obtain ⟨b, w⟩ := p
    have hb : k < b := h
    simp only [memPut]
    split
    · split <;> simp [memAbove, hb, hk]
    · split
      · split
        · obtain ⟨-, h2, -⟩ := (memWf_cons _ _ _).1 hw
          cases t with
          | nil => trivial
          | cons q t => exact Nat.lt_trans hb h2
        · exact hk
      · exact hb

/-- One write keeps the canonical form. -/
@[simp] theorem memWf_memPut (m : List Host.Cell) (a : Nat) (x : Byte) (h : memWf m = true) : memWf (memPut m a x) = true := by
  induction m with
  | nil => simp only [memPut]; split <;> simp_all [memWf]
  | cons p t ih =>
    obtain ⟨b, w⟩ := p
    obtain ⟨h1, h2, h3⟩ := (memWf_cons _ _ _).1 h
    simp only [memPut]
    split
    · rename_i hlt
      split
      · exact h
      · rename_i hx
        exact (memWf_cons _ _ _).2 ⟨hx, hlt, h⟩
    · split
      · rename_i heq
        split
        · exact h3
        · rename_i hx
          exact (memWf_cons _ _ _).2 ⟨hx, heq ▸ h2, h3⟩
      · rename_i hlt hne
        exact (memWf_cons _ _ _).2 ⟨h1, memAbove_memPut h2 h3 (by omega), ih h3⟩

/-- Several writes keep it. -/
@[simp] theorem memWf_memPuts (m cs : List Host.Cell) (h : memWf m = true) : memWf (memPuts m cs) = true := by
  unfold memPuts
  induction cs generalizing m with
  | nil => exact h
  | cons c t ih => exact ih _ (memWf_memPut _ _ _ h)

theorem memAbove_filter {k : Nat} {m : List Host.Cell} (p : Host.Cell → Bool) (h : memAbove k m) (hw : memWf m = true) :
    memAbove k (m.filter p) := by
  induction m with
  | nil => simp [memAbove]
  | cons q t ih =>
    obtain ⟨b, w⟩ := q
    obtain ⟨-, h2, h3⟩ := (memWf_cons _ _ _).1 hw
    have hb : k < b := h
    rw [List.filter_cons]
    split
    · exact hb
    · refine ih ?_ h3
      cases t with
      | nil => trivial
      | cons r t => exact Nat.lt_trans hb h2

/-- A memory with cells taken out keeps it. -/
@[simp] theorem memWf_filter (m : List Host.Cell) (p : Host.Cell → Bool) (h : memWf m = true) : memWf (m.filter p) = true := by
  induction m with
  | nil => exact h
  | cons q t ih =>
    obtain ⟨b, w⟩ := q
    obtain ⟨h1, h2, h3⟩ := (memWf_cons _ _ _).1 h
    rw [List.filter_cons]
    split
    · exact (memWf_cons _ _ _).2 ⟨h1, memAbove_filter p h2 h3, ih h3⟩
    · exact ih h3

@[simp] theorem memWf_memClear (m : List Host.Cell) (a n : Nat) (h : memWf m = true) : memWf (memClear m a n) = true :=
  memWf_filter _ _ h

theorem memByte_above {k a : Nat} {m : List Host.Cell} (h : memAbove k m) (hw : memWf m = true) (ha : a ≤ k) :
    memByte m a = 0 := by
  induction m generalizing k with
  | nil => rfl
  | cons q t ih =>
    obtain ⟨b, w⟩ := q
    obtain ⟨-, h2, h3⟩ := (memWf_cons _ _ _).1 hw
    have hb : k < b := h
    simp only [memByte]
    rw [if_neg (by omega)]
    exact ih h2 h3 (by omega)

/-- A byte just written reads as written. -/
theorem memByte_memPut_self (m : List Host.Cell) (a : Nat) (x : Byte) (h : memWf m = true) : memByte (memPut m a x) a = x := by
  induction m with
  | nil => simp only [memPut]; split <;> simp_all [memByte]
  | cons q t ih =>
    obtain ⟨b, w⟩ := q
    obtain ⟨-, h2, h3⟩ := (memWf_cons _ _ _).1 h
    simp only [memPut]
    split
    · rename_i hlt
      split
      · rename_i hx
        simp only [memByte, hx]
        rw [if_neg (by omega)]
        exact memByte_above h2 h3 (by omega)
      · simp [memByte]
    · split
      · rename_i heq
        split
        · rename_i hx
          rw [hx]
          exact memByte_above h2 h3 (by omega)
        · simp [memByte]
      · rename_i hne
        simp only [memByte]
        rw [if_neg (by omega)]
        exact ih h3

/-- A write leaves every other byte as it was. -/
theorem memByte_memPut_ne (m : List Host.Cell) (a b : Nat) (x : Byte) (h : b ≠ a) : memByte (memPut m a x) b = memByte m b := by
  induction m with
  | nil => simp only [memPut]; split <;> simp [memByte, Ne.symm h]
  | cons q t ih =>
    obtain ⟨k, w⟩ := q
    simp only [memPut]
    split
    · split <;> simp [memByte, Ne.symm h]
    · split
      · rename_i heq
        split <;> simp [memByte, ← heq, Ne.symm h]
      · simp only [memByte, ih]

/-- Several runs of cells keep the form. -/
theorem foldPuts_wf {α : Type} (g : α → List Host.Cell) (l : List α) (m : List Host.Cell) (h : memWf m = true) :
    memWf (l.foldl (fun m i => memPuts m (g i)) m) = true := by
  induction l generalizing m with
  | nil => exact h
  | cons a t ih => exact ih _ (memWf_memPuts _ _ h)

/-- Folds of steps that keep the form keep it. -/
@[simp] theorem foldl_keeps {α : Type} (f : State → α → State) (l : List α) (s : State)
    (hf : ∀ s a, memWf s.mem = true → memWf (f s a).mem = true) (h : memWf s.mem = true) : memWf (l.foldl f s).mem = true := by
  induction l generalizing s with
  | nil => exact h
  | cons a t ih => exact ih _ (hf _ _ h)

/-- The same with something carried beside the state. -/
@[simp] theorem foldl_keeps_fst {α β : Type} (f : State × β → α → State × β) (l : List α) (p : State × β)
    (hf : ∀ p a, memWf p.1.mem = true → memWf (f p a).1.mem = true) (h : memWf p.1.mem = true) : memWf (l.foldl f p).1.mem = true := by
  induction l generalizing p with
  | nil => exact h
  | cons a t ih => exact ih _ (hf _ _ h)

/-- The same with something carried before the state. -/
@[simp] theorem foldl_keeps_snd {α β : Type} (f : β × State → α → β × State) (l : List α) (p : β × State)
    (hf : ∀ p a, memWf p.2.mem = true → memWf (f p a).2.mem = true) (h : memWf p.2.mem = true) : memWf (l.foldl f p).2.mem = true := by
  induction l generalizing p with
  | nil => exact h
  | cons a t ih => exact ih _ (hf _ _ h)

/-- Either branch of a choice keeps the form. -/
@[simp] theorem ite_keeps (c : Prop) [Decidable c] (a b : State) (ha : c → memWf a.mem = true) (hb : ¬c → memWf b.mem = true) :
    memWf (if c then a else b).mem = true := by
  split
  · exact ha ‹_›
  · exact hb ‹_›

@[simp] theorem choose_keeps (s : State) (n : Nat) (h : memWf s.mem = true) : memWf (choose s n).2.mem = true := h

@[simp] theorem outOk_next (s : State) : OutOk (.next s) ↔ memWf s.mem = true := Iff.rfl

end Sys2Proof.Machine
end

