-- ==== Sys2Proof/Laws/KeepOps.lean ====
section
/-! SUPPORT. Each operation of Machine/Ops.lean keeps the canonical form of memory. -/

namespace Sys2Proof.Machine

@[simp] theorem writeByte_keeps (s : State) (a : Nat) (b : Byte)
    (hs : memWf s.mem = true) :
    memWf (writeByte s a b).mem = true := by
  unfold writeByte
  repeat' split
  all_goals first | exact memWf_memPut _ _ _ hs | exact hs | (dsimp only; split <;> first | exact hs | exact memWf_memPut _ _ _ hs)

@[simp] theorem writeCells_keeps (s : State) (cs : List Host.Cell)
    (hs : memWf s.mem = true) :
    memWf (writeCells s cs).mem = true := by
  unfold writeCells
  try dsimp only
  repeat' split
  all_goals first | with_reducible assumption | simp_all +contextual (maxDischargeDepth := 16)

@[simp] theorem clearErrors_keeps (s : State) (cs : List Host.Cell)
    (hs : memWf s.mem = true) :
    memWf (clearErrors s cs).mem = true := by
  unfold clearErrors
  try dsimp only
  repeat' split
  all_goals first | with_reducible assumption | simp_all +contextual (maxDischargeDepth := 16)

@[simp] theorem clearLanes_keeps (s : State) (base w : Nat) (m : Mask)
    (hs : memWf s.mem = true) :
    memWf (clearLanes s base w m).mem = true := hs

@[simp] theorem clearSlices_keeps (s : State) (c row : Nat) (m : Mask)
    (hs : memWf s.mem = true) :
    memWf (clearSlices s c row m).mem = true := hs

@[simp] theorem l2Fill_keeps (s : State) (line : Nat) (e : BitVec 64)
    (hs : memWf s.mem = true) :
    memWf (l2Fill s line e).mem = true := by
  unfold l2Fill
  try dsimp only
  repeat' split
  all_goals first | with_reducible assumption | (simp (maxDischargeDepth := 16) [*]; done) | simp_all +contextual (maxDischargeDepth := 16)

@[simp] theorem l1Update_keeps (s : State) (c : Nat) (cs : List Host.Cell)
    (hs : memWf s.mem = true) :
    memWf (l1Update s c cs).mem = true := by
  unfold l1Update
  try dsimp only
  repeat' split
  all_goals first | with_reducible assumption | simp_all +contextual (maxDischargeDepth := 16)

@[simp] theorem lineWrite_keeps (s : State) (c : Option Nat) (via : Option Nat) (prop : Bool) (line : Nat) (cs : List Host.Cell)
    (hs : memWf s.mem = true) :
    memWf (lineWrite s c via prop line cs).1.mem = true := by
  unfold lineWrite
  try dsimp only
  repeat' split
  all_goals first | with_reducible assumption | simp_all +contextual (maxDischargeDepth := 16)

@[simp] theorem emit_keeps (s : State) (o : Output)
    (hs : memWf s.mem = true) :
    memWf (emit s o).mem = true := by
  unfold emit
  try dsimp only
  repeat' split
  all_goals first | with_reducible assumption | (simp (maxDischargeDepth := 16) [*]; done) | simp_all +contextual (maxDischargeDepth := 16)

@[simp] theorem sendOut_keeps (s : State) (d : Nat) (write : Bool) (a n : Nat)
    (hs : memWf s.mem = true) :
    memWf (sendOut s d write a n).mem = true := by
  unfold sendOut
  try dsimp only
  repeat' split
  all_goals first | with_reducible assumption | (simp (maxDischargeDepth := 16) [*]; done) | simp_all +contextual (maxDischargeDepth := 16)

@[simp] theorem sendLines_keeps (s : State) (d : Nat) (cs : List Host.Cell)
    (hs : memWf s.mem = true) :
    memWf (sendLines s d cs).mem = true := by
  refine foldl_keeps _ _ _ (fun s _ h => ?_) hs
  split
  · exact h
  · exact sendOut_keeps _ _ _ _ _ h

@[simp] theorem modEth_keeps (s : State) (p : Nat) (f : EthPort → EthPort)
    (hs : memWf s.mem = true) :
    memWf (modEth s p f).mem = true := by
  unfold modEth
  try dsimp only
  repeat' split
  all_goals first | with_reducible assumption | (simp (maxDischargeDepth := 16) [*]; done) | simp_all +contextual (maxDischargeDepth := 16)

@[simp] theorem sendXoff_keeps (s : State) (p k : Nat)
    (hs : memWf s.mem = true) :
    memWf (sendXoff s p k).mem = true := by
  unfold sendXoff
  try dsimp only
  repeat' split
  all_goals first | with_reducible assumption | (simp (maxDischargeDepth := 16) [*]; done) | simp_all +contextual (maxDischargeDepth := 16)

@[simp] theorem pauseFrames_keeps (old new : State) (port : Nat)
    (hold : memWf old.mem = true) (hnew : memWf new.mem = true) :
    memWf (pauseFrames old new port).mem = true := by
  refine foldl_keeps _ _ _ (fun s k h => ?_) hnew
  split
  · exact sendXoff_keeps _ _ _ h
  · exact h
  · exact h

@[simp] theorem ringSee_keeps (s : State) (i : Nat) (r : IngestRing)
    (hs : memWf s.mem = true) :
    memWf (ringSee s i r).mem = true := by
  unfold ringSee
  try dsimp only
  repeat' split
  all_goals first | with_reducible assumption | (simp (maxDischargeDepth := 16) [*]; done) | simp_all +contextual (maxDischargeDepth := 16)

@[simp] theorem ringLook_keeps (s : State) (cs : List Host.Cell)
    (hs : memWf s.mem = true) :
    memWf (ringLook s cs).mem = true := by
  refine foldl_keeps _ _ _ (fun s p h => ?_) hs
  split
  · exact ringSee_keeps _ _ _ h
  · exact h

@[simp] theorem performWrite_keeps (s : State) (c : Option Nat) (via : Option Nat) (d : Nat) (prop : Bool) (cs : List Host.Cell)
    (hs : memWf s.mem = true) :
    memWf (performWrite s c via d prop cs).1.mem = true := by
  unfold performWrite
  try dsimp only
  repeat' split
  all_goals first | with_reducible assumption | simp_all +contextual (maxDischargeDepth := 16)

@[simp] theorem reveal_keeps (s : State) (h : Hidden)
    (hs : memWf s.mem = true) :
    memWf (reveal s h).mem = true := by
  unfold reveal
  exact ringLook_keeps _ _ (by simp [hs])

@[simp] theorem revealOne_keeps (s : State) (d : Nat)
    (hs : memWf s.mem = true) :
    memWf (revealOne s d).mem = true := by
  unfold revealOne
  split
  · exact hs
  · exact reveal_keeps _ _ hs

@[simp] theorem ringTick_keeps (s : State)
    (hs : memWf s.mem = true) :
    memWf (ringTick s).mem = true := by
  unfold ringTick
  exact foldl_keeps _ _ _ (fun s h k => reveal_keeps s h.1 k) hs

@[simp] theorem countEvent_keeps (s : State) (c ev : Nat) (p : Option Nat) (n : Nat)
    (hs : memWf s.mem = true) :
    memWf (countEvent s c ev p n).mem = true := by
  unfold countEvent
  try dsimp only
  repeat' split
  all_goals first | with_reducible assumption | simp_all +contextual (maxDischargeDepth := 16)

@[simp] theorem l1Read_keeps (s : State) (c : Nat) (p : Option Nat) (attr : Attr) (a n : Nat)
    (hs : memWf s.mem = true) :
    memWf (l1Read s c p attr a n).1.mem = true := by
  unfold l1Read
  try dsimp only
  repeat' split
  all_goals first | with_reducible assumption | simp_all +contextual (maxDischargeDepth := 16)

@[simp] theorem raisePwt_keeps (s : State) (c sl : Nat) (w : BitVec 64)
    (hs : memWf s.mem = true) :
    memWf (raisePwt s c sl w).mem = true := by
  unfold raisePwt
  try dsimp only
  repeat' split
  all_goals first | with_reducible assumption | simp_all +contextual (maxDischargeDepth := 16)

@[simp] theorem acquire_keeps (s : State) (c sl : Nat) (wide : Bool)
    (hs : memWf s.mem = true) :
    memWf (acquire s c sl wide).mem = true := by
  unfold acquire
  try dsimp only
  repeat' split
  all_goals first | with_reducible assumption | simp_all +contextual (maxDischargeDepth := 16)

@[simp] theorem acquireBehind_keeps (s : State) (c sl n : Nat)
    (hs : memWf s.mem = true) :
    memWf (acquireBehind s c sl n).mem = true := by
  unfold acquireBehind
  try dsimp only
  repeat' split
  all_goals first | with_reducible assumption | (simp (maxDischargeDepth := 16) [*]; done) | simp_all +contextual (maxDischargeDepth := 16)

@[simp] theorem phaseCheck_keeps (s : State) (t b : Nat)
    (hs : memWf s.mem = true) :
    memWf (phaseCheck s t b).mem = true := by
  unfold phaseCheck
  try dsimp only
  repeat' split
  all_goals first | with_reducible assumption | simp_all +contextual (maxDischargeDepth := 16)

@[simp] theorem bumpCluster_keeps (s : State) (g cid : Nat)
    (hs : memWf s.mem = true) :
    memWf (bumpCluster s g cid).mem = true := by
  unfold bumpCluster
  try dsimp only
  repeat' split
  all_goals first | with_reducible assumption | simp_all +contextual (maxDischargeDepth := 16)

@[simp] theorem releaseHalos_keeps (s : State) (tid : Nat) (t : Team)
    (hs : memWf s.mem = true) :
    memWf (releaseHalos s tid t).mem = true := by
  unfold releaseHalos
  try dsimp only
  repeat' split
  all_goals first | with_reducible assumption | simp_all +contextual (maxDischargeDepth := 16)

@[simp] theorem fillCbar_keeps (s : State) (c sl : Nat) (gen : BitVec 32)
    (hs : memWf s.mem = true) :
    memWf (fillCbar s c sl gen).mem = true := by
  unfold fillCbar
  try dsimp only
  repeat' split
  all_goals first | with_reducible assumption | simp_all +contextual (maxDischargeDepth := 16)

@[simp] theorem clusterCheck_keeps (s : State) (tid : Nat)
    (hs : memWf s.mem = true) :
    memWf (clusterCheck s tid).mem = true := by
  unfold clusterCheck
  try dsimp only
  repeat' split
  all_goals first | with_reducible assumption | simp_all +contextual (maxDischargeDepth := 16)

@[simp] theorem endGroup_keeps (s : State) (c sl : Nat)
    (hs : memWf s.mem = true) :
    memWf (endGroup s c sl).mem = true := by
  unfold endGroup
  try dsimp only
  repeat' split
  all_goals first | with_reducible assumption | simp_all +contextual (maxDischargeDepth := 16)

@[simp] theorem doubleFault_keeps (s : State) (c sl cause : Nat) (at_ : BAddr)
    (hs : memWf s.mem = true) :
    memWf (doubleFault s c sl cause at_).mem = true := by
  unfold doubleFault
  try dsimp only
  repeat' split
  all_goals first | with_reducible assumption | simp_all +contextual (maxDischargeDepth := 16)

@[simp] theorem enterHandler_keeps (s : State) (c sl cause : Nat) (at_ : BAddr) (rec_ : Group → Group)
    (hs : memWf s.mem = true) :
    memWf (enterHandler s c sl cause at_ rec_).mem = true := by
  unfold enterHandler
  try dsimp only
  repeat' split
  all_goals first | with_reducible assumption | simp_all +contextual (maxDischargeDepth := 16)

@[simp] theorem issueTrap_keeps (s : State) (c sl : Nat) (b : Bundle) (f : SlotFault)
    (hs : memWf s.mem = true) :
    memWf (issueTrap s c sl b f).mem = true := by
  unfold issueTrap
  try dsimp only
  repeat' split
  all_goals first | with_reducible assumption | simp_all +contextual (maxDischargeDepth := 16)

@[simp] theorem fetchTrap_keeps (s : State) (c sl cause : Nat)
    (hs : memWf s.mem = true) :
    memWf (fetchTrap s c sl cause).mem = true := by
  unfold fetchTrap
  try dsimp only
  repeat' split
  all_goals first | with_reducible assumption | simp_all +contextual (maxDischargeDepth := 16)

@[simp] theorem slotTrap_keeps (s : State) (c sl : Nat) (f : SlotFault)
    (hs : memWf s.mem = true) :
    memWf (slotTrap s c sl f).mem = true := by
  unfold slotTrap
  try dsimp only
  repeat' split
  all_goals first | with_reducible assumption | simp_all +contextual (maxDischargeDepth := 16)

@[simp] theorem softTrap_keeps (s : State) (c sl i : Nat) (code : BitVec 7)
    (hs : memWf s.mem = true) :
    memWf (softTrap s c sl i code).mem = true := by
  unfold softTrap
  try dsimp only
  repeat' split
  all_goals first | with_reducible assumption | simp_all +contextual (maxDischargeDepth := 16)

@[simp] theorem lateTrap_keeps (s : State) (c sl : Nat) (f : LateFault)
    (hs : memWf s.mem = true) :
    memWf (lateTrap s c sl f).mem = true := by
  unfold lateTrap
  try dsimp only
  repeat' split
  all_goals first | with_reducible assumption | simp_all +contextual (maxDischargeDepth := 16)

@[simp] theorem postLate_keeps (s : State) (c sl : Nat) (f : LateFault)
    (hs : memWf s.mem = true) :
    memWf (postLate s c sl f).mem = true := by
  unfold postLate
  try dsimp only
  repeat' split
  all_goals first | with_reducible assumption | simp_all +contextual (maxDischargeDepth := 16)

@[simp] theorem slotFault_keeps (s : State) (c sl cause fva ln : Nat)
    (hs : memWf s.mem = true) :
    memWf (slotFault s c sl cause fva ln).mem = true := by
  unfold slotFault
  try dsimp only
  repeat' split
  all_goals first | with_reducible assumption | simp_all +contextual (maxDischargeDepth := 16)

@[simp] theorem returnFromTrap_keeps (s : State) (c sl : Nat)
    (hs : memWf s.mem = true) :
    memWf (returnFromTrap s c sl).mem = true := by
  unfold returnFromTrap
  try dsimp only
  repeat' split
  all_goals first | with_reducible assumption | simp_all +contextual (maxDischargeDepth := 16)

end Sys2Proof.Machine
end

