-- ==== Sys2Proof/Laws/KeepAccess.lean ====
section
/-! SUPPORT. Each operation of Machine/Access.lean keeps the canonical form of memory. -/

namespace Sys2Proof.Machine

@[simp] theorem fillTlbs_keeps (s : State) (c : Nat) (e : TlbEntry)
    (hs : memWf s.mem = true) :
    memWf (fillTlbs s c e).mem = true := by
  unfold fillTlbs
  try dsimp only
  repeat' split
  all_goals first | with_reducible assumption | simp_all +contextual (maxDischargeDepth := 16)

@[simp] theorem fillWalks_keeps (s : State) (c : Nat) (a : Access)
    (hs : memWf s.mem = true) :
    memWf (fillWalks s c a).mem = true := by
  unfold fillWalks
  refine foldl_keeps _ _ _ (fun s e h => ?_) hs
  try dsimp only
  repeat' split
  all_goals simp_all

@[simp] theorem leaseEvent_keeps (s : State) (c p cause : Nat)
    (hs : memWf s.mem = true) :
    memWf (leaseEvent s c p cause).mem = true := by
  unfold leaseEvent
  try dsimp only
  repeat' split
  all_goals first | with_reducible assumption | (simp (maxDischargeDepth := 16) [*]; done) | simp_all +contextual (maxDischargeDepth := 16)

@[simp] theorem evictTlbs_keeps (s : State) (c : Nat)
    (hs : memWf s.mem = true) :
    memWf (evictTlbs s c).mem = true := by
  unfold evictTlbs
  try dsimp only
  repeat' split
  all_goals first | with_reducible assumption | (simp (maxDischargeDepth := 16) [*]; done) | simp_all +contextual (maxDischargeDepth := 16)

@[simp] theorem faultBuffer_keeps (s : State) (d : Nat) (e : FbEntry)
    (hs : memWf s.mem = true) :
    memWf (faultBuffer s d e).mem = true := by
  unfold faultBuffer
  try dsimp only
  repeat' split
  all_goals first | with_reducible assumption | simp_all +contextual (maxDischargeDepth := 16)

@[simp] theorem removeFaults_keeps (s : State) (d : Nat) (gone : FbEntry → Bool)
    (hs : memWf s.mem = true) :
    memWf (removeFaults s d gone).mem = true := by
  unfold removeFaults
  try dsimp only
  repeat' split
  all_goals first | with_reducible assumption | (simp (maxDischargeDepth := 16) [*]; done) | simp_all +contextual (maxDischargeDepth := 16)

@[simp] theorem popFault_keeps (s : State) (d : Nat)
    (hs : memWf s.mem = true) :
    memWf (popFault s d).mem = true := by
  unfold popFault
  try dsimp only
  repeat' split
  all_goals first | with_reducible assumption | (simp (maxDischargeDepth := 16) [*]; done) | simp_all +contextual (maxDischargeDepth := 16)

@[simp] theorem fetchWalk_keeps (s : State) (c p va : Nat)
    (hs : memWf s.mem = true) :
    memWf (fetchWalk s c p va).mem = true := by
  unfold fetchWalk
  try dsimp only
  repeat' split
  all_goals first | with_reducible assumption | (simp (maxDischargeDepth := 16) [*]; done) | simp_all +contextual (maxDischargeDepth := 16)

@[simp] theorem parkAccess_keeps (s : State) (c : Nat) (ref : ParkRef) (k : Key) (fva origin chan : Nat) (kind : AccKind)
    (hs : memWf s.mem = true) :
    memWf (parkAccess s c ref k fva origin chan kind).mem = true := by
  unfold parkAccess
  try dsimp only
  repeat' split
  all_goals first | with_reducible assumption | simp_all +contextual (maxDischargeDepth := 16)

@[simp] theorem readElem_keeps (s : State) (c : Nat) (a : Access) (e : Elem)
    (hs : memWf s.mem = true) :
    memWf (readElem s c a e).1.mem = true := by
  unfold readElem
  try dsimp only
  repeat' split
  all_goals first | with_reducible assumption | simp_all +contextual (maxDischargeDepth := 16)

@[simp] theorem readElems_keeps (s : State) (c : Nat) (a : Access) (ext : Nat → Slice)
    (hs : memWf s.mem = true) :
    memWf (readElems s c a ext).1.mem = true := by
  unfold readElems
  try dsimp only
  repeat' split
  all_goals first | with_reducible assumption | simp_all +contextual (maxDischargeDepth := 16)

@[simp] theorem writeElems_keeps (s : State) (c : Nat) (a : Access)
    (hs : memWf s.mem = true) :
    memWf (writeElems s c a).1.mem = true := by
  unfold writeElems
  try dsimp only
  repeat' split
  all_goals first | with_reducible assumption | simp_all +contextual (maxDischargeDepth := 16)

@[simp] theorem performStore_keeps (s : State) (c later : Nat) (a : Access)
    (hs : memWf s.mem = true) :
    memWf (performStore s c later a).1.mem = true := by
  unfold performStore
  exact writeElems_keeps _ _ _ hs

end Sys2Proof.Machine
end

