-- ==== Sys2Proof/Laws/KeepBundle.lean ====
section
/-! SUPPORT. Each operation of Machine/Bundle.lean keeps the canonical form of memory. -/

namespace Sys2Proof.Machine

@[simp] theorem capture_keeps (s : State) (c sl : Nat) (b : Bundle)
    (hs : memWf s.mem = true) :
    memWf (capture s c sl b).mem = true := by
  unfold capture
  try dsimp only
  repeat' split
  all_goals first | with_reducible assumption | simp_all +contextual (maxDischargeDepth := 16)

@[simp] theorem issueBundle_keeps (s : State) (c sl : Nat) (b : Bundle)
    (hs : memWf s.mem = true) :
    memWf (issueBundle s c sl b).mem = true := by
  unfold issueBundle
  try dsimp only
  repeat' split
  all_goals first | with_reducible assumption | simp_all +contextual (maxDischargeDepth := 16)

@[simp] theorem openSolo_keeps (s : State) (c sl : Nat) (i : Instr)
    (hs : memWf s.mem = true) :
    memWf (openSolo s c sl i).mem = true := by
  unfold openSolo
  try dsimp only
  repeat' split
  all_goals first | with_reducible assumption | simp_all +contextual (maxDischargeDepth := 16)

@[simp] theorem runMove_keeps (i : Instr) (s : State) (f : State → Nat → Nat → Nat → State)
    (hf : ∀ (x0 : State) (x1 : Nat) (x2 : Nat) (x3 : Nat), memWf x0.mem = true → memWf (f x0 x1 x2 x3).mem = true) (hs : memWf s.mem = true) :
    memWf (runMove i s f).mem = true := by
  unfold runMove
  try dsimp only
  repeat' split
  all_goals first | with_reducible assumption | simp_all +contextual (maxDischargeDepth := 16)

@[simp] theorem runTrig_keeps (i : Instr) (cls : UnitCls) (t : Trig) (s : State) (f : State → Nat → Nat → Nat → Opnd → State)
    (hf : ∀ (x0 : State) (x1 : Nat) (x2 : Nat) (x3 : Nat) (x4 : Opnd), memWf x0.mem = true → memWf (f x0 x1 x2 x3 x4).mem = true) (hs : memWf s.mem = true) :
    memWf (runTrig i cls t s f).mem = true := by
  unfold runTrig
  try dsimp only
  repeat' split
  all_goals first | with_reducible assumption | simp_all +contextual (maxDischargeDepth := 16)

@[simp] theorem runFixed_keeps (i : Instr) (cls : UnitCls) (t : Trig) (n : Nat) (s : State) (f : Opnd → FixedRes)
    (hs : memWf s.mem = true) :
    memWf (runFixed i cls t n s f).mem = true := by
  unfold runFixed
  try dsimp only
  repeat' split
  all_goals first | with_reducible assumption | simp_all +contextual (maxDischargeDepth := 16)

@[simp] theorem addEntry_keeps (s : State) (c sl k u : Nat) (o : Opnd) (v : Row) (p : Pend)
    (hs : memWf s.mem = true) :
    memWf (addEntry s c sl k u o v p).mem = true := by
  unfold addEntry
  try dsimp only
  repeat' split
  all_goals first | with_reducible assumption | simp_all +contextual (maxDischargeDepth := 16)

@[simp] theorem addTimed_keeps (s : State) (c sl k u : Nat) (o : Opnd) (n : Nat) (v : Slice)
    (hs : memWf s.mem = true) :
    memWf (addTimed s c sl k u o n v).mem = true := by
  unfold addTimed
  try dsimp only
  repeat' split
  all_goals first | with_reducible assumption | simp_all +contextual (maxDischargeDepth := 16)

@[simp] theorem pcStep_keeps (s : State) (c sl : Nat)
    (hs : memWf s.mem = true) :
    memWf (pcStep s c sl).mem = true := by
  unfold pcStep
  extract_lets g b i done stackFault
  have hd (f : Group → Group) : memWf (done f).mem = true := by simp only [done, modGroup_mem, hs]
  have hf : memWf stackFault.mem = true := by
    simp only [stackFault]
    refine slotTrap_keeps _ _ _ _ ?_
    rw [modGroup_mem]; exact hs
  clear_value stackFault
  clear_value done
  cases b.br with
  | none => exact hd _
  | some a => cases a <;> dsimp only <;> (try split) <;> first | with_reducible exact hd _ | with_reducible exact hf

@[simp] theorem dropPrivate_keeps (s : State) (c sl : Nat)
    (hs : memWf s.mem = true) :
    memWf (dropPrivate s c sl).mem = true := by
  unfold dropPrivate
  try dsimp only
  repeat' split
  all_goals first | with_reducible assumption | (simp (maxDischargeDepth := 16) [*]; done) | simp_all +contextual (maxDischargeDepth := 16)

@[simp] theorem finishBundle_keeps (s : State) (c sl : Nat)
    (hs : memWf s.mem = true) :
    memWf (finishBundle s c sl).mem = true := by
  unfold finishBundle
  extract_lets g b s1 looped
  have hs : memWf s1.mem = true := countEvent_keeps _ _ _ _ _ hs
  clear_value s1
  have hl : memWf (looped s1).mem = true := by
    simp only [looped]
    split
    · exact hs
    · exact hs
  clear_value looped
  have h1 := fun i x => softTrap_keeps (looped s1) c sl i x hl
  have h0 := fun i x => softTrap_keeps s1 c sl i x hs
  have h2 := pcStep_keeps (looped s1) c sl hl
  have h3 := fun f => slotTrap_keeps s1 c sl f hs
  have h4 := endGroup_keeps s1 c sl hs
  have h5 := fun f : Group → Group => dropPrivate_keeps _ c sl (returnFromTrap_keeps (modGroup s1 c sl f) c sl hs)
  repeat' split
  all_goals first | with_reducible exact h0 _ _ | with_reducible exact h1 _ _ | with_reducible exact h2 | with_reducible exact h3 _ | with_reducible exact h4 | with_reducible exact h5 _

@[simp] theorem settle_keeps (s : State) (c sl : Nat)
    (hs : memWf s.mem = true) :
    memWf (settle s c sl).mem = true := by
  unfold settle
  try dsimp only
  repeat' split
  all_goals first | with_reducible assumption | simp_all +contextual (maxDischargeDepth := 16)

end Sys2Proof.Machine
end

