-- ==== Sys2Proof/Laws/KeepLs.lean ====
section
/-! SUPPORT. Each operation of Machine/Ls.lean keeps the canonical form of memory. -/

namespace Sys2Proof.Machine

@[simp] theorem putAccess_keeps (s : State) (c sl u : Nat) (hand : Bool) (a : Access)
    (hs : memWf s.mem = true) :
    memWf (putAccess s c sl u hand a).mem = true := by
  unfold putAccess
  try dsimp only
  repeat' split
  all_goals first | with_reducible assumption | simp_all +contextual (maxDischargeDepth := 16)

@[simp] theorem dropAccess_keeps (s : State) (c sl u : Nat) (hand : Bool) (seq : Nat)
    (hs : memWf s.mem = true) :
    memWf (dropAccess s c sl u hand seq).mem = true := by
  unfold dropAccess
  try dsimp only
  repeat' split
  all_goals first | with_reducible assumption | simp_all +contextual (maxDischargeDepth := 16)

@[simp] theorem parkOrHold_keeps (s : State) (c sl u : Nat) (hand : Bool) (a : Access) (key : Key) (v : Nat)
    (hs : memWf s.mem = true) :
    memWf (parkOrHold s c sl u hand a key v).mem = true := by
  unfold parkOrHold
  try dsimp only
  repeat' split
  all_goals first | with_reducible assumption | simp_all +contextual (maxDischargeDepth := 16)

@[simp] theorem startWalk_keeps (s : State) (c sl k u : Nat) (hand : Bool) (a : Access)
    (hs : memWf s.mem = true) :
    memWf (startWalk s c sl k u hand a).mem = true := by
  unfold startWalk
  try dsimp only
  repeat' split
  all_goals first | with_reducible assumption | simp_all +contextual (maxDischargeDepth := 16)

@[simp] theorem beginAccess_keeps (s : State) (c sl k u : Nat) (a : Access) (add : State → Access → State)
    (hadd : ∀ (x0 : State) (x1 : Access), memWf x0.mem = true → memWf (add x0 x1).mem = true) (hs : memWf s.mem = true) :
    memWf (beginAccess s c sl k u a add).mem = true := by
  unfold beginAccess
  try dsimp only
  repeat' split
  all_goals first | with_reducible assumption | simp_all +contextual (maxDischargeDepth := 16)

@[simp] theorem entryAccess_keeps (s : State) (c sl k u : Nat) (o : Opnd) (a : Access) (mk : Access → Pend)
    (hs : memWf s.mem = true) :
    memWf (entryAccess s c sl k u o a mk).mem = true := by
  unfold entryAccess
  try dsimp only
  repeat' split
  all_goals first | with_reducible assumption | simp_all +contextual (maxDischargeDepth := 16)

@[simp] theorem runLs_keeps (i : Instr) (t : Trig) (s : State) (mk : Opnd → Access)
    (hs : memWf s.mem = true) :
    memWf (runLs i t s mk).mem = true := by
  unfold runLs
  try dsimp only
  repeat' split
  all_goals first | with_reducible assumption | simp_all +contextual (maxDischargeDepth := 16)

@[simp] theorem prefetch_keeps (s : State) (c sl : Nat) (o : Opnd)
    (hs : memWf s.mem = true) :
    memWf (prefetch s c sl o).mem = true := by
  unfold prefetch
  try dsimp only
  repeat' split
  all_goals first | with_reducible assumption | simp_all +contextual (maxDischargeDepth := 16)

@[simp] theorem atomicLane_keeps (s : State) (c : Nat) (a : Access) (e : Elem) (mine : List Host.Cell)
    (hs : memWf s.mem = true) :
    memWf (atomicLane s c a e mine).1.mem = true := by
  unfold atomicLane
  try dsimp only
  repeat' split
  all_goals first | with_reducible assumption | (simp (maxDischargeDepth := 16) [*]; done) | simp_all +contextual (maxDischargeDepth := 16)

@[simp] theorem performAtomic_keeps (s : State) (c later : Nat) (a : Access)
    (hs : memWf s.mem = true) :
    memWf (performAtomic s c later a).1.mem = true := by
  unfold performAtomic
  try dsimp only
  repeat' split
  all_goals first | with_reducible assumption | (simp (maxDischargeDepth := 16) [*]; done) | simp_all +contextual (maxDischargeDepth := 16)

@[simp] theorem performLoad_keeps (s : State) (c later : Nat) (ext : Nat → Slice) (a : Access)
    (hs : memWf s.mem = true) :
    memWf (performLoad s c later ext a).1.mem = true := by
  unfold performLoad
  exact readElems_keeps s c _ ext hs

@[simp] theorem performLs_keeps (s : State) (c later : Nat) (a : Access)
    (hs : memWf s.mem = true) :
    memWf (performLs s c later a).1.mem = true := by
  unfold performLs
  split
  · exact performStore_keeps _ _ _ _ hs
  · exact performAtomic_keeps _ _ _ _ hs
  · exact performLoad_keeps _ _ _ _ _ hs

@[simp] theorem lsDone_keeps (s : State) (c sl : Nat) (a : Access)
    (hs : memWf s.mem = true) :
    memWf (lsDone s c sl a).mem = true := by
  unfold lsDone
  try dsimp only
  repeat' split
  all_goals first | with_reducible assumption | (simp (maxDischargeDepth := 16) [*]; done) | simp_all +contextual (maxDischargeDepth := 16)

@[simp] theorem accessFault_keeps (s : State) (c sl u : Nat) (hand : Bool) (i cause fva : Nat)
    (hs : memWf s.mem = true) :
    memWf (accessFault s c sl u hand i cause fva).mem = true := by
  unfold accessFault
  try dsimp only
  repeat' split
  all_goals first | with_reducible assumption | simp_all +contextual (maxDischargeDepth := 16)

@[simp] theorem fillParts_keeps (s : State) (c sl u : Nat) (hand : Bool) (i later : Nat) (a : Access)
    (hs : memWf s.mem = true) :
    memWf (fillParts s c sl u hand i later a).mem = true := by
  unfold fillParts
  have h := performLs_keeps s c later a hs
  try dsimp only
  repeat' split
  all_goals first | with_reducible assumption | (simp (maxDischargeDepth := 16) [*]; done) | simp_all +contextual (maxDischargeDepth := 16)

@[simp] theorem fillAccess_keeps (s : State) (c sl u : Nat) (hand : Bool) (i : Nat) (a : Access)
    (hs : memWf s.mem = true) :
    memWf (fillAccess s c sl u hand i a).mem = true := by
  unfold fillAccess
  try dsimp only
  repeat' split
  all_goals first | with_reducible assumption | simp_all +contextual (maxDischargeDepth := 16)

@[simp] theorem execLsLd_keeps (t : Trig) (s : State)
    (hs : memWf s.mem = true) :
    OutOk (execLsLd t s) := by
  unfold execLsLd
  try dsimp only
  repeat' split
  all_goals first | with_reducible assumption | simp_all +contextual (maxDischargeDepth := 16)

@[simp] theorem execLsSt_keeps (t : Trig) (s : State)
    (hs : memWf s.mem = true) :
    OutOk (execLsSt t s) := by
  unfold execLsSt
  try dsimp only
  repeat' split
  all_goals first | with_reducible assumption | simp_all +contextual (maxDischargeDepth := 16)

@[simp] theorem execLsLdv_keeps (t : Trig) (s : State)
    (hs : memWf s.mem = true) :
    OutOk (execLsLdv t s) := by
  unfold execLsLdv
  try dsimp only
  repeat' split
  all_goals first | with_reducible assumption | simp_all +contextual (maxDischargeDepth := 16)

@[simp] theorem execLsStv_keeps (t : Trig) (s : State)
    (hs : memWf s.mem = true) :
    OutOk (execLsStv t s) := by
  unfold execLsStv
  try dsimp only
  repeat' split
  all_goals first | with_reducible assumption | simp_all +contextual (maxDischargeDepth := 16)

@[simp] theorem execLsLdacq_keeps (t : Trig) (s : State)
    (hs : memWf s.mem = true) :
    OutOk (execLsLdacq t s) := by
  unfold execLsLdacq
  try dsimp only
  repeat' split
  all_goals first | with_reducible assumption | simp_all +contextual (maxDischargeDepth := 16)

@[simp] theorem execLsStrel_keeps (t : Trig) (s : State)
    (hs : memWf s.mem = true) :
    OutOk (execLsStrel t s) := by
  unfold execLsStrel
  try dsimp only
  repeat' split
  all_goals first | with_reducible assumption | simp_all +contextual (maxDischargeDepth := 16)

@[simp] theorem execLsPf_keeps (t : Trig) (s : State)
    (hs : memWf s.mem = true) :
    OutOk (execLsPf t s) := by
  unfold execLsPf
  try dsimp only
  repeat' split
  all_goals first | with_reducible assumption | simp_all +contextual (maxDischargeDepth := 16)

@[simp] theorem execLsLdnc_keeps (t : Trig) (s : State)
    (hs : memWf s.mem = true) :
    OutOk (execLsLdnc t s) := by
  unfold execLsLdnc
  try dsimp only
  repeat' split
  all_goals first | with_reducible assumption | simp_all +contextual (maxDischargeDepth := 16)

@[simp] theorem execLsStMc_keeps (t : Trig) (s : State)
    (hs : memWf s.mem = true) :
    OutOk (execLsStMc t s) := by
  unfold execLsStMc
  try dsimp only
  repeat' split
  all_goals first | with_reducible assumption | simp_all +contextual (maxDischargeDepth := 16)

@[simp] theorem execLsAadd_keeps (t : Trig) (s : State)
    (hs : memWf s.mem = true) :
    OutOk (execLsAadd t s) := by
  unfold execLsAadd
  try dsimp only
  repeat' split
  all_goals first | with_reducible assumption | simp_all +contextual (maxDischargeDepth := 16)

@[simp] theorem execLsAsub_keeps (t : Trig) (s : State)
    (hs : memWf s.mem = true) :
    OutOk (execLsAsub t s) := by
  unfold execLsAsub
  try dsimp only
  repeat' split
  all_goals first | with_reducible assumption | simp_all +contextual (maxDischargeDepth := 16)

@[simp] theorem execLsAmin_keeps (t : Trig) (s : State)
    (hs : memWf s.mem = true) :
    OutOk (execLsAmin t s) := by
  unfold execLsAmin
  try dsimp only
  repeat' split
  all_goals first | with_reducible assumption | simp_all +contextual (maxDischargeDepth := 16)

@[simp] theorem execLsAmax_keeps (t : Trig) (s : State)
    (hs : memWf s.mem = true) :
    OutOk (execLsAmax t s) := by
  unfold execLsAmax
  try dsimp only
  repeat' split
  all_goals first | with_reducible assumption | simp_all +contextual (maxDischargeDepth := 16)

@[simp] theorem execLsAand_keeps (t : Trig) (s : State)
    (hs : memWf s.mem = true) :
    OutOk (execLsAand t s) := by
  unfold execLsAand
  try dsimp only
  repeat' split
  all_goals first | with_reducible assumption | simp_all +contextual (maxDischargeDepth := 16)

@[simp] theorem execLsAor_keeps (t : Trig) (s : State)
    (hs : memWf s.mem = true) :
    OutOk (execLsAor t s) := by
  unfold execLsAor
  try dsimp only
  repeat' split
  all_goals first | with_reducible assumption | simp_all +contextual (maxDischargeDepth := 16)

@[simp] theorem execLsAxor_keeps (t : Trig) (s : State)
    (hs : memWf s.mem = true) :
    OutOk (execLsAxor t s) := by
  unfold execLsAxor
  try dsimp only
  repeat' split
  all_goals first | with_reducible assumption | simp_all +contextual (maxDischargeDepth := 16)

@[simp] theorem execLsAxch_keeps (t : Trig) (s : State)
    (hs : memWf s.mem = true) :
    OutOk (execLsAxch t s) := by
  unfold execLsAxch
  try dsimp only
  repeat' split
  all_goals first | with_reducible assumption | simp_all +contextual (maxDischargeDepth := 16)

@[simp] theorem execLsAcas_keeps (t : Trig) (s : State)
    (hs : memWf s.mem = true) :
    OutOk (execLsAcas t s) := by
  unfold execLsAcas
  try dsimp only
  repeat' split
  all_goals first | with_reducible assumption | simp_all +contextual (maxDischargeDepth := 16)

@[simp] theorem execLsAaddf_keeps (t : Trig) (s : State)
    (hs : memWf s.mem = true) :
    OutOk (execLsAaddf t s) := by
  unfold execLsAaddf
  try dsimp only
  repeat' split
  all_goals first | with_reducible assumption | simp_all +contextual (maxDischargeDepth := 16)

@[simp] theorem execLsAaddAcq_keeps (t : Trig) (s : State)
    (hs : memWf s.mem = true) :
    OutOk (execLsAaddAcq t s) := by
  unfold execLsAaddAcq
  try dsimp only
  repeat' split
  all_goals first | with_reducible assumption | simp_all +contextual (maxDischargeDepth := 16)

@[simp] theorem execLsAsubAcq_keeps (t : Trig) (s : State)
    (hs : memWf s.mem = true) :
    OutOk (execLsAsubAcq t s) := by
  unfold execLsAsubAcq
  try dsimp only
  repeat' split
  all_goals first | with_reducible assumption | simp_all +contextual (maxDischargeDepth := 16)

@[simp] theorem execLsAminAcq_keeps (t : Trig) (s : State)
    (hs : memWf s.mem = true) :
    OutOk (execLsAminAcq t s) := by
  unfold execLsAminAcq
  try dsimp only
  repeat' split
  all_goals first | with_reducible assumption | simp_all +contextual (maxDischargeDepth := 16)

@[simp] theorem execLsAmaxAcq_keeps (t : Trig) (s : State)
    (hs : memWf s.mem = true) :
    OutOk (execLsAmaxAcq t s) := by
  unfold execLsAmaxAcq
  try dsimp only
  repeat' split
  all_goals first | with_reducible assumption | simp_all +contextual (maxDischargeDepth := 16)

@[simp] theorem execLsAandAcq_keeps (t : Trig) (s : State)
    (hs : memWf s.mem = true) :
    OutOk (execLsAandAcq t s) := by
  unfold execLsAandAcq
  try dsimp only
  repeat' split
  all_goals first | with_reducible assumption | simp_all +contextual (maxDischargeDepth := 16)

@[simp] theorem execLsAorAcq_keeps (t : Trig) (s : State)
    (hs : memWf s.mem = true) :
    OutOk (execLsAorAcq t s) := by
  unfold execLsAorAcq
  try dsimp only
  repeat' split
  all_goals first | with_reducible assumption | simp_all +contextual (maxDischargeDepth := 16)

@[simp] theorem execLsAxorAcq_keeps (t : Trig) (s : State)
    (hs : memWf s.mem = true) :
    OutOk (execLsAxorAcq t s) := by
  unfold execLsAxorAcq
  try dsimp only
  repeat' split
  all_goals first | with_reducible assumption | simp_all +contextual (maxDischargeDepth := 16)

@[simp] theorem execLsAxchAcq_keeps (t : Trig) (s : State)
    (hs : memWf s.mem = true) :
    OutOk (execLsAxchAcq t s) := by
  unfold execLsAxchAcq
  try dsimp only
  repeat' split
  all_goals first | with_reducible assumption | simp_all +contextual (maxDischargeDepth := 16)

@[simp] theorem execLsAcasAcq_keeps (t : Trig) (s : State)
    (hs : memWf s.mem = true) :
    OutOk (execLsAcasAcq t s) := by
  unfold execLsAcasAcq
  try dsimp only
  repeat' split
  all_goals first | with_reducible assumption | simp_all +contextual (maxDischargeDepth := 16)

@[simp] theorem execLsAaddfAcq_keeps (t : Trig) (s : State)
    (hs : memWf s.mem = true) :
    OutOk (execLsAaddfAcq t s) := by
  unfold execLsAaddfAcq
  try dsimp only
  repeat' split
  all_goals first | with_reducible assumption | simp_all +contextual (maxDischargeDepth := 16)

@[simp] theorem execLsAaddRel_keeps (t : Trig) (s : State)
    (hs : memWf s.mem = true) :
    OutOk (execLsAaddRel t s) := by
  unfold execLsAaddRel
  try dsimp only
  repeat' split
  all_goals first | with_reducible assumption | simp_all +contextual (maxDischargeDepth := 16)

@[simp] theorem execLsAsubRel_keeps (t : Trig) (s : State)
    (hs : memWf s.mem = true) :
    OutOk (execLsAsubRel t s) := by
  unfold execLsAsubRel
  try dsimp only
  repeat' split
  all_goals first | with_reducible assumption | simp_all +contextual (maxDischargeDepth := 16)

@[simp] theorem execLsAminRel_keeps (t : Trig) (s : State)
    (hs : memWf s.mem = true) :
    OutOk (execLsAminRel t s) := by
  unfold execLsAminRel
  try dsimp only
  repeat' split
  all_goals first | with_reducible assumption | simp_all +contextual (maxDischargeDepth := 16)

@[simp] theorem execLsAmaxRel_keeps (t : Trig) (s : State)
    (hs : memWf s.mem = true) :
    OutOk (execLsAmaxRel t s) := by
  unfold execLsAmaxRel
  try dsimp only
  repeat' split
  all_goals first | with_reducible assumption | simp_all +contextual (maxDischargeDepth := 16)

@[simp] theorem execLsAandRel_keeps (t : Trig) (s : State)
    (hs : memWf s.mem = true) :
    OutOk (execLsAandRel t s) := by
  unfold execLsAandRel
  try dsimp only
  repeat' split
  all_goals first | with_reducible assumption | simp_all +contextual (maxDischargeDepth := 16)

@[simp] theorem execLsAorRel_keeps (t : Trig) (s : State)
    (hs : memWf s.mem = true) :
    OutOk (execLsAorRel t s) := by
  unfold execLsAorRel
  try dsimp only
  repeat' split
  all_goals first | with_reducible assumption | simp_all +contextual (maxDischargeDepth := 16)

@[simp] theorem execLsAxorRel_keeps (t : Trig) (s : State)
    (hs : memWf s.mem = true) :
    OutOk (execLsAxorRel t s) := by
  unfold execLsAxorRel
  try dsimp only
  repeat' split
  all_goals first | with_reducible assumption | simp_all +contextual (maxDischargeDepth := 16)

@[simp] theorem execLsAxchRel_keeps (t : Trig) (s : State)
    (hs : memWf s.mem = true) :
    OutOk (execLsAxchRel t s) := by
  unfold execLsAxchRel
  try dsimp only
  repeat' split
  all_goals first | with_reducible assumption | simp_all +contextual (maxDischargeDepth := 16)

@[simp] theorem execLsAcasRel_keeps (t : Trig) (s : State)
    (hs : memWf s.mem = true) :
    OutOk (execLsAcasRel t s) := by
  unfold execLsAcasRel
  try dsimp only
  repeat' split
  all_goals first | with_reducible assumption | simp_all +contextual (maxDischargeDepth := 16)

@[simp] theorem execLsAaddfRel_keeps (t : Trig) (s : State)
    (hs : memWf s.mem = true) :
    OutOk (execLsAaddfRel t s) := by
  unfold execLsAaddfRel
  try dsimp only
  repeat' split
  all_goals first | with_reducible assumption | simp_all +contextual (maxDischargeDepth := 16)

@[simp] theorem execLsAaddAr_keeps (t : Trig) (s : State)
    (hs : memWf s.mem = true) :
    OutOk (execLsAaddAr t s) := by
  unfold execLsAaddAr
  try dsimp only
  repeat' split
  all_goals first | with_reducible assumption | simp_all +contextual (maxDischargeDepth := 16)

@[simp] theorem execLsAsubAr_keeps (t : Trig) (s : State)
    (hs : memWf s.mem = true) :
    OutOk (execLsAsubAr t s) := by
  unfold execLsAsubAr
  try dsimp only
  repeat' split
  all_goals first | with_reducible assumption | simp_all +contextual (maxDischargeDepth := 16)

@[simp] theorem execLsAminAr_keeps (t : Trig) (s : State)
    (hs : memWf s.mem = true) :
    OutOk (execLsAminAr t s) := by
  unfold execLsAminAr
  try dsimp only
  repeat' split
  all_goals first | with_reducible assumption | simp_all +contextual (maxDischargeDepth := 16)

@[simp] theorem execLsAmaxAr_keeps (t : Trig) (s : State)
    (hs : memWf s.mem = true) :
    OutOk (execLsAmaxAr t s) := by
  unfold execLsAmaxAr
  try dsimp only
  repeat' split
  all_goals first | with_reducible assumption | simp_all +contextual (maxDischargeDepth := 16)

@[simp] theorem execLsAandAr_keeps (t : Trig) (s : State)
    (hs : memWf s.mem = true) :
    OutOk (execLsAandAr t s) := by
  unfold execLsAandAr
  try dsimp only
  repeat' split
  all_goals first | with_reducible assumption | simp_all +contextual (maxDischargeDepth := 16)

@[simp] theorem execLsAorAr_keeps (t : Trig) (s : State)
    (hs : memWf s.mem = true) :
    OutOk (execLsAorAr t s) := by
  unfold execLsAorAr
  try dsimp only
  repeat' split
  all_goals first | with_reducible assumption | simp_all +contextual (maxDischargeDepth := 16)

@[simp] theorem execLsAxorAr_keeps (t : Trig) (s : State)
    (hs : memWf s.mem = true) :
    OutOk (execLsAxorAr t s) := by
  unfold execLsAxorAr
  try dsimp only
  repeat' split
  all_goals first | with_reducible assumption | simp_all +contextual (maxDischargeDepth := 16)

@[simp] theorem execLsAxchAr_keeps (t : Trig) (s : State)
    (hs : memWf s.mem = true) :
    OutOk (execLsAxchAr t s) := by
  unfold execLsAxchAr
  try dsimp only
  repeat' split
  all_goals first | with_reducible assumption | simp_all +contextual (maxDischargeDepth := 16)

@[simp] theorem execLsAcasAr_keeps (t : Trig) (s : State)
    (hs : memWf s.mem = true) :
    OutOk (execLsAcasAr t s) := by
  unfold execLsAcasAr
  try dsimp only
  repeat' split
  all_goals first | with_reducible assumption | simp_all +contextual (maxDischargeDepth := 16)

@[simp] theorem execLsAaddfAr_keeps (t : Trig) (s : State)
    (hs : memWf s.mem = true) :
    OutOk (execLsAaddfAr t s) := by
  unfold execLsAaddfAr
  try dsimp only
  repeat' split
  all_goals first | with_reducible assumption | simp_all +contextual (maxDischargeDepth := 16)

end Sys2Proof.Machine
end

