-- ==== Sys2Proof/Laws/KeepSy.lean ====
section
/-! SUPPORT. Each operation of Machine/Sy.lean keeps the canonical form of memory. -/

namespace Sys2Proof.Machine

@[simp] theorem lastSy_keeps (s : State) (c sl : Nat) (f : QEntry → QEntry)
    (hs : memWf s.mem = true) :
    memWf (lastSy s c sl f).mem = true := by
  unfold lastSy
  try dsimp only
  repeat' split
  all_goals first | with_reducible assumption | (simp (maxDischargeDepth := 16) [*]; done) | simp_all +contextual (maxDischargeDepth := 16)

@[simp] theorem syFault_keeps (s : State) (c sl cause : Nat) (o : Opnd)
    (hs : memWf s.mem = true) :
    memWf (syFault s c sl cause o).mem = true := by
  unfold syFault
  try dsimp only
  repeat' split
  all_goals first | with_reducible assumption | simp_all +contextual (maxDischargeDepth := 16)

@[simp] theorem syEntry_keeps (s : State) (c sl k : Nat) (o : Opnd) (p : Pend)
    (hs : memWf s.mem = true) :
    memWf (syEntry s c sl k o p).mem = true := by
  unfold syEntry
  try dsimp only
  repeat' split
  all_goals first | with_reducible assumption | simp_all +contextual (maxDischargeDepth := 16)

@[simp] theorem addArrival_keeps (s : State) (c sl b : Nat)
    (hs : memWf s.mem = true) :
    memWf (addArrival s c sl b).mem = true := by
  unfold addArrival
  try dsimp only
  repeat' split
  all_goals first | with_reducible assumption | simp_all +contextual (maxDischargeDepth := 16)

@[simp] theorem markFence_keeps (s : State) (c sl : Nat) (wide : Bool)
    (hs : memWf s.mem = true) :
    memWf (markFence s c sl wide).mem = true := by
  unfold markFence
  try dsimp only
  repeat' split
  all_goals first | with_reducible assumption | (simp (maxDischargeDepth := 16) [*]; done) | simp_all +contextual (maxDischargeDepth := 16)

@[simp] theorem holdRelease_keeps (s : State) (c sl : Nat) (fence : Bool) (scope : BitVec 3)
    (hs : memWf s.mem = true) :
    memWf (holdRelease s c sl fence scope).mem = true := by
  unfold holdRelease
  try dsimp only
  repeat' split
  all_goals first | with_reducible assumption | simp_all +contextual (maxDischargeDepth := 16)

@[simp] theorem marked_keeps (s : State) (c sl : Nat) (wide : Bool)
    (hs : memWf s.mem = true) :
    memWf (marked s c sl wide).mem = true := by
  unfold marked
  try dsimp only
  repeat' split
  all_goals first | with_reducible assumption | (simp (maxDischargeDepth := 16) [*]; done) | simp_all +contextual (maxDischargeDepth := 16)

@[simp] theorem execSyBar_keeps (t : Trig) (s : State)
    (hs : memWf s.mem = true) :
    OutOk (execSyBar t s) := by
  unfold execSyBar
  try dsimp only
  repeat' split
  all_goals first | with_reducible assumption | simp_all +contextual (maxDischargeDepth := 16)

@[simp] theorem execSyBarw_keeps (t : Trig) (s : State)
    (hs : memWf s.mem = true) :
    OutOk (execSyBarw t s) := by
  unfold execSyBarw
  try dsimp only
  repeat' split
  all_goals first | with_reducible assumption | simp_all +contextual (maxDischargeDepth := 16)

@[simp] theorem execSyBarar_keeps (t : Trig) (s : State)
    (hs : memWf s.mem = true) :
    OutOk (execSyBarar t s) := by
  unfold execSyBarar
  try dsimp only
  repeat' split
  all_goals first | with_reducible assumption | simp_all +contextual (maxDischargeDepth := 16)

@[simp] theorem execSyCbar_keeps (t : Trig) (s : State)
    (hs : memWf s.mem = true) :
    OutOk (execSyCbar t s) := by
  unfold execSyCbar
  try dsimp only
  repeat' split
  all_goals first | with_reducible assumption | simp_all +contextual (maxDischargeDepth := 16)

@[simp] theorem execSyFence_keeps (t : Trig) (s : State)
    (hs : memWf s.mem = true) :
    OutOk (execSyFence t s) := by
  unfold execSyFence
  try dsimp only
  repeat' split
  all_goals first | with_reducible assumption | simp_all +contextual (maxDischargeDepth := 16)

@[simp] theorem execSyAcq_keeps (t : Trig) (s : State)
    (hs : memWf s.mem = true) :
    OutOk (execSyAcq t s) := by
  unfold execSyAcq
  try dsimp only
  repeat' split
  all_goals first | with_reducible assumption | simp_all +contextual (maxDischargeDepth := 16)

@[simp] theorem execSyRel_keeps (t : Trig) (s : State)
    (hs : memWf s.mem = true) :
    OutOk (execSyRel t s) := by
  unfold execSyRel
  try dsimp only
  repeat' split
  all_goals first | with_reducible assumption | simp_all +contextual (maxDischargeDepth := 16)

@[simp] theorem execSyTwait_keeps (t : Trig) (s : State)
    (hs : memWf s.mem = true) :
    OutOk (execSyTwait t s) := by
  unfold execSyTwait
  try dsimp only
  repeat' split
  all_goals first | with_reducible assumption | simp_all +contextual (maxDischargeDepth := 16)

@[simp] theorem execSyTread_keeps (t : Trig) (s : State)
    (hs : memWf s.mem = true) :
    OutOk (execSyTread t s) := by
  refine runTrig_keeps _ _ _ _ _ (fun s c sl k o h => ?_) hs
  dsimp only
  split <;> simp_all [syFault]

@[simp] theorem execSyMwait_keeps (t : Trig) (s : State)
    (hs : memWf s.mem = true) :
    OutOk (execSyMwait t s) := by
  unfold execSyMwait
  try dsimp only
  repeat' split
  all_goals first | with_reducible assumption | simp_all +contextual (maxDischargeDepth := 16)

@[simp] theorem execSyWmwait_keeps (t : Trig) (s : State)
    (hs : memWf s.mem = true) :
    OutOk (execSyWmwait t s) := by
  have hgo (s : State) (c sl k : Nat) (o : Opnd) (ch : Nat) (h : memWf s.mem = true) :
      memWf (execSyWmwait.go s c sl k o ch).mem = true := by
    unfold execSyWmwait.go
    simp_all +contextual
  refine runTrig_keeps _ _ _ _ _ (fun s c sl k o h => ?_) hs
  dsimp only
  repeat' split
  all_goals simp_all

@[simp] theorem execSySleep_keeps (t : Trig) (s : State)
    (hs : memWf s.mem = true) :
    OutOk (execSySleep t s) := by
  unfold execSySleep
  try dsimp only
  repeat' split
  all_goals first | with_reducible assumption | simp_all +contextual (maxDischargeDepth := 16)

@[simp] theorem execSyTick_keeps (t : Trig) (s : State)
    (hs : memWf s.mem = true) :
    OutOk (execSyTick t s) := by
  unfold execSyTick
  try dsimp only
  repeat' split
  all_goals first | with_reducible assumption | simp_all +contextual (maxDischargeDepth := 16)

@[simp] theorem execReleaseComplete_keeps (s : State)
    (hs : memWf s.mem = true) :
    OutOk (execReleaseComplete s) := by
  unfold execReleaseComplete
  try dsimp only
  repeat' split
  all_goals first | with_reducible assumption | simp_all +contextual (maxDischargeDepth := 16)

@[simp] theorem execBarrierArrival_keeps (s : State)
    (hs : memWf s.mem = true) :
    OutOk (execBarrierArrival s) := by
  unfold execBarrierArrival
  try dsimp only
  repeat' split
  all_goals first | with_reducible assumption | simp_all +contextual (maxDischargeDepth := 16)

@[simp] theorem execClusterBarrierArrival_keeps (s : State)
    (hs : memWf s.mem = true) :
    OutOk (execClusterBarrierArrival s) := by
  unfold execClusterBarrierArrival
  try dsimp only
  repeat' split
  all_goals first | with_reducible assumption | simp_all +contextual (maxDischargeDepth := 16)

@[simp] theorem fillSy_keeps (s : State) (c sl i : Nat) (v : Slice)
    (hs : memWf s.mem = true) :
    memWf (fillSy s c sl i v).mem = true := by
  unfold fillSy
  try dsimp only
  repeat' split
  all_goals first | with_reducible assumption | simp_all +contextual (maxDischargeDepth := 16)

@[simp] theorem execTwaitFill_keeps (s : State)
    (hs : memWf s.mem = true) :
    OutOk (execTwaitFill s) := by
  unfold execTwaitFill
  try dsimp only
  repeat' split
  all_goals first | with_reducible assumption | simp_all +contextual (maxDischargeDepth := 16)

@[simp] theorem mwaitRead_keeps (s : State) (c sl i : Nat) (a : Access) (n : BitVec 64) (again : State → State)
    (hagain : ∀ (x0 : State), memWf x0.mem = true → memWf (again x0).mem = true) (hs : memWf s.mem = true) :
    memWf (mwaitRead s c sl i a n again).mem = true := by
  unfold mwaitRead
  try dsimp only
  repeat' split
  all_goals first | with_reducible assumption | (simp (maxDischargeDepth := 16) [*]; done) | simp_all +contextual (maxDischargeDepth := 16)

@[simp] theorem armMwait_keeps (s : State) (c sl i : Nat)
    (hs : memWf s.mem = true) :
    memWf (armMwait s c sl i).mem = true := by
  unfold armMwait
  try dsimp only
  repeat' split
  all_goals first | with_reducible assumption | (simp (maxDischargeDepth := 16) [*]; done) | simp_all +contextual (maxDischargeDepth := 16)

@[simp] theorem execMwaitFill_keeps (s : State)
    (hs : memWf s.mem = true) :
    OutOk (execMwaitFill s) := by
  unfold execMwaitFill
  try dsimp only
  repeat' split
  all_goals first | with_reducible assumption | simp_all +contextual (maxDischargeDepth := 16)

@[simp] theorem hostBytes_keeps (s : State) (i : Nat)
    (hs : memWf s.mem = true) :
    memWf (hostBytes s i).mem = true := by
  unfold hostBytes
  have hgo (l : List Nat) (m : List Host.Cell) (h : memWf m = true) : memWf (hostBytes.go l m) = true := by
    induction l, m using hostBytes.go.induct with
    | case1 m a b t ih => 
      unfold hostBytes.go
      split
      · rename_i hr; simp only [hr, ↓reduceIte] at ih; exact ih (memWf_memPut _ _ _ h)
      · rename_i hr; simp only [hr, ↓reduceIte] at ih; exact ih h
    | case2 l m hx => 
      unfold hostBytes.go
      split
      · exact absurd rfl (hx _ _ _ )
      · exact h
  exact hgo _ _ hs

@[simp] theorem execMwaitHostPoll_keeps (s : State)
    (hs : memWf s.mem = true) :
    OutOk (execMwaitHostPoll s) := by
  unfold execMwaitHostPoll
  try dsimp only
  repeat' split
  all_goals first | with_reducible assumption | simp_all +contextual (maxDischargeDepth := 16)

@[simp] theorem execWmwaitFill_keeps (s : State)
    (hs : memWf s.mem = true) :
    OutOk (execWmwaitFill s) := by
  unfold execWmwaitFill
  try dsimp only
  repeat' split
  all_goals first | with_reducible assumption | simp_all +contextual (maxDischargeDepth := 16)

@[simp] theorem execSleepExpiry_keeps (s : State)
    (hs : memWf s.mem = true) :
    OutOk (execSleepExpiry s) := by
  unfold execSleepExpiry
  try dsimp only
  repeat' split
  all_goals first | with_reducible assumption | simp_all +contextual (maxDischargeDepth := 16)

end Sys2Proof.Machine
end

