-- ==== Sys2Proof/Laws/KeepAgenda.lean ====
section
/-! SUPPORT. Each operation of Machine/Agenda.lean keeps the canonical form of memory. -/

namespace Sys2Proof.Machine

@[simp] theorem pickWord_keeps (s : State)
    (hs : memWf s.mem = true) :
    memWf (pickWord s).2.mem = true := by
  unfold pickWord
  try dsimp only
  repeat' split
  all_goals first | with_reducible assumption | simp_all +contextual (maxDischargeDepth := 16)

@[simp] theorem closeSlot_keeps (s : State)
    (hs : memWf s.mem = true) :
    memWf (closeSlot s).mem = true := by
  unfold closeSlot
  try dsimp only
  repeat' split
  all_goals first | with_reducible assumption | (simp (maxDischargeDepth := 16) [*]; done) | simp_all +contextual (maxDischargeDepth := 16)

@[simp] theorem serveGroup_keeps (s : State) (c sl : Nat)
    (hs : memWf s.mem = true) :
    memWf (serveGroup s c sl).mem = true := by
  unfold serveGroup
  refine foldl_keeps _ _ _ (fun s i h => ?_) hs
  repeat' split
  all_goals first | exact h | exact mwaitRead_keeps _ _ _ _ _ _ _ (fun _ h => h) h

@[simp] theorem serveWaits_keeps (s : State)
    (hs : memWf s.mem = true) :
    memWf (serveWaits s).mem = true := by
  unfold serveWaits
  try dsimp only
  repeat' split
  all_goals first | with_reducible assumption | (simp (maxDischargeDepth := 16) [*]; done) | simp_all +contextual (maxDischargeDepth := 16)

@[simp] theorem dropStale_keeps (s : State)
    (hs : memWf s.mem = true) :
    memWf (dropStale s).mem = true := by
  unfold dropStale
  try dsimp only
  repeat' split
  all_goals first | with_reducible assumption | (simp (maxDischargeDepth := 16) [*]; done) | simp_all +contextual (maxDischargeDepth := 16)

@[simp] theorem afterStep_keeps (s : State)
    (hs : memWf s.mem = true) :
    memWf (afterStep s).mem = true := by
  unfold afterStep
  try dsimp only
  repeat' split
  all_goals first | with_reducible assumption | simp_all +contextual (maxDischargeDepth := 16)

@[simp] theorem placeWord_keeps (s : State) (w : Nat)
    (hs : memWf s.mem = true) :
    memWf (placeWord s w).mem = true := by
  unfold placeWord
  try dsimp only
  repeat' split
  all_goals first | with_reducible assumption | simp_all +contextual (maxDischargeDepth := 16)

end Sys2Proof.Machine
end

