-- ==== Sys2Proof/Laws/KeepBr.lean ====
section
/-! SUPPORT. Each operation of Machine/Br.lean keeps the canonical form of memory. -/

namespace Sys2Proof.Machine

@[simp] theorem runBr_keeps (i : Instr) (t : Trig) (s : State) (f : BAddr → Opnd → Option BrAct)
    (hs : memWf s.mem = true) :
    memWf (runBr i t s f).mem = true := by
  unfold runBr
  try dsimp only
  repeat' split
  all_goals first | with_reducible assumption | simp_all +contextual (maxDischargeDepth := 16)

@[simp] theorem execBrJmp_keeps (t : Trig) (s : State)
    (hs : memWf s.mem = true) :
    OutOk (execBrJmp t s) := by
  unfold execBrJmp
  try dsimp only
  repeat' split
  all_goals first | with_reducible assumption | simp_all +contextual (maxDischargeDepth := 16)

@[simp] theorem execBrBra_keeps (t : Trig) (s : State)
    (hs : memWf s.mem = true) :
    OutOk (execBrBra t s) := by
  unfold execBrBra
  try dsimp only
  repeat' split
  all_goals first | with_reducible assumption | simp_all +contextual (maxDischargeDepth := 16)

@[simp] theorem execBrBrz_keeps (t : Trig) (s : State)
    (hs : memWf s.mem = true) :
    OutOk (execBrBrz t s) := by
  unfold execBrBrz
  try dsimp only
  repeat' split
  all_goals first | with_reducible assumption | simp_all +contextual (maxDischargeDepth := 16)

@[simp] theorem execBrBrall_keeps (t : Trig) (s : State)
    (hs : memWf s.mem = true) :
    OutOk (execBrBrall t s) := by
  unfold execBrBrall
  try dsimp only
  repeat' split
  all_goals first | with_reducible assumption | simp_all +contextual (maxDischargeDepth := 16)

@[simp] theorem execBrCall_keeps (t : Trig) (s : State)
    (hs : memWf s.mem = true) :
    OutOk (execBrCall t s) := by
  unfold execBrCall
  try dsimp only
  repeat' split
  all_goals first | with_reducible assumption | simp_all +contextual (maxDischargeDepth := 16)

@[simp] theorem execBrRet_keeps (t : Trig) (s : State)
    (hs : memWf s.mem = true) :
    OutOk (execBrRet t s) := by
  unfold execBrRet
  try dsimp only
  repeat' split
  all_goals first | with_reducible assumption | simp_all +contextual (maxDischargeDepth := 16)

@[simp] theorem execBrLoopi_keeps (t : Trig) (s : State)
    (hs : memWf s.mem = true) :
    OutOk (execBrLoopi t s) := by
  unfold execBrLoopi
  try dsimp only
  repeat' split
  all_goals first | with_reducible assumption | simp_all +contextual (maxDischargeDepth := 16)

@[simp] theorem execBrLoop_keeps (t : Trig) (s : State)
    (hs : memWf s.mem = true) :
    OutOk (execBrLoop t s) := by
  unfold execBrLoop
  try dsimp only
  repeat' split
  all_goals first | with_reducible assumption | simp_all +contextual (maxDischargeDepth := 16)

@[simp] theorem execBrHalt_keeps (t : Trig) (s : State)
    (hs : memWf s.mem = true) :
    OutOk (execBrHalt t s) := by
  unfold execBrHalt
  try dsimp only
  repeat' split
  all_goals first | with_reducible assumption | simp_all +contextual (maxDischargeDepth := 16)

@[simp] theorem execBrYield_keeps (t : Trig) (s : State)
    (hs : memWf s.mem = true) :
    OutOk (execBrYield t s) := by
  unfold execBrYield
  try dsimp only
  repeat' split
  all_goals first | with_reducible assumption | simp_all +contextual (maxDischargeDepth := 16)

end Sys2Proof.Machine
end

