-- ==== Sys2Proof/Laws/KeepCp.lean ====
section
/-! SUPPORT. Each operation of Machine/Cp.lean keeps the canonical form of memory. -/

namespace Sys2Proof.Machine

@[simp] theorem modChan_keeps (s : State) (c ch : Nat) (f : Chan → Chan)
    (hs : memWf s.mem = true) :
    memWf (modChan s c ch f).mem = true := by
  unfold modChan
  try dsimp only
  repeat' split
  all_goals first | with_reducible assumption | simp_all +contextual (maxDischargeDepth := 16)

@[simp] theorem cpFault_keeps (s : State) (c sl cause : Nat) (o : Opnd)
    (hs : memWf s.mem = true) :
    memWf (cpFault s c sl cause o).mem = true := by
  unfold cpFault
  try dsimp only
  repeat' split
  all_goals first | with_reducible assumption | simp_all +contextual (maxDischargeDepth := 16)

@[simp] theorem claimChan_keeps (s : State) (c sl ch : Nat)
    (hs : memWf s.mem = true) :
    memWf (claimChan s c sl ch).mem = true := by
  unfold claimChan
  try dsimp only
  repeat' split
  all_goals first | with_reducible assumption | simp_all +contextual (maxDischargeDepth := 16)

@[simp] theorem ownedCp_keeps (s : State) (c sl : Nat) (o : Opnd) (f : State → Nat → State)
    (hf : ∀ (x0 : State) (x1 : Nat), memWf x0.mem = true → memWf (f x0 x1).mem = true) (hs : memWf s.mem = true) :
    memWf (ownedCp s c sl o f).mem = true := by
  unfold ownedCp
  try dsimp only
  repeat' split
  all_goals first | with_reducible assumption | simp_all +contextual (maxDischargeDepth := 16)

@[simp] theorem acceptCopy_keeps (s : State) (c sl k : Nat) (o : Opnd) (ch : Nat) (f : Chan → Chan)
    (hs : memWf s.mem = true) :
    memWf (acceptCopy s c sl k o ch f).mem = true := by
  unfold acceptCopy
  try dsimp only
  repeat' split
  all_goals first | with_reducible assumption | simp_all +contextual (maxDischargeDepth := 16)

@[simp] theorem startCopy_keeps (s : State) (c sl k : Nat) (o : Opnd) (halo : Bool) (ch : Nat)
    (hs : memWf s.mem = true) :
    memWf (startCopy s c sl k o halo ch).mem = true := by
  unfold startCopy
  try dsimp only
  repeat' split
  all_goals first | with_reducible assumption | simp_all +contextual (maxDischargeDepth := 16)

@[simp] theorem bindRing_keeps (s : State) (c sl k : Nat) (o : Opnd) (ch : Nat)
    (hs : memWf s.mem = true) :
    memWf (bindRing s c sl k o ch).mem = true := by
  unfold bindRing
  try dsimp only
  repeat' split
  all_goals first | with_reducible assumption | simp_all +contextual (maxDischargeDepth := 16)

@[simp] theorem fillAborts_keeps (s : State) (c ch : Nat)
    (hs : memWf s.mem = true) :
    memWf (fillAborts s c ch).mem = true := by
  unfold fillAborts
  try dsimp only
  repeat' split
  all_goals first | with_reducible assumption | simp_all +contextual (maxDischargeDepth := 16)

@[simp] theorem abandonChan_keeps (s : State) (c ch : Nat)
    (hs : memWf s.mem = true) :
    memWf (abandonChan s c ch).mem = true := by
  unfold abandonChan
  try dsimp only
  repeat' split
  all_goals first | with_reducible assumption | simp_all +contextual (maxDischargeDepth := 16)

@[simp] theorem unbindRing_keeps (s : State) (i : Nat)
    (hs : memWf s.mem = true) :
    memWf (unbindRing s i).mem = true := by
  unfold unbindRing
  try dsimp only
  repeat' split
  all_goals first | with_reducible assumption | simp_all +contextual (maxDischargeDepth := 16)

@[simp] theorem freezeChan_keeps (s : State) (c ch fcode : Nat) (side : Bool) (k : Key) (va : Nat) (kind : AccKind)
    (hs : memWf s.mem = true) :
    memWf (freezeChan s c ch fcode side k va kind).mem = true := by
  unfold freezeChan
  try dsimp only
  repeat' split
  all_goals first | with_reducible assumption | simp_all +contextual (maxDischargeDepth := 16)

@[simp] theorem freezeFor_keeps (s : State) (c ch p : Nat) (side : Bool) (va : Nat) (kind : AccKind) (out : ElemOut)
    (hs : memWf s.mem = true) :
    memWf (freezeFor s c ch p side va kind out).mem = true := by
  unfold freezeFor
  try dsimp only
  repeat' split
  all_goals first | with_reducible assumption | simp_all +contextual (maxDischargeDepth := 16)

@[simp] theorem countElem_keeps (s : State) (c ch : Nat)
    (hs : memWf s.mem = true) :
    memWf (countElem s c ch).mem = true := by
  unfold countElem
  try dsimp only
  repeat' split
  all_goals first | with_reducible assumption | simp_all +contextual (maxDischargeDepth := 16)

@[simp] theorem landWalks_keeps (s : State) (c : Nat) (q : Chan)
    (hs : memWf s.mem = true) :
    memWf (landWalks s c q).mem = true := by
  unfold landWalks
  try dsimp only
  repeat' split
  all_goals first | with_reducible assumption | (simp (maxDischargeDepth := 16) [*]; done) | simp_all +contextual (maxDischargeDepth := 16)

@[simp] theorem readAhead_keeps (s : State) (c ch j : Nat)
    (hs : memWf s.mem = true) :
    memWf (readAhead s c ch j).mem = true := by
  unfold readAhead
  try dsimp only
  repeat' split
  all_goals first | with_reducible assumption | (simp (maxDischargeDepth := 16) [*]; done) | simp_all +contextual (maxDischargeDepth := 16)

@[simp] theorem landValue_keeps (s : State) (c ch v : Nat)
    (hs : memWf s.mem = true) :
    memWf (landValue s c ch v).mem = true := by
  unfold landValue
  try dsimp only
  repeat' split
  all_goals first | with_reducible assumption | (simp (maxDischargeDepth := 16) [*]; done) | simp_all +contextual (maxDischargeDepth := 16)

@[simp] theorem landElem_keeps (s : State) (c ch : Nat)
    (hs : memWf s.mem = true) :
    memWf (landElem s c ch).mem = true := by
  unfold landElem
  try dsimp only
  repeat' split
  all_goals first | with_reducible assumption | simp_all +contextual (maxDischargeDepth := 16)

@[simp] theorem execCopyElementLand_keeps (s : State)
    (hs : memWf s.mem = true) :
    OutOk (execCopyElementLand s) := by
  unfold execCopyElementLand
  try dsimp only
  repeat' split
  all_goals first | with_reducible assumption | simp_all +contextual (maxDischargeDepth := 16)

@[simp] theorem execCopyCseqAdvance_keeps (s : State)
    (hs : memWf s.mem = true) :
    OutOk (execCopyCseqAdvance s) := by
  unfold execCopyCseqAdvance
  try dsimp only
  repeat' split
  all_goals first | with_reducible assumption | simp_all +contextual (maxDischargeDepth := 16)

@[simp] theorem execCpCpsrc_keeps (t : Trig) (s : State)
    (hs : memWf s.mem = true) :
    OutOk (execCpCpsrc t s) := by
  unfold execCpCpsrc
  try dsimp only
  repeat' split
  all_goals first | with_reducible assumption | simp_all +contextual (maxDischargeDepth := 16)

@[simp] theorem execCpCpdst_keeps (t : Trig) (s : State)
    (hs : memWf s.mem = true) :
    OutOk (execCpCpdst t s) := by
  unfold execCpCpdst
  try dsimp only
  repeat' split
  all_goals first | with_reducible assumption | simp_all +contextual (maxDischargeDepth := 16)

@[simp] theorem execCpCpshape_keeps (t : Trig) (s : State)
    (hs : memWf s.mem = true) :
    OutOk (execCpCpshape t s) := by
  unfold execCpCpshape
  try dsimp only
  repeat' split
  all_goals first | with_reducible assumption | simp_all +contextual (maxDischargeDepth := 16)

@[simp] theorem execCpCpgo_keeps (t : Trig) (s : State)
    (hs : memWf s.mem = true) :
    OutOk (execCpCpgo t s) := by
  unfold execCpCpgo
  try dsimp only
  repeat' split
  all_goals first | with_reducible assumption | simp_all +contextual (maxDischargeDepth := 16)

@[simp] theorem execCpCphalo_keeps (t : Trig) (s : State)
    (hs : memWf s.mem = true) :
    OutOk (execCpCphalo t s) := by
  unfold execCpCphalo
  try dsimp only
  repeat' split
  all_goals first | with_reducible assumption | simp_all +contextual (maxDischargeDepth := 16)

@[simp] theorem execCpCpring_keeps (t : Trig) (s : State)
    (hs : memWf s.mem = true) :
    OutOk (execCpCpring t s) := by
  unfold execCpCpring
  try dsimp only
  repeat' split
  all_goals first | with_reducible assumption | simp_all +contextual (maxDischargeDepth := 16)

@[simp] theorem readChan_keeps (s : State) (c sl k : Nat) (o : Opnd) (f : BitVec 128 × BitVec 128 → BitVec 128)
    (hs : memWf s.mem = true) :
    memWf (readChan s c sl k o f).mem = true := by
  unfold readChan
  try dsimp only
  repeat' split
  all_goals first | with_reducible assumption | (simp (maxDischargeDepth := 16) [*]; done) | simp_all +contextual (maxDischargeDepth := 16)

@[simp] theorem execCpCpwm_keeps (t : Trig) (s : State)
    (hs : memWf s.mem = true) :
    OutOk (execCpCpwm t s) := by
  unfold execCpCpwm
  try dsimp only
  repeat' split
  all_goals first | with_reducible assumption | simp_all +contextual (maxDischargeDepth := 16)

@[simp] theorem execCpCpstat_keeps (t : Trig) (s : State)
    (hs : memWf s.mem = true) :
    OutOk (execCpCpstat t s) := by
  unfold execCpCpstat
  try dsimp only
  repeat' split
  all_goals first | with_reducible assumption | simp_all +contextual (maxDischargeDepth := 16)

@[simp] theorem abortChan_keeps (s : State) (c sl k : Nat) (o : Opnd)
    (hs : memWf s.mem = true) :
    memWf (abortChan s c sl k o).mem = true := by
  unfold abortChan
  try dsimp only
  repeat' split
  all_goals first | with_reducible assumption | simp_all +contextual (maxDischargeDepth := 16)

@[simp] theorem execCpCpabort_keeps (t : Trig) (s : State)
    (hs : memWf s.mem = true) :
    OutOk (execCpCpabort t s) := by
  unfold execCpCpabort
  try dsimp only
  repeat' split
  all_goals first | with_reducible assumption | simp_all +contextual (maxDischargeDepth := 16)

end Sys2Proof.Machine
end

