-- ==== Sys2Proof/Laws/KeepIa.lean ====
section
/-! SUPPORT. Each operation of Machine/Ia.lean keeps the canonical form of memory. -/

namespace Sys2Proof.Machine

@[simp] theorem runIa_keeps (i : Instr) (t : Trig) (n : Nat) (u : SatUse) (F : IaFun) (s : State)
    (hs : memWf s.mem = true) :
    memWf (runIa i t n u F s).mem = true := by
  unfold runIa
  try dsimp only
  repeat' split
  all_goals first | with_reducible assumption | simp_all +contextual (maxDischargeDepth := 16)

@[simp] theorem runIaWord_keeps (i : Instr) (t : Trig) (n : Nat) (F : Bool → BitVec 32 → BitVec 32 → BitVec 32 → Slice) (s : State)
    (hs : memWf s.mem = true) :
    memWf (runIaWord i t n F s).mem = true := by
  unfold runIaWord
  try dsimp only
  repeat' split
  all_goals first | with_reducible assumption | simp_all +contextual (maxDischargeDepth := 16)

@[simp] theorem execIaAdd_keeps (t : Trig) (s : State)
    (hs : memWf s.mem = true) :
    OutOk (execIaAdd t s) := by
  unfold execIaAdd
  try dsimp only
  repeat' split
  all_goals first | with_reducible assumption | simp_all +contextual (maxDischargeDepth := 16)

@[simp] theorem execIaSub_keeps (t : Trig) (s : State)
    (hs : memWf s.mem = true) :
    OutOk (execIaSub t s) := by
  unfold execIaSub
  try dsimp only
  repeat' split
  all_goals first | with_reducible assumption | simp_all +contextual (maxDischargeDepth := 16)

@[simp] theorem execIaRsub_keeps (t : Trig) (s : State)
    (hs : memWf s.mem = true) :
    OutOk (execIaRsub t s) := by
  unfold execIaRsub
  try dsimp only
  repeat' split
  all_goals first | with_reducible assumption | simp_all +contextual (maxDischargeDepth := 16)

@[simp] theorem execIaNeg_keeps (t : Trig) (s : State)
    (hs : memWf s.mem = true) :
    OutOk (execIaNeg t s) := by
  unfold execIaNeg
  try dsimp only
  repeat' split
  all_goals first | with_reducible assumption | simp_all +contextual (maxDischargeDepth := 16)

@[simp] theorem execIaAbs_keeps (t : Trig) (s : State)
    (hs : memWf s.mem = true) :
    OutOk (execIaAbs t s) := by
  unfold execIaAbs
  try dsimp only
  repeat' split
  all_goals first | with_reducible assumption | simp_all +contextual (maxDischargeDepth := 16)

@[simp] theorem execIaMin_keeps (t : Trig) (s : State)
    (hs : memWf s.mem = true) :
    OutOk (execIaMin t s) := by
  unfold execIaMin
  try dsimp only
  repeat' split
  all_goals first | with_reducible assumption | simp_all +contextual (maxDischargeDepth := 16)

@[simp] theorem execIaMax_keeps (t : Trig) (s : State)
    (hs : memWf s.mem = true) :
    OutOk (execIaMax t s) := by
  unfold execIaMax
  try dsimp only
  repeat' split
  all_goals first | with_reducible assumption | simp_all +contextual (maxDischargeDepth := 16)

@[simp] theorem execIaAddsat_keeps (t : Trig) (s : State)
    (hs : memWf s.mem = true) :
    OutOk (execIaAddsat t s) := by
  unfold execIaAddsat
  try dsimp only
  repeat' split
  all_goals first | with_reducible assumption | simp_all +contextual (maxDischargeDepth := 16)

@[simp] theorem execIaSubsat_keeps (t : Trig) (s : State)
    (hs : memWf s.mem = true) :
    OutOk (execIaSubsat t s) := by
  unfold execIaSubsat
  try dsimp only
  repeat' split
  all_goals first | with_reducible assumption | simp_all +contextual (maxDischargeDepth := 16)

@[simp] theorem execIaMul_keeps (t : Trig) (s : State)
    (hs : memWf s.mem = true) :
    OutOk (execIaMul t s) := by
  unfold execIaMul
  try dsimp only
  repeat' split
  all_goals first | with_reducible assumption | simp_all +contextual (maxDischargeDepth := 16)

@[simp] theorem execIaMulhi_keeps (t : Trig) (s : State)
    (hs : memWf s.mem = true) :
    OutOk (execIaMulhi t s) := by
  unfold execIaMulhi
  try dsimp only
  repeat' split
  all_goals first | with_reducible assumption | simp_all +contextual (maxDischargeDepth := 16)

@[simp] theorem execIaMad_keeps (t : Trig) (s : State)
    (hs : memWf s.mem = true) :
    OutOk (execIaMad t s) := by
  unfold execIaMad
  try dsimp only
  repeat' split
  all_goals first | with_reducible assumption | simp_all +contextual (maxDischargeDepth := 16)

@[simp] theorem execIaLea_keeps (t : Trig) (s : State)
    (hs : memWf s.mem = true) :
    OutOk (execIaLea t s) := by
  unfold execIaLea
  try dsimp only
  repeat' split
  all_goals first | with_reducible assumption | simp_all +contextual (maxDischargeDepth := 16)

@[simp] theorem execIaHmix_keeps (t : Trig) (s : State)
    (hs : memWf s.mem = true) :
    OutOk (execIaHmix t s) := by
  unfold execIaHmix
  try dsimp only
  repeat' split
  all_goals first | with_reducible assumption | simp_all +contextual (maxDischargeDepth := 16)

@[simp] theorem execIaMov_keeps (t : Trig) (s : State)
    (hs : memWf s.mem = true) :
    OutOk (execIaMov t s) := by
  unfold execIaMov
  try dsimp only
  repeat' split
  all_goals first | with_reducible assumption | simp_all +contextual (maxDischargeDepth := 16)

@[simp] theorem execIaAnd_keeps (t : Trig) (s : State)
    (hs : memWf s.mem = true) :
    OutOk (execIaAnd t s) := by
  unfold execIaAnd
  try dsimp only
  repeat' split
  all_goals first | with_reducible assumption | simp_all +contextual (maxDischargeDepth := 16)

@[simp] theorem execIaOr_keeps (t : Trig) (s : State)
    (hs : memWf s.mem = true) :
    OutOk (execIaOr t s) := by
  unfold execIaOr
  try dsimp only
  repeat' split
  all_goals first | with_reducible assumption | simp_all +contextual (maxDischargeDepth := 16)

@[simp] theorem execIaXor_keeps (t : Trig) (s : State)
    (hs : memWf s.mem = true) :
    OutOk (execIaXor t s) := by
  unfold execIaXor
  try dsimp only
  repeat' split
  all_goals first | with_reducible assumption | simp_all +contextual (maxDischargeDepth := 16)

@[simp] theorem execIaAndn_keeps (t : Trig) (s : State)
    (hs : memWf s.mem = true) :
    OutOk (execIaAndn t s) := by
  unfold execIaAndn
  try dsimp only
  repeat' split
  all_goals first | with_reducible assumption | simp_all +contextual (maxDischargeDepth := 16)

@[simp] theorem execIaNot_keeps (t : Trig) (s : State)
    (hs : memWf s.mem = true) :
    OutOk (execIaNot t s) := by
  unfold execIaNot
  try dsimp only
  repeat' split
  all_goals first | with_reducible assumption | simp_all +contextual (maxDischargeDepth := 16)

@[simp] theorem execIaShl_keeps (t : Trig) (s : State)
    (hs : memWf s.mem = true) :
    OutOk (execIaShl t s) := by
  unfold execIaShl
  try dsimp only
  repeat' split
  all_goals first | with_reducible assumption | simp_all +contextual (maxDischargeDepth := 16)

@[simp] theorem execIaShr_keeps (t : Trig) (s : State)
    (hs : memWf s.mem = true) :
    OutOk (execIaShr t s) := by
  unfold execIaShr
  try dsimp only
  repeat' split
  all_goals first | with_reducible assumption | simp_all +contextual (maxDischargeDepth := 16)

@[simp] theorem execIaSar_keeps (t : Trig) (s : State)
    (hs : memWf s.mem = true) :
    OutOk (execIaSar t s) := by
  unfold execIaSar
  try dsimp only
  repeat' split
  all_goals first | with_reducible assumption | simp_all +contextual (maxDischargeDepth := 16)

@[simp] theorem execIaRot_keeps (t : Trig) (s : State)
    (hs : memWf s.mem = true) :
    OutOk (execIaRot t s) := by
  unfold execIaRot
  try dsimp only
  repeat' split
  all_goals first | with_reducible assumption | simp_all +contextual (maxDischargeDepth := 16)

@[simp] theorem execIaClz_keeps (t : Trig) (s : State)
    (hs : memWf s.mem = true) :
    OutOk (execIaClz t s) := by
  unfold execIaClz
  try dsimp only
  repeat' split
  all_goals first | with_reducible assumption | simp_all +contextual (maxDischargeDepth := 16)

@[simp] theorem execIaCtz_keeps (t : Trig) (s : State)
    (hs : memWf s.mem = true) :
    OutOk (execIaCtz t s) := by
  unfold execIaCtz
  try dsimp only
  repeat' split
  all_goals first | with_reducible assumption | simp_all +contextual (maxDischargeDepth := 16)

@[simp] theorem execIaPop_keeps (t : Trig) (s : State)
    (hs : memWf s.mem = true) :
    OutOk (execIaPop t s) := by
  unfold execIaPop
  try dsimp only
  repeat' split
  all_goals first | with_reducible assumption | simp_all +contextual (maxDischargeDepth := 16)

@[simp] theorem execIaBrev_keeps (t : Trig) (s : State)
    (hs : memWf s.mem = true) :
    OutOk (execIaBrev t s) := by
  unfold execIaBrev
  try dsimp only
  repeat' split
  all_goals first | with_reducible assumption | simp_all +contextual (maxDischargeDepth := 16)

@[simp] theorem execIaBfx_keeps (t : Trig) (s : State)
    (hs : memWf s.mem = true) :
    OutOk (execIaBfx t s) := by
  unfold execIaBfx
  try dsimp only
  repeat' split
  all_goals first | with_reducible assumption | simp_all +contextual (maxDischargeDepth := 16)

@[simp] theorem execIaBfi_keeps (t : Trig) (s : State)
    (hs : memWf s.mem = true) :
    OutOk (execIaBfi t s) := by
  unfold execIaBfi
  try dsimp only
  repeat' split
  all_goals first | with_reducible assumption | simp_all +contextual (maxDischargeDepth := 16)

@[simp] theorem execIaSel_keeps (t : Trig) (s : State)
    (hs : memWf s.mem = true) :
    OutOk (execIaSel t s) := by
  unfold execIaSel
  try dsimp only
  repeat' split
  all_goals first | with_reducible assumption | simp_all +contextual (maxDischargeDepth := 16)

@[simp] theorem execIaCmpeq_keeps (t : Trig) (s : State)
    (hs : memWf s.mem = true) :
    OutOk (execIaCmpeq t s) := by
  unfold execIaCmpeq
  try dsimp only
  repeat' split
  all_goals first | with_reducible assumption | simp_all +contextual (maxDischargeDepth := 16)

@[simp] theorem execIaCmpne_keeps (t : Trig) (s : State)
    (hs : memWf s.mem = true) :
    OutOk (execIaCmpne t s) := by
  unfold execIaCmpne
  try dsimp only
  repeat' split
  all_goals first | with_reducible assumption | simp_all +contextual (maxDischargeDepth := 16)

@[simp] theorem execIaCmplt_keeps (t : Trig) (s : State)
    (hs : memWf s.mem = true) :
    OutOk (execIaCmplt t s) := by
  unfold execIaCmplt
  try dsimp only
  repeat' split
  all_goals first | with_reducible assumption | simp_all +contextual (maxDischargeDepth := 16)

@[simp] theorem execIaCmple_keeps (t : Trig) (s : State)
    (hs : memWf s.mem = true) :
    OutOk (execIaCmple t s) := by
  unfold execIaCmple
  try dsimp only
  repeat' split
  all_goals first | with_reducible assumption | simp_all +contextual (maxDischargeDepth := 16)

@[simp] theorem execIaCmpgt_keeps (t : Trig) (s : State)
    (hs : memWf s.mem = true) :
    OutOk (execIaCmpgt t s) := by
  unfold execIaCmpgt
  try dsimp only
  repeat' split
  all_goals first | with_reducible assumption | simp_all +contextual (maxDischargeDepth := 16)

@[simp] theorem execIaCmpge_keeps (t : Trig) (s : State)
    (hs : memWf s.mem = true) :
    OutOk (execIaCmpge t s) := by
  unfold execIaCmpge
  try dsimp only
  repeat' split
  all_goals first | with_reducible assumption | simp_all +contextual (maxDischargeDepth := 16)

end Sys2Proof.Machine
end

