-- ==== Sys2Proof/Laws/KeepSf.lean ====
section
/-! SUPPORT. Each operation of Machine/Sf.lean keeps the canonical form of memory. -/

namespace Sys2Proof.Machine

@[simp] theorem runSf_keeps (i : Instr) (fn : SfFn) (t : Trig) (s : State)
    (hs : memWf s.mem = true) :
    memWf (runSf i fn t s).mem = true := by
  unfold runSf
  try dsimp only
  repeat' split
  all_goals first | with_reducible assumption | simp_all +contextual (maxDischargeDepth := 16)

@[simp] theorem runRow_keeps (i : Instr) (t : Trig) (f : Opnd → FixedRes) (s : State)
    (hs : memWf s.mem = true) :
    memWf (runRow i t f s).mem = true := by
  unfold runRow
  try dsimp only
  repeat' split
  all_goals first | with_reducible assumption | simp_all +contextual (maxDischargeDepth := 16)

@[simp] theorem execSfExp2_keeps (t : Trig) (s : State)
    (hs : memWf s.mem = true) :
    OutOk (execSfExp2 t s) := by
  unfold execSfExp2
  try dsimp only
  repeat' split
  all_goals first | with_reducible assumption | simp_all +contextual (maxDischargeDepth := 16)

@[simp] theorem execSfExp_keeps (t : Trig) (s : State)
    (hs : memWf s.mem = true) :
    OutOk (execSfExp t s) := by
  unfold execSfExp
  try dsimp only
  repeat' split
  all_goals first | with_reducible assumption | simp_all +contextual (maxDischargeDepth := 16)

@[simp] theorem execSfLog2_keeps (t : Trig) (s : State)
    (hs : memWf s.mem = true) :
    OutOk (execSfLog2 t s) := by
  unfold execSfLog2
  try dsimp only
  repeat' split
  all_goals first | with_reducible assumption | simp_all +contextual (maxDischargeDepth := 16)

@[simp] theorem execSfLn_keeps (t : Trig) (s : State)
    (hs : memWf s.mem = true) :
    OutOk (execSfLn t s) := by
  unfold execSfLn
  try dsimp only
  repeat' split
  all_goals first | with_reducible assumption | simp_all +contextual (maxDischargeDepth := 16)

@[simp] theorem execSfRcp_keeps (t : Trig) (s : State)
    (hs : memWf s.mem = true) :
    OutOk (execSfRcp t s) := by
  unfold execSfRcp
  try dsimp only
  repeat' split
  all_goals first | with_reducible assumption | simp_all +contextual (maxDischargeDepth := 16)

@[simp] theorem execSfRsqrt_keeps (t : Trig) (s : State)
    (hs : memWf s.mem = true) :
    OutOk (execSfRsqrt t s) := by
  unfold execSfRsqrt
  try dsimp only
  repeat' split
  all_goals first | with_reducible assumption | simp_all +contextual (maxDischargeDepth := 16)

@[simp] theorem execSfSqrt_keeps (t : Trig) (s : State)
    (hs : memWf s.mem = true) :
    OutOk (execSfSqrt t s) := by
  unfold execSfSqrt
  try dsimp only
  repeat' split
  all_goals first | with_reducible assumption | simp_all +contextual (maxDischargeDepth := 16)

@[simp] theorem execSfSin_keeps (t : Trig) (s : State)
    (hs : memWf s.mem = true) :
    OutOk (execSfSin t s) := by
  unfold execSfSin
  try dsimp only
  repeat' split
  all_goals first | with_reducible assumption | simp_all +contextual (maxDischargeDepth := 16)

@[simp] theorem execSfCos_keeps (t : Trig) (s : State)
    (hs : memWf s.mem = true) :
    OutOk (execSfCos t s) := by
  unfold execSfCos
  try dsimp only
  repeat' split
  all_goals first | with_reducible assumption | simp_all +contextual (maxDischargeDepth := 16)

@[simp] theorem execSfTanh_keeps (t : Trig) (s : State)
    (hs : memWf s.mem = true) :
    OutOk (execSfTanh t s) := by
  unfold execSfTanh
  try dsimp only
  repeat' split
  all_goals first | with_reducible assumption | simp_all +contextual (maxDischargeDepth := 16)

@[simp] theorem execSfSigm_keeps (t : Trig) (s : State)
    (hs : memWf s.mem = true) :
    OutOk (execSfSigm t s) := by
  unfold execSfSigm
  try dsimp only
  repeat' split
  all_goals first | with_reducible assumption | simp_all +contextual (maxDischargeDepth := 16)

@[simp] theorem execSfErf_keeps (t : Trig) (s : State)
    (hs : memWf s.mem = true) :
    OutOk (execSfErf t s) := by
  unfold execSfErf
  try dsimp only
  repeat' split
  all_goals first | with_reducible assumption | simp_all +contextual (maxDischargeDepth := 16)

@[simp] theorem execSfRmax_keeps (t : Trig) (s : State)
    (hs : memWf s.mem = true) :
    OutOk (execSfRmax t s) := by
  unfold execSfRmax
  try dsimp only
  repeat' split
  all_goals first | with_reducible assumption | simp_all +contextual (maxDischargeDepth := 16)

@[simp] theorem execSfRexp_keeps (t : Trig) (s : State)
    (hs : memWf s.mem = true) :
    OutOk (execSfRexp t s) := by
  unfold execSfRexp
  try dsimp only
  repeat' split
  all_goals first | with_reducible assumption | simp_all +contextual (maxDischargeDepth := 16)

@[simp] theorem execSfRdiv_keeps (t : Trig) (s : State)
    (hs : memWf s.mem = true) :
    OutOk (execSfRdiv t s) := by
  unfold execSfRdiv
  try dsimp only
  repeat' split
  all_goals first | with_reducible assumption | simp_all +contextual (maxDischargeDepth := 16)

@[simp] theorem execSfRmsq_keeps (t : Trig) (s : State)
    (hs : memWf s.mem = true) :
    OutOk (execSfRmsq t s) := by
  unfold execSfRmsq
  try dsimp only
  repeat' split
  all_goals first | with_reducible assumption | simp_all +contextual (maxDischargeDepth := 16)

end Sys2Proof.Machine
end

