-- ==== Sys2Proof/Laws/KeepFv.lean ====
section
/-! SUPPORT. Each operation of Machine/Fv.lean keeps the canonical form of memory. -/

namespace Sys2Proof.Machine

@[simp] theorem runSlices_keeps (i : Instr) (t : Trig) (n : Nat) (f : Slice → Slice → Slice → Slice) (fl : Slice → Slice → Slice → BitVec 5) (s : State)
    (hs : memWf s.mem = true) :
    memWf (runSlices i t n f fl s).mem = true := by
  unfold runSlices
  try dsimp only
  repeat' split
  all_goals first | with_reducible assumption | (simp (maxDischargeDepth := 16) [*]; done) | simp_all +contextual (maxDischargeDepth := 16)

@[simp] theorem runFloat_keeps (i : Instr) (t : Trig) (n : Nat) (F : Fmt → Nat → Nat → Nat → Nat × BitVec 5) (s : State)
    (hs : memWf s.mem = true) :
    memWf (runFloat i t n F s).mem = true := by
  unfold runFloat
  try dsimp only
  repeat' split
  all_goals first | with_reducible assumption | (simp (maxDischargeDepth := 16) [*]; done) | simp_all +contextual (maxDischargeDepth := 16)

@[simp] theorem runInt_keeps (i : Instr) (t : Trig) (n : Nat) (satur : Bool) (F : Int → Int → Int → Int) (s : State)
    (hs : memWf s.mem = true) :
    memWf (runInt i t n satur F s).mem = true := by
  unfold runInt
  try dsimp only
  repeat' split
  all_goals first | with_reducible assumption | (simp (maxDischargeDepth := 16) [*]; done) | simp_all +contextual (maxDischargeDepth := 16)

@[simp] theorem runBits_keeps (i : Instr) (t : Trig) (n : Nat) (F : Slice → Slice → Slice → Slice) (s : State)
    (hs : memWf s.mem = true) :
    memWf (runBits i t n F s).mem = true := by
  unfold runBits
  try dsimp only
  repeat' split
  all_goals first | with_reducible assumption | (simp (maxDischargeDepth := 16) [*]; done) | simp_all +contextual (maxDischargeDepth := 16)

@[simp] theorem runCplx_keeps (i : Instr) (t : Trig) (f : Slice → Slice → Slice → Slice × Option Slice) (s : State)
    (hs : memWf s.mem = true) :
    memWf (runCplx i t f s).mem = true := by
  unfold runCplx
  try dsimp only
  repeat' split
  all_goals first | with_reducible assumption | (simp (maxDischargeDepth := 16) [*]; done) | simp_all +contextual (maxDischargeDepth := 16)

@[simp] theorem execFvFadd_keeps (t : Trig) (s : State)
    (hs : memWf s.mem = true) :
    OutOk (execFvFadd t s) := by
  unfold execFvFadd
  try dsimp only
  repeat' split
  all_goals first | with_reducible assumption | (simp (maxDischargeDepth := 16) [*]; done) | simp_all +contextual (maxDischargeDepth := 16)

@[simp] theorem execFvFsub_keeps (t : Trig) (s : State)
    (hs : memWf s.mem = true) :
    OutOk (execFvFsub t s) := by
  unfold execFvFsub
  try dsimp only
  repeat' split
  all_goals first | with_reducible assumption | (simp (maxDischargeDepth := 16) [*]; done) | simp_all +contextual (maxDischargeDepth := 16)

@[simp] theorem execFvFmul_keeps (t : Trig) (s : State)
    (hs : memWf s.mem = true) :
    OutOk (execFvFmul t s) := by
  unfold execFvFmul
  try dsimp only
  repeat' split
  all_goals first | with_reducible assumption | (simp (maxDischargeDepth := 16) [*]; done) | simp_all +contextual (maxDischargeDepth := 16)

@[simp] theorem execFvFma_keeps (t : Trig) (s : State)
    (hs : memWf s.mem = true) :
    OutOk (execFvFma t s) := by
  unfold execFvFma
  try dsimp only
  repeat' split
  all_goals first | with_reducible assumption | (simp (maxDischargeDepth := 16) [*]; done) | simp_all +contextual (maxDischargeDepth := 16)

@[simp] theorem execFvFms_keeps (t : Trig) (s : State)
    (hs : memWf s.mem = true) :
    OutOk (execFvFms t s) := by
  unfold execFvFms
  try dsimp only
  repeat' split
  all_goals first | with_reducible assumption | (simp (maxDischargeDepth := 16) [*]; done) | simp_all +contextual (maxDischargeDepth := 16)

@[simp] theorem execFvFnma_keeps (t : Trig) (s : State)
    (hs : memWf s.mem = true) :
    OutOk (execFvFnma t s) := by
  unfold execFvFnma
  try dsimp only
  repeat' split
  all_goals first | with_reducible assumption | (simp (maxDischargeDepth := 16) [*]; done) | simp_all +contextual (maxDischargeDepth := 16)

@[simp] theorem execFvFmin_keeps (t : Trig) (s : State)
    (hs : memWf s.mem = true) :
    OutOk (execFvFmin t s) := by
  unfold execFvFmin
  try dsimp only
  repeat' split
  all_goals first | with_reducible assumption | (simp (maxDischargeDepth := 16) [*]; done) | simp_all +contextual (maxDischargeDepth := 16)

@[simp] theorem execFvFmax_keeps (t : Trig) (s : State)
    (hs : memWf s.mem = true) :
    OutOk (execFvFmax t s) := by
  unfold execFvFmax
  try dsimp only
  repeat' split
  all_goals first | with_reducible assumption | (simp (maxDischargeDepth := 16) [*]; done) | simp_all +contextual (maxDischargeDepth := 16)

@[simp] theorem execFvFabs_keeps (t : Trig) (s : State)
    (hs : memWf s.mem = true) :
    OutOk (execFvFabs t s) := by
  unfold execFvFabs
  try dsimp only
  repeat' split
  all_goals first | with_reducible assumption | (simp (maxDischargeDepth := 16) [*]; done) | simp_all +contextual (maxDischargeDepth := 16)

@[simp] theorem execFvFneg_keeps (t : Trig) (s : State)
    (hs : memWf s.mem = true) :
    OutOk (execFvFneg t s) := by
  unfold execFvFneg
  try dsimp only
  repeat' split
  all_goals first | with_reducible assumption | (simp (maxDischargeDepth := 16) [*]; done) | simp_all +contextual (maxDischargeDepth := 16)

@[simp] theorem execFvFcmp_keeps (t : Trig) (s : State)
    (hs : memWf s.mem = true) :
    OutOk (execFvFcmp t s) := by
  unfold execFvFcmp
  try dsimp only
  repeat' split
  all_goals first | with_reducible assumption | (simp (maxDischargeDepth := 16) [*]; done) | simp_all +contextual (maxDischargeDepth := 16)

@[simp] theorem execFvFrnd_keeps (t : Trig) (s : State)
    (hs : memWf s.mem = true) :
    OutOk (execFvFrnd t s) := by
  unfold execFvFrnd
  try dsimp only
  repeat' split
  all_goals first | with_reducible assumption | (simp (maxDischargeDepth := 16) [*]; done) | simp_all +contextual (maxDischargeDepth := 16)

@[simp] theorem execFvVadd_keeps (t : Trig) (s : State)
    (hs : memWf s.mem = true) :
    OutOk (execFvVadd t s) := by
  unfold execFvVadd
  try dsimp only
  repeat' split
  all_goals first | with_reducible assumption | (simp (maxDischargeDepth := 16) [*]; done) | simp_all +contextual (maxDischargeDepth := 16)

@[simp] theorem execFvVsub_keeps (t : Trig) (s : State)
    (hs : memWf s.mem = true) :
    OutOk (execFvVsub t s) := by
  unfold execFvVsub
  try dsimp only
  repeat' split
  all_goals first | with_reducible assumption | (simp (maxDischargeDepth := 16) [*]; done) | simp_all +contextual (maxDischargeDepth := 16)

@[simp] theorem execFvVmul_keeps (t : Trig) (s : State)
    (hs : memWf s.mem = true) :
    OutOk (execFvVmul t s) := by
  unfold execFvVmul
  try dsimp only
  repeat' split
  all_goals first | with_reducible assumption | (simp (maxDischargeDepth := 16) [*]; done) | simp_all +contextual (maxDischargeDepth := 16)

@[simp] theorem execFvVmad_keeps (t : Trig) (s : State)
    (hs : memWf s.mem = true) :
    OutOk (execFvVmad t s) := by
  unfold execFvVmad
  try dsimp only
  repeat' split
  all_goals first | with_reducible assumption | (simp (maxDischargeDepth := 16) [*]; done) | simp_all +contextual (maxDischargeDepth := 16)

@[simp] theorem execFvVmin_keeps (t : Trig) (s : State)
    (hs : memWf s.mem = true) :
    OutOk (execFvVmin t s) := by
  unfold execFvVmin
  try dsimp only
  repeat' split
  all_goals first | with_reducible assumption | (simp (maxDischargeDepth := 16) [*]; done) | simp_all +contextual (maxDischargeDepth := 16)

@[simp] theorem execFvVmax_keeps (t : Trig) (s : State)
    (hs : memWf s.mem = true) :
    OutOk (execFvVmax t s) := by
  unfold execFvVmax
  try dsimp only
  repeat' split
  all_goals first | with_reducible assumption | (simp (maxDischargeDepth := 16) [*]; done) | simp_all +contextual (maxDischargeDepth := 16)

@[simp] theorem execFvVand_keeps (t : Trig) (s : State)
    (hs : memWf s.mem = true) :
    OutOk (execFvVand t s) := by
  unfold execFvVand
  try dsimp only
  repeat' split
  all_goals first | with_reducible assumption | (simp (maxDischargeDepth := 16) [*]; done) | simp_all +contextual (maxDischargeDepth := 16)

@[simp] theorem execFvVor_keeps (t : Trig) (s : State)
    (hs : memWf s.mem = true) :
    OutOk (execFvVor t s) := by
  unfold execFvVor
  try dsimp only
  repeat' split
  all_goals first | with_reducible assumption | (simp (maxDischargeDepth := 16) [*]; done) | simp_all +contextual (maxDischargeDepth := 16)

@[simp] theorem execFvVxor_keeps (t : Trig) (s : State)
    (hs : memWf s.mem = true) :
    OutOk (execFvVxor t s) := by
  unfold execFvVxor
  try dsimp only
  repeat' split
  all_goals first | with_reducible assumption | (simp (maxDischargeDepth := 16) [*]; done) | simp_all +contextual (maxDischargeDepth := 16)

@[simp] theorem execFvVsel_keeps (t : Trig) (s : State)
    (hs : memWf s.mem = true) :
    OutOk (execFvVsel t s) := by
  unfold execFvVsel
  try dsimp only
  repeat' split
  all_goals first | with_reducible assumption | (simp (maxDischargeDepth := 16) [*]; done) | simp_all +contextual (maxDischargeDepth := 16)

@[simp] theorem execFvCmul_keeps (t : Trig) (s : State)
    (hs : memWf s.mem = true) :
    OutOk (execFvCmul t s) := by
  unfold execFvCmul
  try dsimp only
  repeat' split
  all_goals first | with_reducible assumption | (simp (maxDischargeDepth := 16) [*]; done) | simp_all +contextual (maxDischargeDepth := 16)

@[simp] theorem execFvCmac_keeps (t : Trig) (s : State)
    (hs : memWf s.mem = true) :
    OutOk (execFvCmac t s) := by
  unfold execFvCmac
  try dsimp only
  repeat' split
  all_goals first | with_reducible assumption | (simp (maxDischargeDepth := 16) [*]; done) | simp_all +contextual (maxDischargeDepth := 16)

@[simp] theorem execFvDot4_keeps (t : Trig) (s : State)
    (hs : memWf s.mem = true) :
    OutOk (execFvDot4 t s) := by
  unfold execFvDot4
  try dsimp only
  repeat' split
  all_goals first | with_reducible assumption | (simp (maxDischargeDepth := 16) [*]; done) | simp_all +contextual (maxDischargeDepth := 16)

@[simp] theorem execFvHsum_keeps (t : Trig) (s : State)
    (hs : memWf s.mem = true) :
    OutOk (execFvHsum t s) := by
  unfold execFvHsum
  try dsimp only
  repeat' split
  all_goals first | with_reducible assumption | (simp (maxDischargeDepth := 16) [*]; done) | simp_all +contextual (maxDischargeDepth := 16)

@[simp] theorem execFvPack_keeps (t : Trig) (s : State)
    (hs : memWf s.mem = true) :
    OutOk (execFvPack t s) := by
  unfold execFvPack
  try dsimp only
  repeat' split
  all_goals first | with_reducible assumption | (simp (maxDischargeDepth := 16) [*]; done) | simp_all +contextual (maxDischargeDepth := 16)

@[simp] theorem execFvUnpack_keeps (t : Trig) (s : State)
    (hs : memWf s.mem = true) :
    OutOk (execFvUnpack t s) := by
  unfold execFvUnpack
  try dsimp only
  repeat' split
  all_goals first | with_reducible assumption | (simp (maxDischargeDepth := 16) [*]; done) | simp_all +contextual (maxDischargeDepth := 16)

@[simp] theorem execFvBshuf_keeps (t : Trig) (s : State)
    (hs : memWf s.mem = true) :
    OutOk (execFvBshuf t s) := by
  unfold execFvBshuf
  try dsimp only
  repeat' split
  all_goals first | with_reducible assumption | (simp (maxDischargeDepth := 16) [*]; done) | simp_all +contextual (maxDischargeDepth := 16)

@[simp] theorem execFvMovv_keeps (t : Trig) (s : State)
    (hs : memWf s.mem = true) :
    OutOk (execFvMovv t s) := by
  unfold execFvMovv
  try dsimp only
  repeat' split
  all_goals first | with_reducible assumption | (simp (maxDischargeDepth := 16) [*]; done) | simp_all +contextual (maxDischargeDepth := 16)

end Sys2Proof.Machine
end

