-- ==== Sys2Proof/Laws/KeepCvt.lean ====
section
/-! SUPPORT. Each operation of Machine/Cvt.lean keeps the canonical form of memory. -/

namespace Sys2Proof.Machine

@[simp] theorem runCvt_keeps (i : Instr) (dst : NumFmt) (t : Trig) (s : State)
    (hs : memWf s.mem = true) :
    memWf (runCvt i dst t s).mem = true := by
  unfold runCvt
  try dsimp only
  repeat' split
  all_goals first | with_reducible assumption | simp_all +contextual (maxDischargeDepth := 16)

@[simp] theorem execFvCvtf32_keeps (t : Trig) (s : State)
    (hs : memWf s.mem = true) :
    OutOk (execFvCvtf32 t s) := by
  unfold execFvCvtf32
  try dsimp only
  repeat' split
  all_goals first | with_reducible assumption | simp_all +contextual (maxDischargeDepth := 16)

@[simp] theorem execFvCvtbf16_keeps (t : Trig) (s : State)
    (hs : memWf s.mem = true) :
    OutOk (execFvCvtbf16 t s) := by
  unfold execFvCvtbf16
  try dsimp only
  repeat' split
  all_goals first | with_reducible assumption | simp_all +contextual (maxDischargeDepth := 16)

@[simp] theorem execFvCvtf16_keeps (t : Trig) (s : State)
    (hs : memWf s.mem = true) :
    OutOk (execFvCvtf16 t s) := by
  unfold execFvCvtf16
  try dsimp only
  repeat' split
  all_goals first | with_reducible assumption | simp_all +contextual (maxDischargeDepth := 16)

@[simp] theorem execFvCvti32_keeps (t : Trig) (s : State)
    (hs : memWf s.mem = true) :
    OutOk (execFvCvti32 t s) := by
  unfold execFvCvti32
  try dsimp only
  repeat' split
  all_goals first | with_reducible assumption | simp_all +contextual (maxDischargeDepth := 16)

@[simp] theorem execFvCvtn32_keeps (t : Trig) (s : State)
    (hs : memWf s.mem = true) :
    OutOk (execFvCvtn32 t s) := by
  unfold execFvCvtn32
  try dsimp only
  repeat' split
  all_goals first | with_reducible assumption | simp_all +contextual (maxDischargeDepth := 16)

@[simp] theorem execFvCvti16_keeps (t : Trig) (s : State)
    (hs : memWf s.mem = true) :
    OutOk (execFvCvti16 t s) := by
  unfold execFvCvti16
  try dsimp only
  repeat' split
  all_goals first | with_reducible assumption | simp_all +contextual (maxDischargeDepth := 16)

@[simp] theorem execFvCvtn16_keeps (t : Trig) (s : State)
    (hs : memWf s.mem = true) :
    OutOk (execFvCvtn16 t s) := by
  unfold execFvCvtn16
  try dsimp only
  repeat' split
  all_goals first | with_reducible assumption | simp_all +contextual (maxDischargeDepth := 16)

@[simp] theorem execFvCvti8_keeps (t : Trig) (s : State)
    (hs : memWf s.mem = true) :
    OutOk (execFvCvti8 t s) := by
  unfold execFvCvti8
  try dsimp only
  repeat' split
  all_goals first | with_reducible assumption | simp_all +contextual (maxDischargeDepth := 16)

@[simp] theorem execFvCvtn8_keeps (t : Trig) (s : State)
    (hs : memWf s.mem = true) :
    OutOk (execFvCvtn8 t s) := by
  unfold execFvCvtn8
  try dsimp only
  repeat' split
  all_goals first | with_reducible assumption | simp_all +contextual (maxDischargeDepth := 16)

@[simp] theorem execFvCvtb4_keeps (t : Trig) (s : State)
    (hs : memWf s.mem = true) :
    OutOk (execFvCvtb4 t s) := by
  unfold execFvCvtb4
  try dsimp only
  repeat' split
  all_goals first | with_reducible assumption | simp_all +contextual (maxDischargeDepth := 16)

@[simp] theorem execFvCvtb8_keeps (t : Trig) (s : State)
    (hs : memWf s.mem = true) :
    OutOk (execFvCvtb8 t s) := by
  unfold execFvCvtb8
  try dsimp only
  repeat' split
  all_goals first | with_reducible assumption | simp_all +contextual (maxDischargeDepth := 16)

@[simp] theorem execFvCvtb12_keeps (t : Trig) (s : State)
    (hs : memWf s.mem = true) :
    OutOk (execFvCvtb12 t s) := by
  unfold execFvCvtb12
  try dsimp only
  repeat' split
  all_goals first | with_reducible assumption | simp_all +contextual (maxDischargeDepth := 16)

@[simp] theorem execFvCvtc4_keeps (t : Trig) (s : State)
    (hs : memWf s.mem = true) :
    OutOk (execFvCvtc4 t s) := by
  unfold execFvCvtc4
  try dsimp only
  repeat' split
  all_goals first | with_reducible assumption | simp_all +contextual (maxDischargeDepth := 16)

@[simp] theorem execFvCvtc8_keeps (t : Trig) (s : State)
    (hs : memWf s.mem = true) :
    OutOk (execFvCvtc8 t s) := by
  unfold execFvCvtc8
  try dsimp only
  repeat' split
  all_goals first | with_reducible assumption | simp_all +contextual (maxDischargeDepth := 16)

@[simp] theorem execFvCvtci32_keeps (t : Trig) (s : State)
    (hs : memWf s.mem = true) :
    OutOk (execFvCvtci32 t s) := by
  unfold execFvCvtci32
  try dsimp only
  repeat' split
  all_goals first | with_reducible assumption | simp_all +contextual (maxDischargeDepth := 16)

end Sys2Proof.Machine
end

