-- ==== Sys2Proof/Laws/KeepDevice.lean ====
section
/-! SUPPORT. Each operation of Machine/Device.lean keeps the canonical form of memory. -/

namespace Sys2Proof.Machine

@[simp] theorem devWrite_keeps (s : State) (d : Nat) (prop : Bool) (pa n v : Nat)
    (hs : memWf s.mem = true) :
    memWf (devWrite s d prop pa n v).1.mem = true := by
  unfold devWrite
  try dsimp only
  repeat' split
  all_goals first | with_reducible assumption | (simp (maxDischargeDepth := 16) [*]; done) | simp_all +contextual (maxDischargeDepth := 16)

@[simp] theorem Image.spoil_keeps (s : State) (im : Image) (offs : List Nat)
    (hs : memWf s.mem = true) :
    memWf (Image.spoil s im offs).mem = true := by
  unfold Image.spoil
  try dsimp only
  repeat' split
  all_goals first | with_reducible assumption | (simp (maxDischargeDepth := 16) [*]; done) | simp_all +contextual (maxDischargeDepth := 16)

@[simp] theorem queueImage_keeps (s : State) (d p rcd tid : Nat) (im : Image)
    (hs : memWf s.mem = true) :
    memWf (queueImage s d p rcd tid im).mem = true := by
  unfold queueImage
  try dsimp only
  repeat' split
  all_goals first | with_reducible assumption | (simp (maxDischargeDepth := 16) [*]; done) | simp_all +contextual (maxDischargeDepth := 16)

end Sys2Proof.Machine
end

