-- ==== Sys2Proof/Laws/KeepMx.lean ====
section
/-! SUPPORT. Each operation of Machine/Mx.lean keeps the canonical form of memory. -/

namespace Sys2Proof.Machine

@[simp] theorem setBank_keeps (s : State) (c b : Nat) (x : Bank)
    (hs : memWf s.mem = true) :
    memWf (setBank s c b x).mem = true := by
  unfold setBank
  try dsimp only
  repeat' split
  all_goals first | with_reducible assumption | (simp (maxDischargeDepth := 16) [*]; done) | simp_all +contextual (maxDischargeDepth := 16)

@[simp] theorem emptyBank_keeps (s : State) (c b : Nat)
    (hs : memWf s.mem = true) :
    memWf (emptyBank s c b).mem = true := by
  unfold emptyBank
  try dsimp only
  repeat' split
  all_goals first | with_reducible assumption | (simp (maxDischargeDepth := 16) [*]; done) | simp_all +contextual (maxDischargeDepth := 16)

@[simp] theorem blankBank_keeps (s : State) (c b : Nat)
    (hs : memWf s.mem = true) :
    memWf (blankBank s c b).mem = true := by
  unfold blankBank
  try dsimp only
  repeat' split
  all_goals first | with_reducible assumption | (simp (maxDischargeDepth := 16) [*]; done) | simp_all +contextual (maxDischargeDepth := 16)

@[simp] theorem clearBank_keeps (s : State) (c b : Nat)
    (hs : memWf s.mem = true) :
    memWf (clearBank s c b).mem = true := by
  unfold clearBank
  try dsimp only
  repeat' split
  all_goals first | with_reducible assumption | (simp (maxDischargeDepth := 16) [*]; done) | simp_all +contextual (maxDischargeDepth := 16)

@[simp] theorem mxFault_keeps (s : State) (c sl cause fva : Nat) (o : Opnd)
    (hs : memWf s.mem = true) :
    memWf (mxFault s c sl cause fva o).mem = true := by
  unfold mxFault
  try dsimp only
  repeat' split
  all_goals first | with_reducible assumption | (simp (maxDischargeDepth := 16) [*]; done) | simp_all +contextual (maxDischargeDepth := 16)

@[simp] theorem setRec_keeps (s : State) (t i : Nat) (r : BitVec 128)
    (hs : memWf s.mem = true) :
    memWf (setRec s t i r).mem = true := by
  unfold setRec
  try dsimp only
  repeat' split
  all_goals first | with_reducible assumption | (simp (maxDischargeDepth := 16) [*]; done) | simp_all +contextual (maxDischargeDepth := 16)

@[simp] theorem mxSimple_keeps (s : State) (c sl k : Nat) (o : Opnd) (v : Slice)
    (hs : memWf s.mem = true) :
    memWf (mxSimple s c sl k o v).mem = true := by
  unfold mxSimple
  try dsimp only
  repeat' split
  all_goals first | with_reducible assumption | (simp (maxDischargeDepth := 16) [*]; done) | simp_all +contextual (maxDischargeDepth := 16)

@[simp] theorem runMxres_keeps (fmt : Nat) (s : State) (c sl k : Nat) (o : Opnd)
    (hs : memWf s.mem = true) :
    memWf (runMxres fmt s c sl k o).mem = true := by
  unfold runMxres
  try dsimp only
  repeat' split
  all_goals first | with_reducible assumption | (simp (maxDischargeDepth := 16) [*]; done) | simp_all +contextual (maxDischargeDepth := 16)

@[simp] theorem issueMx_keeps (s : State) (c sl k : Nat) (o : Opnd) (x : MxOp)
    (hs : memWf s.mem = true) :
    memWf (issueMx s c sl k o x).mem = true := by
  unfold issueMx
  try dsimp only
  repeat' split
  all_goals first | with_reducible assumption | (simp (maxDischargeDepth := 16) [*]; done) | simp_all +contextual (maxDischargeDepth := 16)

@[simp] theorem claimBank_keeps (s : State) (c sl b : Nat)
    (hs : memWf s.mem = true) :
    memWf (claimBank s c sl b).mem = true := by
  unfold claimBank
  try dsimp only
  repeat' split
  all_goals first | with_reducible assumption | (simp (maxDischargeDepth := 16) [*]; done) | simp_all +contextual (maxDischargeDepth := 16)

@[simp] theorem runMxpass_keeps (s : State) (c sl k : Nat) (o : Opnd)
    (hs : memWf s.mem = true) :
    memWf (runMxpass s c sl k o).mem = true := by
  unfold runMxpass
  refine ite_keeps _ _ _ (fun _ => mxFault_keeps _ _ _ _ _ _ hs) (fun _ => ?_)
  exact ite_keeps _ _ _ (fun _ => mxFault_keeps _ _ _ _ _ _ hs) (fun _ => issueMx_keeps _ _ _ _ _ _ (claimBank_keeps _ _ _ _ hs))

@[simp] theorem runMxdrain_keeps (mode : Nat) (acc : Bool) (s : State) (c sl k : Nat) (o : Opnd)
    (hs : memWf s.mem = true) :
    memWf (runMxdrain mode acc s c sl k o).mem = true := by
  unfold runMxdrain
  try dsimp only
  repeat' split
  all_goals first | with_reducible assumption | (simp (maxDischargeDepth := 16) [*]; done) | simp_all +contextual (maxDischargeDepth := 16)

@[simp] theorem runMxio_keeps (save : Bool) (s : State) (c sl k : Nat) (o : Opnd)
    (hs : memWf s.mem = true) :
    memWf (runMxio save s c sl k o).mem = true := by
  unfold runMxio
  try dsimp only
  repeat' split
  all_goals first | with_reducible assumption | (simp (maxDischargeDepth := 16) [*]; done) | simp_all +contextual (maxDischargeDepth := 16)

@[simp] theorem execMxMxres_keeps (t : Trig) (s : State)
    (hs : memWf s.mem = true) :
    OutOk (execMxMxres t s) := by
  unfold execMxMxres
  try dsimp only
  repeat' split
  all_goals first | with_reducible assumption | (simp (maxDischargeDepth := 16) [*]; done) | simp_all +contextual (maxDischargeDepth := 16)

@[simp] theorem execMxMxrel_keeps (t : Trig) (s : State)
    (hs : memWf s.mem = true) :
    OutOk (execMxMxrel t s) := by
  unfold execMxMxrel
  try dsimp only
  repeat' split
  all_goals first | with_reducible assumption | (simp (maxDischargeDepth := 16) [*]; done) | simp_all +contextual (maxDischargeDepth := 16)

@[simp] theorem execMxMxcop_keeps (t : Trig) (s : State)
    (hs : memWf s.mem = true) :
    OutOk (execMxMxcop t s) := by
  unfold execMxMxcop
  try dsimp only
  repeat' split
  all_goals first | with_reducible assumption | (simp (maxDischargeDepth := 16) [*]; done) | simp_all +contextual (maxDischargeDepth := 16)

@[simp] theorem execMxMxpass_keeps (t : Trig) (s : State)
    (hs : memWf s.mem = true) :
    OutOk (execMxMxpass t s) := by
  unfold execMxMxpass
  try dsimp only
  repeat' split
  all_goals first | with_reducible assumption | (simp (maxDischargeDepth := 16) [*]; done) | simp_all +contextual (maxDischargeDepth := 16)

@[simp] theorem execMxMxdrain_keeps (t : Trig) (s : State)
    (hs : memWf s.mem = true) :
    OutOk (execMxMxdrain t s) := by
  unfold execMxMxdrain
  try dsimp only
  repeat' split
  all_goals first | with_reducible assumption | (simp (maxDischargeDepth := 16) [*]; done) | simp_all +contextual (maxDischargeDepth := 16)

@[simp] theorem execMxMxdrainAcc_keeps (t : Trig) (s : State)
    (hs : memWf s.mem = true) :
    OutOk (execMxMxdrainAcc t s) := by
  unfold execMxMxdrainAcc
  try dsimp only
  repeat' split
  all_goals first | with_reducible assumption | (simp (maxDischargeDepth := 16) [*]; done) | simp_all +contextual (maxDischargeDepth := 16)

@[simp] theorem execMxMxsave_keeps (t : Trig) (s : State)
    (hs : memWf s.mem = true) :
    OutOk (execMxMxsave t s) := by
  unfold execMxMxsave
  try dsimp only
  repeat' split
  all_goals first | with_reducible assumption | (simp (maxDischargeDepth := 16) [*]; done) | simp_all +contextual (maxDischargeDepth := 16)

@[simp] theorem execMxMxload_keeps (t : Trig) (s : State)
    (hs : memWf s.mem = true) :
    OutOk (execMxMxload t s) := by
  unfold execMxMxload
  try dsimp only
  repeat' split
  all_goals first | with_reducible assumption | (simp (maxDischargeDepth := 16) [*]; done) | simp_all +contextual (maxDischargeDepth := 16)

@[simp] theorem execMxMxstat_keeps (t : Trig) (s : State)
    (hs : memWf s.mem = true) :
    OutOk (execMxMxstat t s) := by
  unfold execMxMxstat
  try dsimp only
  repeat' split
  all_goals first | with_reducible assumption | (simp (maxDischargeDepth := 16) [*]; done) | simp_all +contextual (maxDischargeDepth := 16)

@[simp] theorem putMx_keeps (s : State) (c : Nat) (o : MxOp)
    (hs : memWf s.mem = true) :
    memWf (putMx s c o).mem = true := by
  unfold putMx
  try dsimp only
  repeat' split
  all_goals first | with_reducible assumption | (simp (maxDischargeDepth := 16) [*]; done) | simp_all +contextual (maxDischargeDepth := 16)

@[simp] theorem removeMx_keeps (s : State) (c id : Nat)
    (hs : memWf s.mem = true) :
    memWf (removeMx s c id).mem = true := by
  unfold removeMx
  try dsimp only
  repeat' split
  all_goals first | with_reducible assumption | (simp (maxDischargeDepth := 16) [*]; done) | simp_all +contextual (maxDischargeDepth := 16)

@[simp] theorem fillMx_keeps (s : State) (c : Nat) (o : MxOp) (v : Nat)
    (hs : memWf s.mem = true) :
    memWf (fillMx s c o v).mem = true := by
  unfold fillMx
  try dsimp only
  repeat' split
  all_goals first | with_reducible assumption | (simp (maxDischargeDepth := 16) [*]; done) | simp_all +contextual (maxDischargeDepth := 16)

@[simp] theorem failMx_keeps (s : State) (c : Nat) (o : MxOp) (cause fva : Nat)
    (hs : memWf s.mem = true) :
    memWf (failMx s c o cause fva).mem = true := by
  unfold failMx
  try dsimp only
  repeat' split
  all_goals first | with_reducible assumption | (simp (maxDischargeDepth := 16) [*]; done) | simp_all +contextual (maxDischargeDepth := 16)

@[simp] theorem execMxPassStart_keeps (s : State)
    (hs : memWf s.mem = true) :
    OutOk (execMxPassStart s) := by
  unfold execMxPassStart
  try dsimp only
  repeat' split
  all_goals first | with_reducible assumption | (simp (maxDischargeDepth := 16) [*]; done) | simp_all +contextual (maxDischargeDepth := 16)

@[simp] theorem showSpan_keeps (s : State) (c b : Nat) (span : Bool)
    (hs : memWf s.mem = true) :
    memWf (showSpan s c b span).mem = true := by
  unfold showSpan
  try dsimp only
  repeat' split
  all_goals first | with_reducible assumption | (simp (maxDischargeDepth := 16) [*]; done) | simp_all +contextual (maxDischargeDepth := 16)

@[simp] theorem loadBank_keeps (s : State) (c : Nat) (o : MxOp)
    (hs : memWf s.mem = true) :
    memWf (loadBank s c o).mem = true := by
  unfold loadBank
  try dsimp only
  repeat' split
  all_goals first | with_reducible assumption | (simp (maxDischargeDepth := 16) [*]; done) | simp_all +contextual (maxDischargeDepth := 16)

@[simp] theorem markLoss_keeps (s : State) (o : MxOp) (i : Nat) (loss : Bool)
    (hs : memWf s.mem = true) :
    memWf (markLoss s o i loss).mem = true := by
  unfold markLoss
  try dsimp only
  repeat' split
  all_goals first | with_reducible assumption | (simp (maxDischargeDepth := 16) [*]; done) | simp_all +contextual (maxDischargeDepth := 16)

@[simp] theorem closePair_keeps (s : State) (c : Nat)
    (hs : memWf s.mem = true) :
    memWf (closePair s c).mem = true := by
  unfold closePair
  try dsimp only
  repeat' split
  all_goals first | with_reducible assumption | (simp (maxDischargeDepth := 16) [*]; done) | simp_all +contextual (maxDischargeDepth := 16)

@[simp] theorem execMxPassRetire_keeps (s : State)
    (hs : memWf s.mem = true) :
    OutOk (execMxPassRetire s) := by
  unfold execMxPassRetire
  try dsimp only
  repeat' split
  all_goals first | with_reducible assumption | (simp (maxDischargeDepth := 16) [*]; done) | simp_all +contextual (maxDischargeDepth := 16)

@[simp] theorem startDrain_keeps (s : State) (c : Nat) (o : MxOp)
    (hs : memWf s.mem = true) :
    memWf (startDrain s c o).mem = true := by
  unfold startDrain
  try dsimp only
  repeat' split
  all_goals first | with_reducible assumption | (simp (maxDischargeDepth := 16) [*]; done) | simp_all +contextual (maxDischargeDepth := 16)

@[simp] theorem execMxDrainStart_keeps (s : State)
    (hs : memWf s.mem = true) :
    OutOk (execMxDrainStart s) := by
  unfold execMxDrainStart
  try dsimp only
  repeat' split
  all_goals first | with_reducible assumption | (simp (maxDischargeDepth := 16) [*]; done) | simp_all +contextual (maxDischargeDepth := 16)

@[simp] theorem drainRows_keeps (s : State) (c : Nat) (o : MxOp)
    (hs : memWf s.mem = true) :
    memWf (drainRows s c o).1.mem = true := by
  unfold drainRows
  try dsimp only
  repeat' split
  all_goals first | with_reducible assumption | (simp (maxDischargeDepth := 16) [*]; done) | simp_all +contextual (maxDischargeDepth := 16)

@[simp] theorem execMxDrainRetire_keeps (s : State)
    (hs : memWf s.mem = true) :
    OutOk (execMxDrainRetire s) := by
  unfold execMxDrainRetire
  extract_lets c
  split
  · exact hs
  rename_i s' _ o _
  have hs' : memWf s'.mem = true := closePair_keeps _ _ hs
  clear_value s'
  split
  · exact (outOk_next _).2 (failMx_keeps _ _ _ _ _ hs')
  have hd := drainRows_keeps (removeMx s' c o.id) c o (removeMx_keeps _ _ _ hs')
  revert hd
  generalize drainRows (removeMx s' c o.id) c o = q
  intro hd
  refine (outOk_next _).2 (fillMx_keeps _ _ _ _ ?_)
  split
  · refine emptyBank_keeps _ _ _ ?_
    rw [modCore_mem]
    exact countEvent_keeps _ _ _ _ _ hd
  · rw [modCore_mem]
    exact countEvent_keeps _ _ _ _ _ hd

@[simp] theorem widenImage_keeps (s : State) (c : Nat) (o : MxOp) (a : Access)
    (hs : memWf s.mem = true) :
    memWf (widenImage s c o a).mem = true := by
  unfold widenImage
  try dsimp only
  repeat' split
  all_goals first | with_reducible assumption | (simp (maxDischargeDepth := 16) [*]; done) | simp_all +contextual (maxDischargeDepth := 16)

@[simp] theorem execMxsaveStart_keeps (s : State)
    (hs : memWf s.mem = true) :
    OutOk (execMxsaveStart s) := by
  unfold execMxsaveStart
  try dsimp only
  repeat' split
  all_goals first | with_reducible assumption | (simp (maxDischargeDepth := 16) [*]; done) | simp_all +contextual (maxDischargeDepth := 16)

@[simp] theorem refuseLoad_keeps (s : State) (c : Nat) (o : MxOp) (cause fva : Nat)
    (hs : memWf s.mem = true) :
    memWf (refuseLoad s c o cause fva).mem = true := by
  unfold refuseLoad
  try dsimp only
  repeat' split
  all_goals first | with_reducible assumption | (simp (maxDischargeDepth := 16) [*]; done) | simp_all +contextual (maxDischargeDepth := 16)

@[simp] theorem startLoad_keeps (s : State) (c : Nat) (o : MxOp) (a : Access) (head : Nat)
    (hs : memWf s.mem = true) :
    memWf (startLoad s c o a head).mem = true := by
  unfold startLoad
  try dsimp only
  repeat' split
  all_goals first | with_reducible assumption | (simp (maxDischargeDepth := 16) [*]; done) | simp_all +contextual (maxDischargeDepth := 16)

@[simp] theorem execMxloadStart_keeps (s : State)
    (hs : memWf s.mem = true) :
    OutOk (execMxloadStart s) := by
  have n (t : State) (h : memWf t.mem = true) : OutOk (.next t) := h
  unfold execMxloadStart
  extract_lets c
  split
  · rename_i o _
    split
    · rename_i a _ _
      split
      · extract_lets va head full
        clear_value va head full
        split
        · exact n _ (startLoad_keeps _ _ _ _ _ hs)
        split
        · exact n _ (refuseLoad_keeps _ _ _ _ _ hs)
        split
        · split
          · exact n _ (startLoad_keeps _ _ _ _ _ (fillWalks_keeps _ _ _ hs))
          · exact n _ (refuseLoad_keeps _ _ _ _ _ (fillWalks_keeps _ _ _ hs))
          · exact n _ (parkAccess_keeps _ _ _ _ _ _ _ _ (putMx_keeps _ _ _ (fillWalks_keeps _ _ _ hs)))
          · exact n _ hs
        · exact n _ (startLoad_keeps _ _ _ _ _ hs)
      · exact n _ hs
    · exact n _ hs
  · exact n _ hs

@[simp] theorem execMxloadRetire_keeps (s : State)
    (hs : memWf s.mem = true) :
    OutOk (execMxloadRetire s) := by
  unfold execMxloadRetire
  try dsimp only
  repeat' split
  all_goals first | with_reducible assumption | (simp (maxDischargeDepth := 16) [*]; done) | simp_all +contextual (maxDischargeDepth := 16)

end Sys2Proof.Machine
end

