-- ==== Sys2Proof/Laws/KeepQueues.lean ====
section
/-! SUPPORT. Each operation of Machine/Queues.lean keeps the canonical form of memory. -/

namespace Sys2Proof.Machine

@[simp] theorem ringPost_keeps (s : State) (key d v : Nat)
    (hs : memWf s.mem = true) :
    memWf (ringPost s key d v).1.mem = true := by
  unfold ringPost
  try dsimp only
  repeat' split
  all_goals first | with_reducible assumption | (simp (maxDischargeDepth := 16) [*]; done) | simp_all +contextual (maxDischargeDepth := 16)

@[simp] theorem postEvent_keeps (s : State) (p d kind detail : Nat)
    (hs : memWf s.mem = true) :
    memWf (postEvent s p d kind detail).mem = true := by
  unfold postEvent
  try dsimp only
  repeat' split
  all_goals first | with_reducible assumption | (simp (maxDischargeDepth := 16) [*]; done) | simp_all +contextual (maxDischargeDepth := 16)

@[simp] theorem postAll_keeps (s : State) (d kind detail : Nat)
    (hs : memWf s.mem = true) :
    memWf (postAll s d kind detail).mem = true := by
  unfold postAll
  try dsimp only
  repeat' split
  all_goals first | with_reducible assumption | (simp (maxDischargeDepth := 16) [*]; done) | simp_all +contextual (maxDischargeDepth := 16)

@[simp] theorem rescanFor_keeps (s : State) (sel : Placing → Bool)
    (hs : memWf s.mem = true) :
    memWf (rescanFor s sel).mem = true := by
  unfold rescanFor
  try dsimp only
  repeat' split
  all_goals first | with_reducible assumption | (simp (maxDischargeDepth := 16) [*]; done) | simp_all +contextual (maxDischargeDepth := 16)

@[simp] theorem endFreed_keeps (s : State) (c : Nat)
    (hs : memWf s.mem = true) :
    memWf (endFreed s c).mem = true := by
  unfold endFreed
  try dsimp only
  repeat' split
  all_goals first | with_reducible assumption | (simp (maxDischargeDepth := 16) [*]; done) | simp_all +contextual (maxDischargeDepth := 16)

theorem devAdd_keeps {s t : State} {d p va v : Nat} {x : BitVec 64} (h : devAdd s d p va x = some (t, v))
    (hs : memWf s.mem = true) : memWf t.mem = true := by
  unfold devAdd at h
  split at h
  · cases h
  · split at h
    · cases h
    · split at h
      · cases h
      · cases h
        exact devWrite_keeps _ _ _ _ _ _ hs

@[simp] theorem postRing_keeps (s : State) (key p d v : Nat)
    (hs : memWf s.mem = true) :
    memWf (postRing s key p d v).1.mem = true := by
  unfold postRing
  try dsimp only
  repeat' split
  all_goals first | with_reducible assumption | (simp (maxDischargeDepth := 16) [*]; done) | simp_all +contextual (maxDischargeDepth := 16)

@[simp] theorem putHost_keeps (s : State) (a n v : Nat)
    (hs : memWf s.mem = true) :
    memWf (putHost s a n v).mem = true := by
  unfold putHost
  try dsimp only
  repeat' split
  all_goals first | with_reducible assumption | (simp (maxDischargeDepth := 16) [*]; done) | simp_all +contextual (maxDischargeDepth := 16)

@[simp] theorem userInterrupt_keeps (s : State) (p : Nat) (target : BitVec 64)
    (hs : memWf s.mem = true) :
    memWf (userInterrupt s p target).mem = true := by
  unfold userInterrupt
  extract_lets link vec e da old new s1 ua s2
  have h1 : memWf s1.mem = true := putHost_keeps _ _ _ _ hs
  have h2 : memWf s2.mem = true := putHost_keeps _ _ _ _ h1
  clear_value s2
  clear_value s1
  split
  · exact hs
  · split
    · rw [modPkg_mem]; exact hs
    · split
      · exact h2
      · exact h1

@[simp] theorem raiseNotices_keeps (s : State)
    (hs : memWf s.mem = true) :
    memWf (raiseNotices s).mem = true := by
  unfold raiseNotices
  try dsimp only
  repeat' split
  all_goals first | with_reducible assumption | (simp (maxDischargeDepth := 16) [*]; done) | simp_all +contextual (maxDischargeDepth := 16)

@[simp] theorem finishAdd_keeps (s : State) (f : Finish)
    (hs : memWf s.mem = true) :
    memWf (finishAdd s f).mem = true := by
  unfold finishAdd
  split
  rename_i s2 v heq
  have h2 : memWf s2.mem = true := by
    split at heq
    · cases heq; exact hs
    · split at heq
      · rename_i hd
        cases heq; exact devAdd_keeps hd hs
      · cases heq; exact postEvent_keeps _ _ _ _ _ hs
  split
  · exact raiseNotices_keeps _ (postRing_keeps s2 (postKey f.part) f.part f.die
      ((gtime s2 f.die).toNat + f.rcd * 2 ^ 64 + f.word * 2 ^ 128 + v * 2 ^ 192) h2)
  · exact h2

@[simp] theorem finishNext_keeps (s : State) (f : Finish)
    (hs : memWf s.mem = true) :
    memWf (finishNext s f).mem = true := by
  unfold finishNext
  split
  · exact hs
  · exact finishAdd_keeps _ _ hs

@[simp] theorem resumeFinishes_keeps (s : State)
    (hs : memWf s.mem = true) :
    memWf (resumeFinishes s).mem = true := by
  exact foldl_keeps _ _ _ (fun s f h => finishNext_keeps s f h) hs

@[simp] theorem finishRecord_keeps (s : State) (d p rcd : Nat) (r : LaunchRec) (status : Nat)
    (hs : memWf s.mem = true) :
    memWf (finishRecord s d p rcd r status).mem = true := by
  unfold finishRecord
  extract_lets word s1
  have h1 : memWf s1.mem = true := by
    simp only [s1]
    split
    · split
      · exact devWrite_keeps _ _ _ _ _ _ hs
      · exact hs
    · exact hs
  exact finishNext_keeps _ _ h1

@[simp] theorem finishUnrun_keeps (s : State) (d p rcd status : Nat)
    (hs : memWf s.mem = true) :
    memWf (finishUnrun s d p rcd status).mem = true := by
  unfold finishUnrun
  try dsimp only
  repeat' split
  all_goals first | with_reducible assumption | (simp (maxDischargeDepth := 16) [*]; done) | simp_all +contextual (maxDischargeDepth := 16)

@[simp] theorem skeinFinish_keeps (s : State) (p rcd : Nat)
    (hs : memWf s.mem = true) :
    memWf (skeinFinish s p rcd).mem = true := by
  unfold skeinFinish
  try dsimp only
  repeat' split
  all_goals first | with_reducible assumption | (simp (maxDischargeDepth := 16) [*]; done) | simp_all +contextual (maxDischargeDepth := 16)

@[simp] theorem newtWrite_keeps (s : State) (d a n v : Nat)
    (hs : memWf s.mem = true) :
    memWf (newtWrite s d a n v).mem = true := by
  unfold newtWrite
  try dsimp only
  repeat' split
  all_goals first | with_reducible assumption | (simp (maxDischargeDepth := 16) [*]; done) | simp_all +contextual (maxDischargeDepth := 16)

@[simp] theorem putSegEntry_keeps (s : State) (d : Nat) (e : SegEntry)
    (hs : memWf s.mem = true) :
    memWf (putSegEntry s d e).mem = true := by
  exact newtWrite_keeps s d _ 16 _ hs

@[simp] theorem setSegs_keeps (s : State) (c : Nat) (l : List (List SegEntry))
    (hs : memWf s.mem = true) :
    memWf (setSegs s c l).mem = true := by
  unfold setSegs
  try dsimp only
  repeat' split
  all_goals first | with_reducible assumption | (simp (maxDischargeDepth := 16) [*]; done) | simp_all +contextual (maxDischargeDepth := 16)

@[simp] theorem addReady_keeps (s : State) (d : Nat) (r : Ready)
    (hs : memWf s.mem = true) :
    memWf (addReady s d r).mem = true := by
  unfold addReady
  try dsimp only
  repeat' split
  all_goals first | with_reducible assumption | (simp (maxDischargeDepth := 16) [*]; done) | simp_all +contextual (maxDischargeDepth := 16)

@[simp] theorem headReady_keeps (s : State) (c : Nat)
    (hs : memWf s.mem = true) :
    memWf (headReady s c).mem = true := by
  unfold headReady
  try dsimp only
  repeat' split
  all_goals first | with_reducible assumption | (simp (maxDischargeDepth := 16) [*]; done) | simp_all +contextual (maxDischargeDepth := 16)

@[simp] theorem plqPush_keeps (s : State) (c : Nat) (e : SegEntry)
    (hs : memWf s.mem = true) :
    memWf (plqPush s c e).mem = true := by
  unfold plqPush
  try dsimp only
  repeat' split
  all_goals first | with_reducible assumption | (simp (maxDischargeDepth := 16) [*]; done) | simp_all +contextual (maxDischargeDepth := 16)

@[simp] theorem plqDrop_keeps (s : State) (c : Nat) (t : BitVec 32)
    (hs : memWf s.mem = true) :
    memWf (plqDrop s c t).mem = true := by
  unfold plqDrop
  try dsimp only
  repeat' split
  all_goals first | with_reducible assumption | (simp (maxDischargeDepth := 16) [*]; done) | simp_all +contextual (maxDischargeDepth := 16)

@[simp] theorem fillAccepted_keeps (s : State) (tc : Nat)
    (hs : memWf s.mem = true) :
    memWf (fillAccepted s tc).mem = true := hs

@[simp] theorem dropTaken_keeps (s : State) (c : Nat)
    (hs : memWf s.mem = true) :
    memWf (dropTaken s c).mem = true := by
  unfold dropTaken
  try dsimp only
  repeat' split
  all_goals first | with_reducible assumption | (simp (maxDischargeDepth := 16) [*]; done) | simp_all +contextual (maxDischargeDepth := 16)

@[simp] theorem endQueueCycle_keeps (s : State) (c : Nat)
    (hs : memWf s.mem = true) :
    memWf (endQueueCycle s c).mem = true := by
  unfold endQueueCycle
  exact fillAccepted_keeps _ _ (dropTaken_keeps _ _ hs)

@[simp] theorem fillPushed_keeps (s : State) (h : Handover) (status : Nat)
    (hs : memWf s.mem = true) :
    memWf (fillPushed s h status).mem = true := by
  unfold fillPushed
  try dsimp only
  repeat' split
  all_goals first | with_reducible assumption | (simp (maxDischargeDepth := 16) [*]; done) | simp_all +contextual (maxDischargeDepth := 16)

@[simp] theorem dropHandover_keeps (s : State) (h : Handover)
    (hs : memWf s.mem = true) :
    memWf (dropHandover s h).mem = true := by
  unfold dropHandover
  try dsimp only
  repeat' split
  all_goals first | with_reducible assumption | (simp (maxDischargeDepth := 16) [*]; done) | simp_all +contextual (maxDischargeDepth := 16)

@[simp] theorem unissue_keeps (s : State) (c : Nat) (t : BitVec 32)
    (hs : memWf s.mem = true) :
    memWf (unissue s c t).mem = true := by
  unfold unissue
  try dsimp only
  repeat' split
  all_goals first | with_reducible assumption | (simp (maxDischargeDepth := 16) [*]; done) | simp_all +contextual (maxDischargeDepth := 16)

@[simp] theorem lnFault_keeps (s : State) (c sl cause fva : Nat) (o : Opnd)
    (hs : memWf s.mem = true) :
    memWf (lnFault s c sl cause fva o).mem = true := by
  unfold lnFault
  try dsimp only
  repeat' split
  all_goals first | with_reducible assumption | (simp (maxDischargeDepth := 16) [*]; done) | simp_all +contextual (maxDischargeDepth := 16)

@[simp] theorem withTarget_keeps (s : State) (c sl : Nat) (o : Opnd) (f : State → Nat → State)
    (hf : ∀ (x0 : State) (x1 : Nat), memWf x0.mem = true → memWf (f x0 x1).mem = true) (hs : memWf s.mem = true) :
    memWf (withTarget s c sl o f).mem = true := by
  unfold withTarget
  try dsimp only
  repeat' split
  all_goals first | with_reducible assumption | (simp (maxDischargeDepth := 16) [*]; done) | simp_all +contextual (maxDischargeDepth := 16)

@[simp] theorem execLnPush_keeps (t : Trig) (s : State)
    (hs : memWf s.mem = true) :
    OutOk (execLnPush t s) := by
  unfold execLnPush
  try dsimp only
  repeat' split
  all_goals first | with_reducible assumption | (simp (maxDischargeDepth := 16) [*]; done) | simp_all +contextual (maxDischargeDepth := 16)

@[simp] theorem execLnStat_keeps (t : Trig) (s : State)
    (hs : memWf s.mem = true) :
    OutOk (execLnStat t s) := by
  unfold execLnStat
  try dsimp only
  repeat' split
  all_goals first | with_reducible assumption | (simp (maxDischargeDepth := 16) [*]; done) | simp_all +contextual (maxDischargeDepth := 16)

@[simp] theorem markSegs_keeps (s : State) (c : Nat) (t : BitVec 32)
    (hs : memWf s.mem = true) :
    memWf (markSegs s c t).mem = true := by
  unfold markSegs
  try dsimp only
  repeat' split
  all_goals first | with_reducible assumption | (simp (maxDischargeDepth := 16) [*]; done) | simp_all +contextual (maxDischargeDepth := 16)

@[simp] theorem cancelSeg_keeps (s : State) (c : Nat) (e : SegEntry)
    (hs : memWf s.mem = true) :
    memWf (cancelSeg s c e).mem = true := by
  exact markSegs_keeps _ _ _ (putSegEntry_keeps s (dieOf c) { e with canc := true } hs)

@[simp] theorem cancelTicket_keeps (s : State) (c : Nat) (t : BitVec 32)
    (hs : memWf s.mem = true) :
    memWf (cancelTicket s c t).2.mem = true := by
  unfold cancelTicket
  try dsimp only
  repeat' split
  all_goals first | with_reducible assumption | (simp (maxDischargeDepth := 16) [*]; done) | simp_all +contextual (maxDischargeDepth := 16)

@[simp] theorem execLnCancel_keeps (t : Trig) (s : State)
    (hs : memWf s.mem = true) :
    OutOk (execLnCancel t s) := by
  unfold execLnCancel
  try dsimp only
  repeat' split
  all_goals first | with_reducible assumption | (simp (maxDischargeDepth := 16) [*]; done) | simp_all +contextual (maxDischargeDepth := 16)

@[simp] theorem acceptPush_keeps (s : State) (c sl i tc rcd : Nat)
    (hs : memWf s.mem = true) :
    memWf (acceptPush s c sl i tc rcd).mem = true := by
  unfold acceptPush
  try dsimp only
  repeat' split
  all_goals first | with_reducible assumption | (simp (maxDischargeDepth := 16) [*]; done) | simp_all +contextual (maxDischargeDepth := 16)

@[simp] theorem notePush_keeps (s : State) (c sl tc : Nat)
    (hs : memWf s.mem = true) :
    memWf (notePush s c sl tc).mem = true := by
  unfold notePush
  try dsimp only
  repeat' split
  all_goals first | with_reducible assumption | (simp (maxDischargeDepth := 16) [*]; done) | simp_all +contextual (maxDischargeDepth := 16)

@[simp] theorem execLnPushAccept_keeps (s : State)
    (hs : memWf s.mem = true) :
    OutOk (execLnPushAccept s) := by
  unfold execLnPushAccept
  try dsimp only
  repeat' split
  all_goals first | with_reducible assumption | (simp (maxDischargeDepth := 16) [*]; done) | simp_all +contextual (maxDischargeDepth := 16)

@[simp] theorem execSegmentLink_keeps (s : State)
    (hs : memWf s.mem = true) :
    OutOk (execSegmentLink s) := by
  unfold execSegmentLink
  try dsimp only
  repeat' split
  all_goals first | with_reducible assumption | (simp (maxDischargeDepth := 16) [*]; done) | simp_all +contextual (maxDischargeDepth := 16)

@[simp] theorem loseSegs_keeps (s : State) (c : Nat)
    (hs : memWf s.mem = true) :
    memWf (loseSegs s c).mem = true := by
  unfold loseSegs
  try dsimp only
  repeat' split
  all_goals first | with_reducible assumption | (simp (maxDischargeDepth := 16) [*]; done) | simp_all +contextual (maxDischargeDepth := 16)

@[simp] theorem execSegmentRefill_keeps (s : State)
    (hs : memWf s.mem = true) :
    OutOk (execSegmentRefill s) := by
  unfold execSegmentRefill
  try dsimp only
  repeat' split
  all_goals first | with_reducible assumption | (simp (maxDischargeDepth := 16) [*]; done) | simp_all +contextual (maxDischargeDepth := 16)

end Sys2Proof.Machine
end

