-- ==== Sys2Proof/Laws/KeepMove.lean ====
section
/-! SUPPORT. Each operation of Machine/Move.lean keeps the canonical form of memory. -/

namespace Sys2Proof.Machine

@[simp] theorem writeV_keeps (s : State) (c sl i : Nat) (m : Mask) (v : Row)
    (hs : memWf s.mem = true) :
    memWf (writeV s c sl i m v).mem = true := by
  unfold writeV
  try dsimp only
  repeat' split
  all_goals first | with_reducible assumption | simp_all +contextual (maxDischargeDepth := 16)

@[simp] theorem execMove_keeps (src : Src) (dst : Dst) (s : State)
    (hs : memWf s.mem = true) :
    OutOk (execMove src dst s) := by
  unfold execMove
  try dsimp only
  repeat' split
  all_goals first | with_reducible assumption | simp_all +contextual (maxDischargeDepth := 16)

@[simp] theorem pushVector_keeps (s : State) (c sl k u : Nat) (m : Mask) (v : Row)
    (hs : memWf s.mem = true) :
    memWf (pushVector s c sl k u m v).mem = true := by
  unfold pushVector
  try dsimp only
  repeat' split
  all_goals first | with_reducible assumption | simp_all +contextual (maxDischargeDepth := 16)

@[simp] theorem execPortLatch_keeps (src : Src) (unit : BitVec 5) (port : PortName) (s : State)
    (hs : memWf s.mem = true) :
    OutOk (execPortLatch src unit port s) := by
  unfold execPortLatch
  try dsimp only
  repeat' split
  all_goals first | with_reducible assumption | simp_all +contextual (maxDischargeDepth := 16)

end Sys2Proof.Machine
end

