-- ==== Sys2Proof/Laws/KeepSp.lean ====
section
/-! SUPPORT. Each operation of Machine/Sp.lean keeps the canonical form of memory. -/

namespace Sys2Proof.Machine

@[simp] theorem execSpSpcfg_keeps (t : Trig) (s : State)
    (hs : memWf s.mem = true) :
    OutOk (execSpSpcfg t s) := by
  unfold execSpSpcfg
  try dsimp only
  repeat' split
  all_goals first | with_reducible assumption | simp_all +contextual (maxDischargeDepth := 16)

@[simp] theorem execSpSpbase_keeps (t : Trig) (s : State)
    (hs : memWf s.mem = true) :
    OutOk (execSpSpbase t s) := by
  unfold execSpSpbase
  try dsimp only
  repeat' split
  all_goals first | with_reducible assumption | simp_all +contextual (maxDischargeDepth := 16)

@[simp] theorem execSpSpstart_keeps (t : Trig) (s : State)
    (hs : memWf s.mem = true) :
    OutOk (execSpSpstart t s) := by
  unfold execSpSpstart
  try dsimp only
  repeat' split
  all_goals first | with_reducible assumption | simp_all +contextual (maxDischargeDepth := 16)

@[simp] theorem execSpSpskip_keeps (t : Trig) (s : State)
    (hs : memWf s.mem = true) :
    OutOk (execSpSpskip t s) := by
  unfold execSpSpskip
  try dsimp only
  repeat' split
  all_goals first | with_reducible assumption | simp_all +contextual (maxDischargeDepth := 16)

@[simp] theorem execSpSpstat_keeps (t : Trig) (s : State)
    (hs : memWf s.mem = true) :
    OutOk (execSpSpstat t s) := by
  unfold execSpSpstat
  try dsimp only
  repeat' split
  all_goals first | with_reducible assumption | simp_all +contextual (maxDischargeDepth := 16)

@[simp] theorem execSpSpstop_keeps (t : Trig) (s : State)
    (hs : memWf s.mem = true) :
    OutOk (execSpSpstop t s) := by
  unfold execSpSpstop
  try dsimp only
  repeat' split
  all_goals first | with_reducible assumption | simp_all +contextual (maxDischargeDepth := 16)

@[simp] theorem vectorFault_keeps (s : State) (c sl u i cause fva ln : Nat)
    (hs : memWf s.mem = true) :
    memWf (vectorFault s c sl u i cause fva ln).mem = true := by
  unfold vectorFault
  try dsimp only
  repeat' split
  all_goals first | with_reducible assumption | (simp (maxDischargeDepth := 16) [*]; done) | simp_all +contextual (maxDischargeDepth := 16)

@[simp] theorem readVector_keeps (s : State) (c sl u i later : Nat) (a : Access)
    (hs : memWf s.mem = true) :
    memWf (readVector s c sl u i later a).mem = true := by
  unfold readVector
  try dsimp only
  repeat' split
  all_goals first | with_reducible assumption | (simp (maxDischargeDepth := 16) [*]; done) | simp_all +contextual (maxDischargeDepth := 16)

@[simp] theorem fetchVector_keeps (s : State) (c sl u i later : Nat) (a : Access)
    (hs : memWf s.mem = true) :
    memWf (fetchVector s c sl u i later a).mem = true := by
  unfold fetchVector
  try dsimp only
  repeat' split
  all_goals first | with_reducible assumption | (simp (maxDischargeDepth := 16) [*]; done) | simp_all +contextual (maxDischargeDepth := 16)

@[simp] theorem execStreamVectorFetch_keeps (s : State)
    (hs : memWf s.mem = true) :
    OutOk (execStreamVectorFetch s) := by
  unfold execStreamVectorFetch
  try dsimp only
  repeat' split
  all_goals first | with_reducible assumption | simp_all +contextual (maxDischargeDepth := 16)

@[simp] theorem execStreamVectorWrite_keeps (s : State)
    (hs : memWf s.mem = true) :
    OutOk (execStreamVectorWrite s) := by
  unfold execStreamVectorWrite
  try dsimp only
  repeat' split
  all_goals first | with_reducible assumption | simp_all +contextual (maxDischargeDepth := 16)

end Sys2Proof.Machine
end

