-- ==== Sys2Proof/Laws/KeepSs.lean ====
section
/-! SUPPORT. Each operation of Machine/Ss.lean keeps the canonical form of memory. -/

namespace Sys2Proof.Machine

@[simp] theorem ssEntry_keeps (s : State) (c sl k : Nat) (o : Opnd) (v : Row) (p : Pend)
    (hs : memWf s.mem = true) :
    memWf (ssEntry s c sl k o v p).mem = true := by
  unfold ssEntry
  try dsimp only
  repeat' split
  all_goals first | with_reducible assumption | (simp (maxDischargeDepth := 16) [*]; done) | simp_all +contextual (maxDischargeDepth := 16)

@[simp] theorem ssFault_keeps (s : State) (c sl cause fva : Nat) (o : Opnd)
    (hs : memWf s.mem = true) :
    memWf (ssFault s c sl cause fva o).mem = true := by
  unfold ssFault
  try dsimp only
  repeat' split
  all_goals first | with_reducible assumption | (simp (maxDischargeDepth := 16) [*]; done) | simp_all +contextual (maxDischargeDepth := 16)

@[simp] theorem execSsRdsys_keeps (t : Trig) (s : State)
    (hs : memWf s.mem = true) :
    OutOk (execSsRdsys t s) := by
  unfold execSsRdsys
  try dsimp only
  repeat' split
  all_goals first | with_reducible assumption | (simp (maxDischargeDepth := 16) [*]; done) | simp_all +contextual (maxDischargeDepth := 16)

@[simp] theorem execSsWrsys_keeps (t : Trig) (s : State)
    (hs : memWf s.mem = true) :
    OutOk (execSsWrsys t s) := by
  unfold execSsWrsys
  try dsimp only
  repeat' split
  all_goals first | with_reducible assumption | (simp (maxDischargeDepth := 16) [*]; done) | simp_all +contextual (maxDischargeDepth := 16)

@[simp] theorem execSsTrap_keeps (t : Trig) (s : State)
    (hs : memWf s.mem = true) :
    OutOk (execSsTrap t s) := by
  unfold execSsTrap
  try dsimp only
  repeat' split
  all_goals first | with_reducible assumption | (simp (maxDischargeDepth := 16) [*]; done) | simp_all +contextual (maxDischargeDepth := 16)

@[simp] theorem execSsRti_keeps (t : Trig) (s : State)
    (hs : memWf s.mem = true) :
    OutOk (execSsRti t s) := by
  unfold execSsRti
  try dsimp only
  repeat' split
  all_goals first | with_reducible assumption | (simp (maxDischargeDepth := 16) [*]; done) | simp_all +contextual (maxDischargeDepth := 16)

@[simp] theorem execSsTlbinv_keeps (t : Trig) (s : State)
    (hs : memWf s.mem = true) :
    OutOk (execSsTlbinv t s) := by
  unfold execSsTlbinv
  try dsimp only
  repeat' split
  all_goals first | with_reducible assumption | (simp (maxDischargeDepth := 16) [*]; done) | simp_all +contextual (maxDischargeDepth := 16)

@[simp] theorem execSsReplay_keeps (t : Trig) (s : State)
    (hs : memWf s.mem = true) :
    OutOk (execSsReplay t s) := by
  unfold execSsReplay
  try dsimp only
  repeat' split
  all_goals first | with_reducible assumption | (simp (maxDischargeDepth := 16) [*]; done) | simp_all +contextual (maxDischargeDepth := 16)

@[simp] theorem execSsPub_keeps (t : Trig) (s : State)
    (hs : memWf s.mem = true) :
    OutOk (execSsPub t s) := by
  unfold execSsPub
  try dsimp only
  repeat' split
  all_goals first | with_reducible assumption | (simp (maxDischargeDepth := 16) [*]; done) | simp_all +contextual (maxDischargeDepth := 16)

@[simp] theorem lockTrigger_keeps (lock : Bool) (s : State) (c sl k : Nat) (o : Opnd)
    (hs : memWf s.mem = true) :
    memWf (lockTrigger lock s c sl k o).mem = true := by
  unfold lockTrigger
  try dsimp only
  repeat' split
  all_goals first | with_reducible assumption | (simp (maxDischargeDepth := 16) [*]; done) | simp_all +contextual (maxDischargeDepth := 16)

@[simp] theorem execSsIclock_keeps (t : Trig) (s : State)
    (hs : memWf s.mem = true) :
    OutOk (execSsIclock t s) := by
  unfold execSsIclock
  try dsimp only
  repeat' split
  all_goals first | with_reducible assumption | (simp (maxDischargeDepth := 16) [*]; done) | simp_all +contextual (maxDischargeDepth := 16)

@[simp] theorem execSsIcunlock_keeps (t : Trig) (s : State)
    (hs : memWf s.mem = true) :
    OutOk (execSsIcunlock t s) := by
  unfold execSsIcunlock
  try dsimp only
  repeat' split
  all_goals first | with_reducible assumption | (simp (maxDischargeDepth := 16) [*]; done) | simp_all +contextual (maxDischargeDepth := 16)

@[simp] theorem beginSave_keeps (s : State) (tid why : Nat)
    (hs : memWf s.mem = true) :
    memWf (beginSave s tid why).mem = true := by
  unfold beginSave
  try dsimp only
  repeat' split
  all_goals first | with_reducible assumption | (simp (maxDischargeDepth := 16) [*]; done) | simp_all +contextual (maxDischargeDepth := 16)

@[simp] theorem execSsCtxsave_keeps (t : Trig) (s : State)
    (hs : memWf s.mem = true) :
    OutOk (execSsCtxsave t s) := by
  unfold execSsCtxsave
  try dsimp only
  repeat' split
  all_goals first | with_reducible assumption | (simp (maxDischargeDepth := 16) [*]; done) | simp_all +contextual (maxDischargeDepth := 16)

@[simp] theorem execSsCtxload_keeps (t : Trig) (s : State)
    (hs : memWf s.mem = true) :
    OutOk (execSsCtxload t s) := by
  refine runTrig_keeps _ _ _ _ _ (fun s c sl k o h => ?_) hs
  dsimp only
  repeat' split
  all_goals simp_all

@[simp] theorem setSsWait_keeps (s : State) (p : Pend)
    (hs : memWf s.mem = true) :
    memWf (setSsWait s p).mem = true := by
  unfold setSsWait
  try dsimp only
  repeat' split
  all_goals first | with_reducible assumption | (simp (maxDischargeDepth := 16) [*]; done) | simp_all +contextual (maxDischargeDepth := 16)

@[simp] theorem fillSs_keeps (s : State) (v : Slice)
    (hs : memWf s.mem = true) :
    memWf (fillSs s v).mem = true := by
  unfold fillSs
  try dsimp only
  repeat' split
  all_goals first | with_reducible assumption | (simp (maxDischargeDepth := 16) [*]; done) | simp_all +contextual (maxDischargeDepth := 16)

@[simp] theorem tlbDrop_keeps (s : State) (p : Nat) (all : Bool) (va : Nat)
    (hs : memWf s.mem = true) :
    memWf (tlbDrop s p all va).mem = true := by
  unfold tlbDrop
  try dsimp only
  repeat' split
  all_goals first | with_reducible assumption | (simp (maxDischargeDepth := 16) [*]; done) | simp_all +contextual (maxDischargeDepth := 16)

@[simp] theorem execTlbinvComplete_keeps (s : State)
    (hs : memWf s.mem = true) :
    OutOk (execTlbinvComplete s) := by
  unfold execTlbinvComplete
  try dsimp only
  repeat' split
  all_goals first | with_reducible assumption | (simp (maxDischargeDepth := 16) [*]; done) | simp_all +contextual (maxDischargeDepth := 16)

@[simp] theorem unpark_keeps (s : State) (id : Nat)
    (hs : memWf s.mem = true) :
    memWf (unpark s id).mem = true := by
  unfold unpark
  try dsimp only
  repeat' split
  all_goals first | with_reducible assumption | (simp (maxDischargeDepth := 16) [*]; done) | simp_all +contextual (maxDischargeDepth := 16)

@[simp] theorem walkAgain_keeps (s : State) (c sl u : Nat) (hand : Bool) (seq : Nat)
    (hs : memWf s.mem = true) :
    memWf (walkAgain s c sl u hand seq).mem = true := by
  unfold walkAgain
  try dsimp only
  repeat' split
  all_goals first | with_reducible assumption | (simp (maxDischargeDepth := 16) [*]; done) | simp_all +contextual (maxDischargeDepth := 16)

@[simp] theorem replayOne_keeps (s : State) (id : Nat)
    (hs : memWf s.mem = true) :
    memWf (replayOne s id).mem = true := by
  unfold replayOne
  try dsimp only
  repeat' split
  all_goals first | with_reducible assumption | (simp (maxDischargeDepth := 16) [*]; done) | simp_all +contextual (maxDischargeDepth := 16)

@[simp] theorem fixS_keeps (s : State) (d p : Nat) (all : Bool) (va : Nat)
    (hs : memWf s.mem = true) :
    memWf (fixS s d p all va).2.2.mem = true := by
  unfold fixS
  try dsimp only
  repeat' split
  all_goals first | with_reducible assumption | (simp (maxDischargeDepth := 16) [*]; done) | simp_all +contextual (maxDischargeDepth := 16)

@[simp] theorem execReplayWalk_keeps (s : State)
    (hs : memWf s.mem = true) :
    OutOk (execReplayWalk s) := by
  have n (t : State) (h : memWf t.mem = true) : OutOk (.next t) := h
  unfold execReplayWalk
  extract_lets c sl
  split
  · split
    · exact n _ (setSsWait_keeps _ _ (fixS_keeps _ _ _ _ _ hs))
    · exact n _ hs
  · exact n _ (replayOne_keeps _ _ (setSsWait_keeps _ _ hs))
  · exact n _ hs
  · split
    · exact n _ hs
    · exact n _ (replayOne_keeps _ _ (by rw [modDie_mem]; exact hs))

@[simp] theorem execReplayComplete_keeps (s : State)
    (hs : memWf s.mem = true) :
    OutOk (execReplayComplete s) := by
  unfold execReplayComplete
  split
  · exact fillSs_keeps _ _ hs
  · exact hs

@[simp] theorem discardLines_keeps (s : State) (from_ p va len c : Nat)
    (hs : memWf s.mem = true) :
    memWf (discardLines s from_ p va len c).mem = true := by
  unfold discardLines
  try dsimp only
  repeat' split
  all_goals first | with_reducible assumption | (simp (maxDischargeDepth := 16) [*]; done) | simp_all +contextual (maxDischargeDepth := 16)

@[simp] theorem execPubComplete_keeps (s : State)
    (hs : memWf s.mem = true) :
    OutOk (execPubComplete s) := by
  unfold execPubComplete
  try dsimp only
  repeat' split
  all_goals first | with_reducible assumption | (simp (maxDischargeDepth := 16) [*]; done) | simp_all +contextual (maxDischargeDepth := 16)

@[simp] theorem lockLine_keeps (s : State) (c p l : Nat)
    (hs : memWf s.mem = true) :
    memWf (lockLine s c p l).mem = true := by
  unfold lockLine
  try dsimp only
  repeat' split
  all_goals first | with_reducible assumption | (simp (maxDischargeDepth := 16) [*]; done) | simp_all +contextual (maxDischargeDepth := 16)

@[simp] theorem lockLines_keeps (s : State) (c p va len : Nat)
    (hs : memWf s.mem = true) :
    memWf (lockLines s c p va len).2.mem = true := by
  unfold lockLines
  try dsimp only
  repeat' split
  all_goals first | with_reducible assumption | (simp (maxDischargeDepth := 16) [*]; done) | simp_all +contextual (maxDischargeDepth := 16)

@[simp] theorem unlockLines_keeps (s : State) (c p va len : Nat)
    (hs : memWf s.mem = true) :
    memWf (unlockLines s c p va len).2.mem = true := by
  unfold unlockLines
  try dsimp only
  repeat' split
  all_goals first | with_reducible assumption | (simp (maxDischargeDepth := 16) [*]; done) | simp_all +contextual (maxDischargeDepth := 16)

end Sys2Proof.Machine
end

