-- ==== Sys2Proof/Laws/KeepCycle.lean ====
section
/-! SUPPORT. Each operation of Machine/Cycle.lean keeps the canonical form of memory. -/

namespace Sys2Proof.Machine

@[simp] theorem execBundleIssue_keeps (s : State)
    (hs : memWf s.mem = true) :
    OutOk (execBundleIssue s) := by
  unfold execBundleIssue
  try dsimp only
  repeat' split
  all_goals first | with_reducible assumption | (simp (maxDischargeDepth := 16) [*]; done) | simp_all +contextual (maxDischargeDepth := 16)

@[simp] theorem execFixedLatencyResultWrite_keeps (s : State)
    (hs : memWf s.mem = true) :
    OutOk (execFixedLatencyResultWrite s) := by
  unfold execFixedLatencyResultWrite
  try dsimp only
  repeat' split
  all_goals first | with_reducible assumption | (simp (maxDischargeDepth := 16) [*]; done) | simp_all +contextual (maxDischargeDepth := 16)

@[simp] theorem ctxload_keeps (s : State) (c sl va : Nat)
    (hs : memWf s.mem = true) :
    memWf (ctxload s c sl va).2.mem = true := by
  have hq := fun d p rcd len im => queueImage_keeps s d p rcd len im hs
  unfold ctxload
  cases imagePlace s c sl va with
  | error e => exact hs
  | ok pa =>
    dsimp only
    by_cases h1 : headerBad s c pa = true
    · rw [if_pos h1]; exact hs
    rw [if_neg h1]
    by_cases h2 : devRead s (dieOf c) (group s c sl).part (physRead s (some c) (pa + 16) 8 % 2 ^ 52 + 19) 1 ≠
        some (group s c sl).part
    · rw [if_pos h2]; exact hs
    · rw [if_neg h2]
      dsimp only
      exact hq _ _ _ _ _

@[simp] theorem execResultEntryFill_keeps (s : State)
    (hs : memWf s.mem = true) :
    OutOk (execResultEntryFill s) := by
  unfold execResultEntryFill
  try dsimp only
  repeat' split
  all_goals first | with_reducible assumption | (simp (maxDischargeDepth := 16) [*]; done) | simp_all +contextual (maxDischargeDepth := 16)

@[simp] theorem execWatermarkRelease_keeps (s : State)
    (hs : memWf s.mem = true) :
    OutOk (execWatermarkRelease s) := by
  unfold execWatermarkRelease
  try dsimp only
  repeat' split
  all_goals first | with_reducible assumption | (simp (maxDischargeDepth := 16) [*]; done) | simp_all +contextual (maxDischargeDepth := 16)

@[simp] theorem execHiddenWriteReveal_keeps (s : State)
    (hs : memWf s.mem = true) :
    OutOk (execHiddenWriteReveal s) := by
  unfold execHiddenWriteReveal
  try dsimp only
  repeat' split
  all_goals first | with_reducible assumption | (simp (maxDischargeDepth := 16) [*]; done) | simp_all +contextual (maxDischargeDepth := 16)

@[simp] theorem deliverLine_keeps (s : State) (c sl n line l : Nat) (t : TlbEntry) (d : BitVec 512)
    (hs : memWf s.mem = true) :
    memWf (deliverLine s c sl n line l t d).mem = true := by
  unfold deliverLine
  try dsimp only
  repeat' split
  all_goals first | with_reducible assumption | (simp (maxDischargeDepth := 16) [*]; done) | simp_all +contextual (maxDischargeDepth := 16)

@[simp] theorem execInstructionFetchFill_keeps (s : State)
    (hs : memWf s.mem = true) :
    OutOk (execInstructionFetchFill s) := by
  unfold execInstructionFetchFill
  try dsimp only
  repeat' split
  all_goals first | with_reducible assumption | (simp (maxDischargeDepth := 16) [*]; done) | simp_all +contextual (maxDischargeDepth := 16)

@[simp] theorem execYieldExpiry_keeps (s : State)
    (hs : memWf s.mem = true) :
    OutOk (execYieldExpiry s) := by
  unfold execYieldExpiry
  try dsimp only
  repeat' split
  all_goals first | with_reducible assumption | (simp (maxDischargeDepth := 16) [*]; done) | simp_all +contextual (maxDischargeDepth := 16)

@[simp] theorem unpush_keeps (s : State) (c sl u : Nat) (a : Access)
    (hs : memWf s.mem = true) :
    memWf (unpush s c sl u a).mem = true := by
  unfold unpush
  try dsimp only
  repeat' split
  all_goals first | with_reducible assumption | (simp (maxDischargeDepth := 16) [*]; done) | simp_all +contextual (maxDischargeDepth := 16)

@[simp] theorem walkDone_keeps (s : State) (w : Walk) (a : Access)
    (hs : memWf s.mem = true) :
    memWf (walkDone s w a).mem = true := by
  unfold walkDone
  try dsimp only
  repeat' split
  all_goals first | with_reducible assumption | (simp (maxDischargeDepth := 16) [*]; done) | simp_all +contextual (maxDischargeDepth := 16)

@[simp] theorem execPageWalkComplete_keeps (s : State)
    (hs : memWf s.mem = true) :
    OutOk (execPageWalkComplete s) := by
  unfold execPageWalkComplete
  try dsimp only
  repeat' split
  all_goals first | with_reducible assumption | (simp (maxDischargeDepth := 16) [*]; done) | simp_all +contextual (maxDischargeDepth := 16)

@[simp] theorem execFaultBufferDelivery_keeps (s : State)
    (hs : memWf s.mem = true) :
    OutOk (execFaultBufferDelivery s) := by
  unfold execFaultBufferDelivery
  try dsimp only
  repeat' split
  all_goals first | with_reducible assumption | (simp (maxDischargeDepth := 16) [*]; done) | simp_all +contextual (maxDischargeDepth := 16)

@[simp] theorem execDeferredTrapEntry_keeps (s : State)
    (hs : memWf s.mem = true) :
    OutOk (execDeferredTrapEntry s) := by
  unfold execDeferredTrapEntry
  try dsimp only
  repeat' split
  all_goals first | with_reducible assumption | (simp (maxDischargeDepth := 16) [*]; done) | simp_all +contextual (maxDischargeDepth := 16)

@[simp] theorem execUncorrectableError_keeps (s : State)
    (hs : memWf s.mem = true) :
    OutOk (execUncorrectableError s) := by
  unfold execUncorrectableError
  try dsimp only
  repeat' split
  all_goals first | with_reducible assumption | (simp (maxDischargeDepth := 16) [*]; done) | simp_all +contextual (maxDischargeDepth := 16)

@[simp] theorem startCycle_keeps (s : State) (c : Nat)
    (hs : memWf s.mem = true) :
    memWf (startCycle s c).mem = true := by
  unfold startCycle
  try dsimp only
  repeat' split
  all_goals first | with_reducible assumption | (simp (maxDischargeDepth := 16) [*]; done) | simp_all +contextual (maxDischargeDepth := 16)

@[simp] theorem execCoreCycle_keeps (s : State)
    (hs : memWf s.mem = true) :
    OutOk (execCoreCycle s) := by
  unfold execCoreCycle
  try dsimp only
  repeat' split
  all_goals first | with_reducible assumption | (simp (maxDischargeDepth := 16) [*]; done) | simp_all +contextual (maxDischargeDepth := 16)

end Sys2Proof.Machine
end

