-- ==== Sys2Proof/Laws/KeepSched.lean ====
section
/-! SUPPORT. Each operation of Machine/Sched.lean keeps the canonical form of memory. -/

namespace Sys2Proof.Machine

@[simp] theorem postEnded_keeps (s : State) (d p rcd : Nat)
    (hs : memWf s.mem = true) :
    memWf (postEnded s d p rcd).mem = true := by
  unfold postEnded
  try dsimp only
  repeat' split
  all_goals first | with_reducible assumption | (simp (maxDischargeDepth := 16) [*]; done) | simp_all +contextual (maxDischargeDepth := 16)

@[simp] theorem noteFreed_keeps (s : State) (c : Nat) (f : Freed)
    (hs : memWf s.mem = true) :
    memWf (noteFreed s c f).mem = true := by
  unfold noteFreed
  try dsimp only
  repeat' split
  all_goals first | with_reducible assumption | (simp (maxDischargeDepth := 16) [*]; done) | simp_all +contextual (maxDischargeDepth := 16)

@[simp] theorem releaseLocks_keeps (s : State) (c p : Nat)
    (hs : memWf s.mem = true) :
    memWf (releaseLocks s c p).mem = true := by
  unfold releaseLocks
  try dsimp only
  repeat' split
  all_goals first | with_reducible assumption | (simp (maxDischargeDepth := 16) [*]; done) | simp_all +contextual (maxDischargeDepth := 16)

@[simp] theorem releaseBanks_keeps (s : State) (c tid : Nat)
    (hs : memWf s.mem = true) :
    memWf (releaseBanks s c tid).mem = true := by
  unfold releaseBanks
  try dsimp only
  repeat' split
  all_goals first | with_reducible assumption | (simp (maxDischargeDepth := 16) [*]; done) | simp_all +contextual (maxDischargeDepth := 16)

@[simp] theorem freeCluster_keeps (s : State) (key cid : Nat)
    (hs : memWf s.mem = true) :
    memWf (freeCluster s key cid).mem = true := by
  unfold freeCluster
  try dsimp only
  repeat' split
  all_goals first | with_reducible assumption | (simp (maxDischargeDepth := 16) [*]; done) | simp_all +contextual (maxDischargeDepth := 16)

@[simp] theorem endGrid_keeps (s : State) (key c : Nat)
    (hs : memWf s.mem = true) :
    memWf (endGrid s key c).mem = true := by
  unfold endGrid
  try dsimp only
  repeat' split
  all_goals first | with_reducible assumption | (simp (maxDischargeDepth := 16) [*]; done) | simp_all +contextual (maxDischargeDepth := 16)

@[simp] theorem retireTeam_keeps (s : State) (tid : Nat)
    (hs : memWf s.mem = true) :
    memWf (retireTeam s tid).mem = true := by
  unfold retireTeam
  try dsimp only
  repeat' split
  all_goals first | with_reducible assumption | (simp (maxDischargeDepth := 16) [*]; done) | simp_all +contextual (maxDischargeDepth := 16)

@[simp] theorem execGroupSlotFree_keeps (s : State)
    (hs : memWf s.mem = true) :
    OutOk (execGroupSlotFree s) := by
  unfold execGroupSlotFree
  try dsimp only
  repeat' split
  all_goals first | with_reducible assumption | (simp (maxDischargeDepth := 16) [*]; done) | simp_all +contextual (maxDischargeDepth := 16)

@[simp] theorem execGridCompletion_keeps (s : State)
    (hs : memWf s.mem = true) :
    OutOk (execGridCompletion s) := by
  unfold execGridCompletion
  try dsimp only
  repeat' split
  all_goals first | with_reducible assumption | (simp (maxDischargeDepth := 16) [*]; done) | simp_all +contextual (maxDischargeDepth := 16)

@[simp] theorem forgive_keeps (s : State) (a n : Nat)
    (hs : memWf s.mem = true) :
    memWf (forgive s a n).mem = true := by
  unfold forgive
  try dsimp only
  repeat' split
  all_goals first | with_reducible assumption | (simp (maxDischargeDepth := 16) [*]; done) | simp_all +contextual (maxDischargeDepth := 16)

@[simp] theorem clearRange_keeps (s : State) (a n : Nat)
    (hs : memWf s.mem = true) :
    memWf (clearRange s a n).mem = true := by
  unfold clearRange
  try dsimp only
  repeat' split
  all_goals first | with_reducible assumption | (simp (maxDischargeDepth := 16) [*]; done) | simp_all +contextual (maxDischargeDepth := 16)

@[simp] theorem clearTeam_keeps (s : State) (t : Team)
    (hs : memWf s.mem = true) :
    memWf (clearTeam s t).mem = true := by
  unfold clearTeam
  try dsimp only
  repeat' split
  all_goals first | with_reducible assumption | (simp (maxDischargeDepth := 16) [*]; done) | simp_all +contextual (maxDischargeDepth := 16)

@[simp] theorem seatTeam_keeps (s : State) (tid c : Nat) (t : Team) (gs : List (Nat × Group))
    (hs : memWf s.mem = true) :
    memWf (seatTeam s tid c t gs).mem = true := by
  unfold seatTeam
  try dsimp only
  repeat' split
  all_goals first | with_reducible assumption | (simp (maxDischargeDepth := 16) [*]; done) | simp_all +contextual (maxDischargeDepth := 16)

@[simp] theorem placeTeam_keeps (s : State) (key : Nat) (lr : LaunchRec) (cid i : Nat) (c : Nat) (a : Alloc)
    (hs : memWf s.mem = true) :
    memWf (placeTeam s key lr cid i c a).mem = true := by
  unfold placeTeam
  try dsimp only
  repeat' split
  all_goals first | with_reducible assumption | (simp (maxDischargeDepth := 16) [*]; done) | simp_all +contextual (maxDischargeDepth := 16)

@[simp] theorem placeCluster_keeps (s : State) (key : Nat) (lr : LaunchRec) (cid : Nat) (l : List (Nat × Alloc))
    (hs : memWf s.mem = true) :
    memWf (placeCluster s key lr cid l).mem = true := by
  unfold placeCluster
  try dsimp only
  repeat' split
  all_goals first | with_reducible assumption | (simp (maxDischargeDepth := 16) [*]; done) | simp_all +contextual (maxDischargeDepth := 16)

@[simp] theorem startPlacing_keeps (s : State) (d : Nat) (r : Ready) (lr : LaunchRec)
    (hs : memWf s.mem = true) :
    memWf (startPlacing s d r lr).mem = true := by
  unfold startPlacing
  try dsimp only
  repeat' split
  all_goals first | with_reducible assumption | (simp (maxDischargeDepth := 16) [*]; done) | simp_all +contextual (maxDischargeDepth := 16)

@[simp] theorem addSkein_keeps (s : State) (d : Nat) (r : Ready) (lr : LaunchRec)
    (hs : memWf s.mem = true) :
    memWf (addSkein s d r lr).mem = true := by
  unfold addSkein
  try dsimp only
  repeat' split
  all_goals first | with_reducible assumption | (simp (maxDischargeDepth := 16) [*]; done) | simp_all +contextual (maxDischargeDepth := 16)

@[simp] theorem resumeGrid_keeps (s : State) (d : Nat) (r : Ready)
    (hs : memWf s.mem = true) :
    memWf (resumeGrid s d r).mem = true := by
  unfold resumeGrid
  try dsimp only
  repeat' split
  all_goals first | with_reducible assumption | (simp (maxDischargeDepth := 16) [*]; done) | simp_all +contextual (maxDischargeDepth := 16)

@[simp] theorem launch_keeps (s : State) (d : Nat) (r : Ready)
    (hs : memWf s.mem = true) :
    memWf (launch s d r).mem = true := by
  unfold launch
  try dsimp only
  repeat' split
  all_goals first | with_reducible assumption | (simp (maxDischargeDepth := 16) [*]; done) | simp_all +contextual (maxDischargeDepth := 16)

@[simp] theorem popHeadRecord_keeps (s : State) (c : Nat)
    (hs : memWf s.mem = true) :
    memWf (popHeadRecord s c).mem = true := by
  unfold popHeadRecord
  try dsimp only
  repeat' split
  all_goals first | with_reducible assumption | (simp (maxDischargeDepth := 16) [*]; done) | simp_all +contextual (maxDischargeDepth := 16)

@[simp] theorem takeReady_keeps (s : State) (d : Nat) (r : Ready)
    (hs : memWf s.mem = true) :
    memWf (takeReady s d r).mem = true := by
  unfold takeReady
  try dsimp only
  repeat' split
  all_goals first | with_reducible assumption | (simp (maxDischargeDepth := 16) [*]; done) | simp_all +contextual (maxDischargeDepth := 16)

@[simp] theorem execDispatcherTake_keeps (s : State)
    (hs : memWf s.mem = true) :
    OutOk (execDispatcherTake s) := by
  unfold execDispatcherTake
  try dsimp only
  repeat' split
  all_goals first | with_reducible assumption | (simp (maxDischargeDepth := 16) [*]; done) | simp_all +contextual (maxDischargeDepth := 16)

end Sys2Proof.Machine
end

