-- ==== Sys2Proof/Laws/KeepSave.lean ====
section
/-! SUPPORT. Each operation of Machine/Save.lean keeps the canonical form of memory. -/

namespace Sys2Proof.Machine

theorem placeImages_keeps {ts : List (Nat × Team)} {s t : State} (h : placeImages s ts = some t)
    (hs : memWf s.mem = true) : memWf t.mem = true := by
  have key : ∀ (ts : List (Nat × Team)) (o : Option State), (∀ x, o = some x → memWf x.mem = true) →
      ∀ x, ts.foldl (fun o p => o.bind (fun s => (areaPlace s p.2.part (imageLen (openLens s) p.2)).map (fun x =>
        { modTeam s p.1 (fun t => { t with saveAt := some x, saveLens := openLens s }) with fresh := s.fresh + 1 }))) o = some x →
      memWf x.mem = true := by
    intro ts
    induction ts with
    | nil => exact fun _ h => h
    | cons p rest ih =>
      intro o ho
      refine ih _ (fun x hx => ?_)
      obtain ⟨s, h1, h2⟩ := Option.bind_eq_some_iff.1 hx
      obtain ⟨a, -, rfl⟩ := Option.map_eq_some_iff.1 h2
      exact ho s h1
  refine key ts (some s) (fun x hx => ?_) t h
  rw [← Option.some.inj hx]
  exact hs

@[simp] theorem requestSave_keeps (s : State) (tid why : Nat) (told : Bool)
    (hs : memWf s.mem = true) :
    memWf (requestSave s tid why told).mem = true := by
  unfold requestSave
  try dsimp only
  repeat' split
  all_goals first
    | with_reducible assumption
    | (rename_i h; exact beginSave_keeps _ _ _ (placeImages_keeps h hs))
    | simp_all +contextual (maxDischargeDepth := 16)

@[simp] theorem retrySaves_keeps (s : State) (p : Nat)
    (hs : memWf s.mem = true) :
    memWf (retrySaves s p).mem = true := by
  unfold retrySaves
  try dsimp only
  repeat' split
  all_goals first | with_reducible assumption | (simp (maxDischargeDepth := 16) [*]; done) | simp_all +contextual (maxDischargeDepth := 16)

@[simp] theorem execSwapOut_keeps (s : State)
    (hs : memWf s.mem = true) :
    OutOk (execSwapOut s) := by
  unfold execSwapOut
  try dsimp only
  repeat' split
  all_goals first | with_reducible assumption | (simp (maxDischargeDepth := 16) [*]; done) | simp_all +contextual (maxDischargeDepth := 16)

@[simp] theorem execTimeSliceExpiry_keeps (s : State)
    (hs : memWf s.mem = true) :
    OutOk (execTimeSliceExpiry s) := by
  unfold execTimeSliceExpiry
  try dsimp only
  repeat' split
  all_goals first | with_reducible assumption | (simp (maxDischargeDepth := 16) [*]; done) | simp_all +contextual (maxDischargeDepth := 16)

@[simp] theorem writeImage_keeps (s : State) (im : Image)
    (hs : memWf s.mem = true) :
    memWf (writeImage s im).mem = true := by
  unfold writeImage
  try dsimp only
  repeat' split
  all_goals first | with_reducible assumption | (simp (maxDischargeDepth := 16) [*]; done) | simp_all +contextual (maxDischargeDepth := 16)

@[simp] theorem unparkTeam_keeps (s : State) (tid : Nat) (t : Team)
    (hs : memWf s.mem = true) :
    memWf (unparkTeam s tid t).mem = true := by
  unfold unparkTeam
  try dsimp only
  repeat' split
  all_goals first | with_reducible assumption | (simp (maxDischargeDepth := 16) [*]; done) | simp_all +contextual (maxDischargeDepth := 16)

@[simp] theorem saveTeam_keeps (s : State) (tid : Nat)
    (hs : memWf s.mem = true) :
    memWf (saveTeam s tid).mem = true := by
  unfold saveTeam
  try dsimp only
  repeat' split
  all_goals first | with_reducible assumption | (simp (maxDischargeDepth := 16) [*]; done) | simp_all +contextual (maxDischargeDepth := 16)

@[simp] theorem execTeamSave_keeps (s : State)
    (hs : memWf s.mem = true) :
    OutOk (execTeamSave s) := by
  unfold execTeamSave
  try dsimp only
  repeat' split
  all_goals first | with_reducible assumption | (simp (maxDischargeDepth := 16) [*]; done) | simp_all +contextual (maxDischargeDepth := 16)

@[simp] theorem releaseHeld_keeps (s : State) (c sl u : Nat) (hand : Bool) (seq : Nat)
    (hs : memWf s.mem = true) :
    memWf (releaseHeld s c sl u hand seq).mem = true := by
  unfold releaseHeld
  try dsimp only
  repeat' split
  all_goals first | with_reducible assumption | (simp (maxDischargeDepth := 16) [*]; done) | simp_all +contextual (maxDischargeDepth := 16)

@[simp] theorem fillWait_keeps (s : State) (c sl i : Nat)
    (hs : memWf s.mem = true) :
    memWf (fillWait s c sl i).mem = true := by
  unfold fillWait
  try dsimp only
  repeat' split
  all_goals first | with_reducible assumption | (simp (maxDischargeDepth := 16) [*]; done) | simp_all +contextual (maxDischargeDepth := 16)

@[simp] theorem seatImage_keeps (s : State) (im : Image) (c : Nat) (a : Alloc)
    (hs : memWf s.mem = true) :
    memWf (seatImage s im c a).mem = true := by
  unfold seatImage
  extract_lets
  rw [modCore_mem]
  refine foldl_keeps _ _ _ (fun s b h => ?_) ?_
  · exact showSpan_keeps _ _ _ _ (setBank_keeps _ _ _ _ h)
  · rw [modCore_mem]
    refine foldPuts_wf _ _ _ ?_
    rw [modCore_mem]
    exact seatTeam_keeps _ _ _ _ _ hs

@[simp] theorem rekeyChans_keeps (s : State) (im : Image) (c : Nat) (a : Alloc)
    (hs : memWf s.mem = true) :
    memWf (rekeyChans s im c a).mem = true := by
  unfold rekeyChans
  extract_lets
  refine foldl_keeps _ _ _ (fun s q h => ?_) ?_
  · repeat' split
    all_goals exact h
  · rw [modCore_mem]
    refine foldl_keeps _ _ _ (fun s q h => h) hs

@[simp] theorem wakeImage_keeps (s : State) (im : Image) (c : Nat) (a : Alloc)
    (hs : memWf s.mem = true) :
    memWf (wakeImage s im c a).mem = true := by
  unfold wakeImage
  extract_lets gs s1 s2 s3 s4 s5 late s6
  have h1 : memWf s1.mem = true :=
    foldl_keeps _ _ _ (fun s p h => foldl_keeps _ _ _ (fun s x h => walkAgain_keeps _ _ _ _ _ _ (releaseHeld_keeps _ _ _ _ _ _ h)) h) hs
  have h2 : memWf s2.mem = true := by
    refine foldl_keeps _ _ _ (fun s o h => ?_) h1
    repeat' split
    all_goals first | exact h | exact walkAgain_keeps _ _ _ _ _ _ h
  have h3 : memWf s3.mem = true := foldl_keeps _ _ _ (fun s p h => h) h2
  have h4 : memWf s4.mem = true := foldl_keeps _ _ _ (fun s p h => foldl_keeps _ _ _ (fun s i h => fillWait_keeps _ _ _ _ h) h) h3
  have h5 : memWf s5.mem = true := by
    unfold s5
    split
    · exact foldl_keeps _ _ _ (fun s p h => postLate_keeps _ _ _ _ h) h4
    · exact h4
  clear_value s5
  split
  · exact beginSave_keeps _ _ _ h5
  · exact h5

@[simp] theorem restoreTeams_keeps (s : State) (l : List (Image × Nat × Alloc))
    (hs : memWf s.mem = true) :
    memWf (restoreTeams s l).mem = true := by
  unfold restoreTeams
  try dsimp only
  repeat' split
  all_goals first | with_reducible assumption | (simp (maxDischargeDepth := 16) [*]; done) | simp_all +contextual (maxDischargeDepth := 16)

@[simp] theorem refuseImages_keeps (s : State) (d : Nat)
    (hs : memWf s.mem = true) :
    memWf (refuseImages s d).mem = true := by
  unfold refuseImages
  refine foldl_keeps _ _ _ (fun s tid h => ?_) hs
  split
  · split
    · exact postEvent_keeps _ _ _ _ _ h
    · exact h
  · exact h

@[simp] theorem execTeamRestore_keeps (s : State)
    (hs : memWf s.mem = true) :
    OutOk (execTeamRestore s) := by
  unfold execTeamRestore
  try dsimp only
  repeat' split
  all_goals first | with_reducible assumption | (simp (maxDischargeDepth := 16) [*]; done) | simp_all +contextual (maxDischargeDepth := 16)

@[simp] theorem execSwappedParentWake_keeps (s : State)
    (hs : memWf s.mem = true) :
    OutOk (execSwappedParentWake s) := by
  unfold execSwappedParentWake
  try dsimp only
  repeat' split
  all_goals first | with_reducible assumption | (simp (maxDischargeDepth := 16) [*]; done) | simp_all +contextual (maxDischargeDepth := 16)

@[simp] theorem setPlacing_keeps (s : State) (d : Nat) (f : Placing → Placing)
    (hs : memWf s.mem = true) :
    memWf (setPlacing s d f).mem = true := by
  unfold setPlacing
  try dsimp only
  repeat' split
  all_goals first | with_reducible assumption | (simp (maxDischargeDepth := 16) [*]; done) | simp_all +contextual (maxDischargeDepth := 16)

@[simp] theorem placed_keeps (s : State) (d key : Nat) (lr : LaunchRec) (l : List (Nat × Alloc))
    (hs : memWf s.mem = true) :
    memWf (placed s d key lr l).mem = true := by
  unfold placed
  try dsimp only
  repeat' split
  all_goals first | with_reducible assumption | (simp (maxDischargeDepth := 16) [*]; done) | simp_all +contextual (maxDischargeDepth := 16)

@[simp] theorem startWait_keeps (s : State) (d : Nat) (lr : LaunchRec) (os : List Nat)
    (hs : memWf s.mem = true) :
    memWf (startWait s d lr os).mem = true := by
  unfold startWait
  try dsimp only
  repeat' split
  all_goals first | with_reducible assumption | (simp (maxDischargeDepth := 16) [*]; done) | simp_all +contextual (maxDischargeDepth := 16)

@[simp] theorem execTeamPlacement_keeps (s : State)
    (hs : memWf s.mem = true) :
    OutOk (execTeamPlacement s) := by
  unfold execTeamPlacement
  try dsimp only
  repeat' split
  all_goals first | with_reducible assumption | (simp (maxDischargeDepth := 16) [*]; done) | simp_all +contextual (maxDischargeDepth := 16)

@[simp] theorem execFragmentationWaitExpiry_keeps (s : State)
    (hs : memWf s.mem = true) :
    OutOk (execFragmentationWaitExpiry s) := by
  unfold execFragmentationWaitExpiry
  try dsimp only
  repeat' split
  all_goals first | with_reducible assumption | (simp (maxDischargeDepth := 16) [*]; done) | simp_all +contextual (maxDischargeDepth := 16)

end Sys2Proof.Machine
end

