-- ==== Sys2Proof/Laws/KeepHostIf.lean ====
section
/-! SUPPORT. Each operation of Machine/HostIf.lean keeps the canonical form of memory. -/

namespace Sys2Proof.Machine

@[simp] theorem holdRequest_keeps (s : State) (i : Instr)
    (hs : memWf s.mem = true) :
    memWf (holdRequest s i).mem = true := by
  unfold holdRequest
  try dsimp only
  repeat' split
  all_goals first | with_reducible assumption | (simp (maxDischargeDepth := 16) [*]; done) | simp_all +contextual (maxDischargeDepth := 16)

@[simp] theorem modHcq_keeps (s : State) (p q : Nat) (f : Hcq → Hcq)
    (hs : memWf s.mem = true) :
    memWf (modHcq s p q f).mem = true := by
  unfold modHcq
  try dsimp only
  repeat' split
  all_goals first | with_reducible assumption | (simp (maxDischargeDepth := 16) [*]; done) | simp_all +contextual (maxDischargeDepth := 16)

@[simp] theorem execHcqDoorbell_keeps (s : State)
    (hs : memWf s.mem = true) :
    OutOk (execHcqDoorbell s) := by
  unfold execHcqDoorbell
  try dsimp only
  repeat' split
  all_goals first | with_reducible assumption | (simp (maxDischargeDepth := 16) [*]; done) | simp_all +contextual (maxDischargeDepth := 16)

@[simp] theorem execRingCiWrite_keeps (s : State)
    (hs : memWf s.mem = true) :
    OutOk (execRingCiWrite s) := by
  unfold execRingCiWrite
  try dsimp only
  repeat' split
  all_goals first | with_reducible assumption | (simp (maxDischargeDepth := 16) [*]; done) | simp_all +contextual (maxDischargeDepth := 16)

@[simp] theorem queueReady_keeps (s : State) (d : Nat) (r : Ready)
    (hs : memWf s.mem = true) :
    memWf (queueReady s d r).mem = true := by
  unfold queueReady
  try dsimp only
  repeat' split
  all_goals first | with_reducible assumption | (simp (maxDischargeDepth := 16) [*]; done) | simp_all +contextual (maxDischargeDepth := 16)

@[simp] theorem takeCommand_keeps (s : State) (p q : Nat)
    (hs : memWf s.mem = true) :
    memWf (takeCommand s p q).mem = true := by
  unfold takeCommand
  try dsimp only
  repeat' split
  all_goals first | with_reducible assumption | (simp (maxDischargeDepth := 16) [*]; done) | simp_all +contextual (maxDischargeDepth := 16)

@[simp] theorem runCommand_keeps (s : State) (ok : Nat → Bool) (f : State → Nat → Nat → Nat → State)
    (hf : ∀ (x0 : State) (x1 : Nat) (x2 : Nat) (x3 : Nat), memWf x0.mem = true → memWf (f x0 x1 x2 x3).mem = true) (hs : memWf s.mem = true) :
    OutOk (runCommand s ok f) := by
  unfold runCommand
  try dsimp only
  repeat' split
  all_goals first | with_reducible assumption | (simp (maxDischargeDepth := 16) [*]; done) | simp_all +contextual (maxDischargeDepth := 16)

@[simp] theorem execNop_keeps (s : State)
    (hs : memWf s.mem = true) :
    OutOk (execNop s) := by
  unfold execNop
  try dsimp only
  repeat' split
  all_goals first | with_reducible assumption | (simp (maxDischargeDepth := 16) [*]; done) | simp_all +contextual (maxDischargeDepth := 16)

@[simp] theorem execLaunch_keeps (s : State)
    (hs : memWf s.mem = true) :
    OutOk (execLaunch s) := by
  unfold execLaunch
  try dsimp only
  repeat' split
  all_goals first | with_reducible assumption | (simp (maxDischargeDepth := 16) [*]; done) | simp_all +contextual (maxDischargeDepth := 16)

@[simp] theorem execWaitctr_keeps (s : State)
    (hs : memWf s.mem = true) :
    OutOk (execWaitctr s) := by
  unfold execWaitctr
  try dsimp only
  repeat' split
  all_goals first | with_reducible assumption | (simp (maxDischargeDepth := 16) [*]; done) | simp_all +contextual (maxDischargeDepth := 16)

@[simp] theorem execSignal_keeps (s : State)
    (hs : memWf s.mem = true) :
    OutOk (execSignal s) := by
  unfold execSignal
  dsimp only
  refine runCommand_keeps _ _ _ (fun s p q w h => ?_) hs
  split
  · rename_i hd
    exact devAdd_keeps hd h
  · exact postEvent_keeps _ _ _ _ _ h

@[simp] theorem suspendGrid_keeps (s : State) (d p rcd : Nat)
    (hs : memWf s.mem = true) :
    memWf (suspendGrid s d p rcd).mem = true := by
  unfold suspendGrid
  try dsimp only
  repeat' split
  all_goals first | with_reducible assumption | (simp (maxDischargeDepth := 16) [*]; done) | simp_all +contextual (maxDischargeDepth := 16)

@[simp] theorem preemptGrid_keeps (s : State) (d p rcd : Nat)
    (hs : memWf s.mem = true) :
    memWf (preemptGrid s d p rcd).mem = true := by
  unfold preemptGrid
  try dsimp only
  repeat' split
  all_goals first | with_reducible assumption | (simp (maxDischargeDepth := 16) [*]; done) | simp_all +contextual (maxDischargeDepth := 16)

@[simp] theorem execPreempt_keeps (s : State)
    (hs : memWf s.mem = true) :
    OutOk (execPreempt s) := by
  unfold execPreempt
  try dsimp only
  repeat' split
  all_goals first | with_reducible assumption | (simp (maxDischargeDepth := 16) [*]; done) | simp_all +contextual (maxDischargeDepth := 16)

@[simp] theorem execCommandQueueResume_keeps (s : State)
    (hs : memWf s.mem = true) :
    OutOk (execCommandQueueResume s) := by
  unfold execCommandQueueResume
  try dsimp only
  repeat' split
  all_goals first | with_reducible assumption | (simp (maxDischargeDepth := 16) [*]; done) | simp_all +contextual (maxDischargeDepth := 16)

@[simp] theorem execBar2Access_keeps (s : State)
    (hs : memWf s.mem = true) :
    OutOk (execBar2Access s) := by
  unfold execBar2Access
  try dsimp only
  repeat' split
  all_goals first | with_reducible assumption | (simp (maxDischargeDepth := 16) [*]; done) | simp_all +contextual (maxDischargeDepth := 16)

@[simp] theorem outsideAtomic_keeps (s : State) (via a n op : Nat) (sg : Bool) (x cmp : Nat)
    (hs : memWf s.mem = true) :
    memWf (outsideAtomic s via a n op sg x cmp).1.mem = true := by
  unfold outsideAtomic
  try dsimp only
  repeat' split
  all_goals first | with_reducible assumption | (simp (maxDischargeDepth := 16) [*]; done) | simp_all +contextual (maxDischargeDepth := 16)

@[simp] theorem execBar2Atomicop_keeps (s : State)
    (hs : memWf s.mem = true) :
    OutOk (execBar2Atomicop s) := by
  unfold execBar2Atomicop
  try dsimp only
  repeat' split
  all_goals first | with_reducible assumption | (simp (maxDischargeDepth := 16) [*]; done) | simp_all +contextual (maxDischargeDepth := 16)

@[simp] theorem modRing_keeps (s : State) (key : Nat) (f : DevRing → DevRing)
    (hs : memWf s.mem = true) :
    memWf (modRing s key f).mem = true := by
  unfold modRing
  try dsimp only
  repeat' split
  all_goals first | with_reducible assumption | (simp (maxDischargeDepth := 16) [*]; done) | simp_all +contextual (maxDischargeDepth := 16)

@[simp] theorem registerWrite_keeps (s : State) (reg i j v : Nat)
    (hs : memWf s.mem = true) :
    memWf (registerWrite s reg i j v).mem = true := by
  unfold registerWrite
  try dsimp only
  repeat' split
  all_goals first | with_reducible assumption | (simp (maxDischargeDepth := 16) [*]; done) | simp_all +contextual (maxDischargeDepth := 16)

@[simp] theorem execRegisterWrite_keeps (s : State)
    (hs : memWf s.mem = true) :
    OutOk (execRegisterWrite s) := by
  unfold execRegisterWrite
  try dsimp only
  repeat' split
  all_goals first | with_reducible assumption | (simp (maxDischargeDepth := 16) [*]; done) | simp_all +contextual (maxDischargeDepth := 16)

@[simp] theorem mrExtend_keeps (s : State) (i : Nat) (d : BitVec 384)
    (hs : memWf s.mem = true) :
    memWf (mrExtend s i d).mem = true := by
  unfold mrExtend
  try dsimp only
  repeat' split
  all_goals first | with_reducible assumption | (simp (maxDischargeDepth := 16) [*]; done) | simp_all +contextual (maxDischargeDepth := 16)

@[simp] theorem mrChange_keeps (s : State) (i : Nat)
    (hs : memWf s.mem = true) :
    memWf (mrChange s i).mem = true := by
  unfold mrChange
  try dsimp only
  repeat' split
  all_goals first | with_reducible assumption | (simp (maxDischargeDepth := 16) [*]; done) | simp_all +contextual (maxDischargeDepth := 16)

@[simp] theorem quotaChanged_keeps (s : State) (p : Nat)
    (hs : memWf s.mem = true) :
    memWf (quotaChanged s p).mem = true := by
  unfold quotaChanged
  try dsimp only
  repeat' split
  all_goals first | with_reducible assumption | (simp (maxDischargeDepth := 16) [*]; done) | simp_all +contextual (maxDischargeDepth := 16)

@[simp] theorem execPartitionQuotaWrite_keeps (s : State)
    (hs : memWf s.mem = true) :
    OutOk (execPartitionQuotaWrite s) := by
  unfold execPartitionQuotaWrite
  try dsimp only
  repeat' split
  all_goals first | with_reducible assumption | (simp (maxDischargeDepth := 16) [*]; done) | simp_all +contextual (maxDischargeDepth := 16)

@[simp] theorem execPtrootWrite_keeps (s : State)
    (hs : memWf s.mem = true) :
    OutOk (execPtrootWrite s) := by
  unfold execPtrootWrite
  try dsimp only
  repeat' split
  all_goals first | with_reducible assumption | (simp (maxDischargeDepth := 16) [*]; done) | simp_all +contextual (maxDischargeDepth := 16)

@[simp] theorem execTvecSavebaseWrite_keeps (s : State)
    (hs : memWf s.mem = true) :
    OutOk (execTvecSavebaseWrite s) := by
  unfold execTvecSavebaseWrite
  try dsimp only
  repeat' split
  all_goals first | with_reducible assumption | (simp (maxDischargeDepth := 16) [*]; done) | simp_all +contextual (maxDischargeDepth := 16)

@[simp] theorem execPferrClear_keeps (s : State)
    (hs : memWf s.mem = true) :
    OutOk (execPferrClear s) := by
  unfold execPferrClear
  try dsimp only
  repeat' split
  all_goals first | with_reducible assumption | (simp (maxDischargeDepth := 16) [*]; done) | simp_all +contextual (maxDischargeDepth := 16)

@[simp] theorem execPmselWrite_keeps (s : State)
    (hs : memWf s.mem = true) :
    OutOk (execPmselWrite s) := by
  unfold execPmselWrite
  try dsimp only
  repeat' split
  all_goals first | with_reducible assumption | (simp (maxDischargeDepth := 16) [*]; done) | simp_all +contextual (maxDischargeDepth := 16)

@[simp] theorem execFragmentationCounterClear_keeps (s : State)
    (hs : memWf s.mem = true) :
    OutOk (execFragmentationCounterClear s) := by
  unfold execFragmentationCounterClear
  try dsimp only
  repeat' split
  all_goals first | with_reducible assumption | (simp (maxDischargeDepth := 16) [*]; done) | simp_all +contextual (maxDischargeDepth := 16)

@[simp] theorem execFbpop_keeps (s : State)
    (hs : memWf s.mem = true) :
    OutOk (execFbpop s) := by
  unfold execFbpop
  try dsimp only
  repeat' split
  all_goals first | with_reducible assumption | (simp (maxDischargeDepth := 16) [*]; done) | simp_all +contextual (maxDischargeDepth := 16)

@[simp] theorem execFbdeliv_keeps (s : State)
    (hs : memWf s.mem = true) :
    OutOk (execFbdeliv s) := by
  unfold execFbdeliv
  try dsimp only
  repeat' split
  all_goals first | with_reducible assumption | (simp (maxDischargeDepth := 16) [*]; done) | simp_all +contextual (maxDischargeDepth := 16)

@[simp] theorem execFbrpl_keeps (s : State)
    (hs : memWf s.mem = true) :
    OutOk (execFbrpl s) := by
  unfold execFbrpl
  try dsimp only
  repeat' split
  all_goals first | with_reducible assumption | (simp (maxDischargeDepth := 16) [*]; done) | simp_all +contextual (maxDischargeDepth := 16)

@[simp] theorem hostResume_keeps (s : State) (key : Nat)
    (hs : memWf s.mem = true) :
    memWf (hostResume s key).mem = true := by
  unfold hostResume
  try dsimp only
  repeat' split
  all_goals first | with_reducible assumption | (simp (maxDischargeDepth := 16) [*]; done) | simp_all +contextual (maxDischargeDepth := 16)

@[simp] theorem execHlaunch_keeps (s : State)
    (hs : memWf s.mem = true) :
    OutOk (execHlaunch s) := by
  unfold execHlaunch
  try dsimp only
  repeat' split
  all_goals first | with_reducible assumption | (simp (maxDischargeDepth := 16) [*]; done) | simp_all +contextual (maxDischargeDepth := 16)

@[simp] theorem execHpreempt_keeps (s : State)
    (hs : memWf s.mem = true) :
    OutOk (execHpreempt s) := by
  unfold execHpreempt
  try dsimp only
  repeat' split
  all_goals first | with_reducible assumption | (simp (maxDischargeDepth := 16) [*]; done) | simp_all +contextual (maxDischargeDepth := 16)

@[simp] theorem setHstat_keeps (s : State) (d i : Nat) (b : Bool)
    (hs : memWf s.mem = true) :
    memWf (setHstat s d i b).mem = true := by
  unfold setHstat
  try dsimp only
  repeat' split
  all_goals first | with_reducible assumption | (simp (maxDischargeDepth := 16) [*]; done) | simp_all +contextual (maxDischargeDepth := 16)

@[simp] theorem answerHandover_keeps (s : State) (d : Nat) (h : Handover) (status : Nat)
    (hs : memWf s.mem = true) :
    memWf (answerHandover s d h status).mem = true := by
  unfold answerHandover
  try dsimp only
  repeat' split
  all_goals first | with_reducible assumption | (simp (maxDischargeDepth := 16) [*]; done) | simp_all +contextual (maxDischargeDepth := 16)

@[simp] theorem execHoqdone_keeps (s : State)
    (hs : memWf s.mem = true) :
    OutOk (execHoqdone s) := by
  unfold execHoqdone
  try dsimp only
  repeat' split
  all_goals first | with_reducible assumption | (simp (maxDischargeDepth := 16) [*]; done) | simp_all +contextual (maxDischargeDepth := 16)

@[simp] theorem execPlsw_keeps (s : State)
    (hs : memWf s.mem = true) :
    OutOk (execPlsw s) := by
  unfold execPlsw
  try dsimp only
  repeat' split
  all_goals first | with_reducible assumption | (simp (maxDischargeDepth := 16) [*]; done) | simp_all +contextual (maxDischargeDepth := 16)

@[simp] theorem execPlqfill_keeps (s : State)
    (hs : memWf s.mem = true) :
    OutOk (execPlqfill s) := by
  unfold execPlqfill
  try dsimp only
  repeat' split
  all_goals first | with_reducible assumption | (simp (maxDischargeDepth := 16) [*]; done) | simp_all +contextual (maxDischargeDepth := 16)

@[simp] theorem execHcancpop_keeps (s : State)
    (hs : memWf s.mem = true) :
    OutOk (execHcancpop s) := by
  unfold execHcancpop
  try dsimp only
  repeat' split
  all_goals first | with_reducible assumption | (simp (maxDischargeDepth := 16) [*]; done) | simp_all +contextual (maxDischargeDepth := 16)

@[simp] theorem execHfin_keeps (s : State)
    (hs : memWf s.mem = true) :
    OutOk (execHfin s) := by
  unfold execHfin
  try dsimp only
  repeat' split
  all_goals first | with_reducible assumption | (simp (maxDischargeDepth := 16) [*]; done) | simp_all +contextual (maxDischargeDepth := 16)

@[simp] theorem execFabidw_keeps (s : State)
    (hs : memWf s.mem = true) :
    OutOk (execFabidw s) := by
  unfold execFabidw
  try dsimp only
  repeat' split
  all_goals first | with_reducible assumption | (simp (maxDischargeDepth := 16) [*]; done) | simp_all +contextual (maxDischargeDepth := 16)

@[simp] theorem execPlanemap_keeps (s : State)
    (hs : memWf s.mem = true) :
    OutOk (execPlanemap s) := by
  unfold execPlanemap
  try dsimp only
  repeat' split
  all_goals first | with_reducible assumption | (simp (maxDischargeDepth := 16) [*]; done) | simp_all +contextual (maxDischargeDepth := 16)

@[simp] theorem execFabricPlaneFailover_keeps (s : State)
    (hs : memWf s.mem = true) :
    OutOk (execFabricPlaneFailover s) := by
  unfold execFabricPlaneFailover
  try dsimp only
  repeat' split
  all_goals first | with_reducible assumption | (simp (maxDischargeDepth := 16) [*]; done) | simp_all +contextual (maxDischargeDepth := 16)

@[simp] theorem execFabricPlaneReturn_keeps (s : State)
    (hs : memWf s.mem = true) :
    OutOk (execFabricPlaneReturn s) := by
  unfold execFabricPlaneReturn
  try dsimp only
  repeat' split
  all_goals first | with_reducible assumption | (simp (maxDischargeDepth := 16) [*]; done) | simp_all +contextual (maxDischargeDepth := 16)

@[simp] theorem remoteAccess_keeps (s : State) (port op a n : Nat) (x cmp : Nat)
    (hs : memWf s.mem = true) :
    memWf (remoteAccess s port op a n x cmp).1.mem = true := by
  unfold remoteAccess
  try dsimp only
  repeat' split
  all_goals first | with_reducible assumption | (simp (maxDischargeDepth := 16) [*]; done) | simp_all +contextual (maxDischargeDepth := 16)

@[simp] theorem execFabricRemoteAccess_keeps (s : State)
    (hs : memWf s.mem = true) :
    OutOk (execFabricRemoteAccess s) := by
  unfold execFabricRemoteAccess
  try dsimp only
  repeat' split
  all_goals first | with_reducible assumption | (simp (maxDischargeDepth := 16) [*]; done) | simp_all +contextual (maxDischargeDepth := 16)

@[simp] theorem accessTimeout_keeps (s : State) (c sl u : Nat) (hand : Bool) (a : Access)
    (hs : memWf s.mem = true) :
    memWf (accessTimeout s c sl u hand a).mem = true := by
  unfold accessTimeout
  try dsimp only
  repeat' split
  all_goals first | with_reducible assumption | (simp (maxDischargeDepth := 16) [*]; done) | simp_all +contextual (maxDischargeDepth := 16)

@[simp] theorem execFabricAccessTimeout_keeps (s : State)
    (hs : memWf s.mem = true) :
    OutOk (execFabricAccessTimeout s) := by
  unfold execFabricAccessTimeout
  try dsimp only
  repeat' split
  all_goals first | with_reducible assumption | (simp (maxDischargeDepth := 16) [*]; done) | simp_all +contextual (maxDischargeDepth := 16)

@[simp] theorem execThlimit_keeps (s : State)
    (hs : memWf s.mem = true) :
    OutOk (execThlimit s) := by
  unfold execThlimit
  try dsimp only
  repeat' split
  all_goals first | with_reducible assumption | (simp (maxDischargeDepth := 16) [*]; done) | simp_all +contextual (maxDischargeDepth := 16)

end Sys2Proof.Machine
end

