-- ==== Sys2Proof/Laws/KeepIngest.lean ====
section
/-! SUPPORT. Each operation of Machine/Ingest.lean keeps the canonical form of memory. -/

namespace Sys2Proof.Machine

@[simp] theorem modIring_keeps (s : State) (i : Nat) (f : IngestRing → IngestRing)
    (hs : memWf s.mem = true) :
    memWf (modIring s i f).mem = true := by
  unfold modIring
  try dsimp only
  repeat' split
  all_goals first | with_reducible assumption | (simp (maxDischargeDepth := 16) [*]; done) | simp_all +contextual (maxDischargeDepth := 16)

@[simp] theorem execFrameReceive_keeps (s : State)
    (hs : memWf s.mem = true) :
    OutOk (execFrameReceive s) := by
  unfold execFrameReceive
  try dsimp only
  repeat' split
  all_goals first | with_reducible assumption | (simp (maxDischargeDepth := 16) [*]; done) | simp_all +contextual (maxDischargeDepth := 16)

@[simp] theorem pauseCheck_keeps (s : State) (i : Nat)
    (hs : memWf s.mem = true) :
    memWf (pauseCheck s i).mem = true := by
  unfold pauseCheck
  try dsimp only
  repeat' split
  all_goals first | with_reducible assumption | (simp (maxDischargeDepth := 16) [*]; done) | simp_all +contextual (maxDischargeDepth := 16)

@[simp] theorem execPauseXoffRefresh_keeps (s : State)
    (hs : memWf s.mem = true) :
    OutOk (execPauseXoffRefresh s) := by
  unfold execPauseXoffRefresh
  try dsimp only
  repeat' split
  all_goals first | with_reducible assumption | (simp (maxDischargeDepth := 16) [*]; done) | simp_all +contextual (maxDischargeDepth := 16)

@[simp] theorem landFrame_keeps (s : State) (f : Frame)
    (hs : memWf s.mem = true) :
    memWf (landFrame s f).1.mem = true := by
  unfold landFrame
  try dsimp only
  repeat' split
  all_goals first | with_reducible assumption | (simp (maxDischargeDepth := 16) [*]; done) | simp_all +contextual (maxDischargeDepth := 16)

@[simp] theorem landNext_keeps (s : State) (p : Nat)
    (hs : memWf s.mem = true) :
    memWf (landNext s p).mem = true := by
  unfold landNext
  try dsimp only
  repeat' split
  all_goals first | with_reducible assumption | (simp (maxDischargeDepth := 16) [*]; done) | simp_all +contextual (maxDischargeDepth := 16)

@[simp] theorem dropLines_keeps (s : State) (i a n : Nat)
    (hs : memWf s.mem = true) :
    memWf (dropLines s i a n).mem = true := by
  unfold dropLines
  try dsimp only
  repeat' split
  all_goals first | with_reducible assumption | (simp (maxDischargeDepth := 16) [*]; done) | simp_all +contextual (maxDischargeDepth := 16)

@[simp] theorem advanceWp_keeps (s : State) (p : Nat) (f : Frame) (e : BitVec 64)
    (hs : memWf s.mem = true) :
    memWf (advanceWp s p f e).mem = true := by
  unfold advanceWp
  try dsimp only
  repeat' split
  all_goals first | with_reducible assumption | (simp (maxDischargeDepth := 16) [*]; done) | simp_all +contextual (maxDischargeDepth := 16)

@[simp] theorem execIngestWpAdvance_keeps (s : State)
    (hs : memWf s.mem = true) :
    OutOk (execIngestWpAdvance s) := by
  unfold execIngestWpAdvance
  try dsimp only
  repeat' split
  all_goals first | with_reducible assumption | (simp (maxDischargeDepth := 16) [*]; done) | simp_all +contextual (maxDischargeDepth := 16)

@[simp] theorem disableRing_keeps (s : State) (i : Nat)
    (hs : memWf s.mem = true) :
    memWf (disableRing s i).mem = true := by
  unfold disableRing
  try dsimp only
  repeat' split
  all_goals first | with_reducible assumption | (simp (maxDischargeDepth := 16) [*]; done) | simp_all +contextual (maxDischargeDepth := 16)

@[simp] theorem execRingConfigure_keeps (s : State)
    (hs : memWf s.mem = true) :
    OutOk (execRingConfigure s) := by
  unfold execRingConfigure
  try dsimp only
  repeat' split
  all_goals first | with_reducible assumption | (simp (maxDischargeDepth := 16) [*]; done) | simp_all +contextual (maxDischargeDepth := 16)

@[simp] theorem execFlowRuleWrite_keeps (s : State)
    (hs : memWf s.mem = true) :
    OutOk (execFlowRuleWrite s) := by
  unfold execFlowRuleWrite
  try dsimp only
  repeat' split
  all_goals first | with_reducible assumption | (simp (maxDischargeDepth := 16) [*]; done) | simp_all +contextual (maxDischargeDepth := 16)

end Sys2Proof.Machine
end

