-- ==== Sys2Proof/Laws/KeepTime.lean ====
section
/-! SUPPORT. Each operation of Machine/Time.lean keeps the canonical form of memory. -/

namespace Sys2Proof.Machine

@[simp] theorem slip_keeps (s : State) (e : SkeinEntry)
    (hs : memWf s.mem = true) :
    memWf (slip s e).mem = true := by
  unfold slip
  try dsimp only
  repeat' split
  all_goals first | with_reducible assumption | (simp (maxDischargeDepth := 16) [*]; done) | simp_all +contextual (maxDischargeDepth := 16)

@[simp] theorem overrun_keeps (s : State)
    (hs : memWf s.mem = true) :
    memWf (overrun s).mem = true := by
  unfold overrun
  try dsimp only
  repeat' split
  all_goals first | with_reducible assumption | (simp (maxDischargeDepth := 16) [*]; done) | simp_all +contextual (maxDischargeDepth := 16)

@[simp] theorem execGtimeTick_keeps (s : State)
    (hs : memWf s.mem = true) :
    OutOk (execGtimeTick s) := by
  unfold execGtimeTick
  try dsimp only
  repeat' split
  all_goals first | with_reducible assumption | (simp (maxDischargeDepth := 16) [*]; done) | simp_all +contextual (maxDischargeDepth := 16)

@[simp] theorem execGtimeResync_keeps (s : State)
    (hs : memWf s.mem = true) :
    OutOk (execGtimeResync s) := by
  unfold execGtimeResync
  try dsimp only
  repeat' split
  all_goals first | with_reducible assumption | (simp (maxDischargeDepth := 16) [*]; done) | simp_all +contextual (maxDischargeDepth := 16)

@[simp] theorem execClockPlanWrite_keeps (s : State)
    (hs : memWf s.mem = true) :
    OutOk (execClockPlanWrite s) := by
  unfold execClockPlanWrite
  try dsimp only
  repeat' split
  all_goals first | with_reducible assumption | (simp (maxDischargeDepth := 16) [*]; done) | simp_all +contextual (maxDischargeDepth := 16)

@[simp] theorem execThermalLimitRaise_keeps (s : State)
    (hs : memWf s.mem = true) :
    OutOk (execThermalLimitRaise s) := by
  unfold execThermalLimitRaise
  try dsimp only
  repeat' split
  all_goals first | with_reducible assumption | (simp (maxDischargeDepth := 16) [*]; done) | simp_all +contextual (maxDischargeDepth := 16)

@[simp] theorem execVcoreCurrentLimit_keeps (s : State)
    (hs : memWf s.mem = true) :
    OutOk (execVcoreCurrentLimit s) := by
  unfold execVcoreCurrentLimit
  try dsimp only
  repeat' split
  all_goals first | with_reducible assumption | (simp (maxDischargeDepth := 16) [*]; done) | simp_all +contextual (maxDischargeDepth := 16)

@[simp] theorem execVcoreLimitRelease_keeps (s : State)
    (hs : memWf s.mem = true) :
    OutOk (execVcoreLimitRelease s) := by
  unfold execVcoreLimitRelease
  try dsimp only
  repeat' split
  all_goals first | with_reducible assumption | (simp (maxDischargeDepth := 16) [*]; done) | simp_all +contextual (maxDischargeDepth := 16)

@[simp] theorem releaseEntries_keeps (s : State)
    (hs : memWf s.mem = true) :
    memWf (releaseEntries s).mem = true := by
  unfold releaseEntries
  try dsimp only
  repeat' split
  all_goals first | with_reducible assumption | (simp (maxDischargeDepth := 16) [*]; done) | simp_all +contextual (maxDischargeDepth := 16)

@[simp] theorem endBringup_keeps (s : State)
    (hs : memWf s.mem = true) :
    memWf (endBringup s).mem = true := by
  unfold endBringup
  try dsimp only
  repeat' split
  all_goals first | with_reducible assumption | (simp (maxDischargeDepth := 16) [*]; done) | simp_all +contextual (maxDischargeDepth := 16)

@[simp] theorem execFrameAdvance_keeps (s : State)
    (hs : memWf s.mem = true) :
    OutOk (execFrameAdvance s) := by
  unfold execFrameAdvance
  try dsimp only
  repeat' split
  all_goals first | with_reducible assumption | (simp (maxDischargeDepth := 16) [*]; done) | simp_all +contextual (maxDischargeDepth := 16)

@[simp] theorem execSkenClear_keeps (s : State)
    (hs : memWf s.mem = true) :
    OutOk (execSkenClear s) := by
  unfold execSkenClear
  try dsimp only
  repeat' split
  all_goals first | with_reducible assumption | (simp (maxDischargeDepth := 16) [*]; done) | simp_all +contextual (maxDischargeDepth := 16)

end Sys2Proof.Machine
end

