-- ==== Sys2Proof/Laws/KeepFirmware.lean ====
section
/-! SUPPORT. Each operation of Machine/Firmware.lean keeps the canonical form of memory. -/

namespace Sys2Proof.Machine

@[simp] theorem modNewt_keeps (s : State) (n : Nat) (f : Newt → Newt)
    (hs : memWf s.mem = true) :
    memWf (modNewt s n f).mem = true := by
  unfold modNewt
  try dsimp only
  repeat' split
  all_goals first | with_reducible assumption | (simp (maxDischargeDepth := 16) [*]; done) | simp_all +contextual (maxDischargeDepth := 16)

@[simp] theorem setModes_keeps (s : State) (v : BitVec 8)
    (hs : memWf s.mem = true) :
    memWf (setModes s v).mem = true := by
  unfold setModes
  try dsimp only
  repeat' split
  all_goals first | with_reducible assumption | (simp (maxDischargeDepth := 16) [*]; done) | simp_all +contextual (maxDischargeDepth := 16)

@[simp] theorem applyHeld_keeps (s : State)
    (hs : memWf s.mem = true) :
    memWf (applyHeld s).mem = true := by
  unfold applyHeld
  try dsimp only
  repeat' split
  all_goals first | with_reducible assumption | (simp (maxDischargeDepth := 16) [*]; done) | simp_all +contextual (maxDischargeDepth := 16)

@[simp] theorem execModetabWrite_keeps (s : State)
    (hs : memWf s.mem = true) :
    OutOk (execModetabWrite s) := by
  unfold execModetabWrite
  try dsimp only
  repeat' split
  all_goals first | with_reducible assumption | (simp (maxDischargeDepth := 16) [*]; done) | simp_all +contextual (maxDischargeDepth := 16)

@[simp] theorem execModetabApply_keeps (s : State)
    (hs : memWf s.mem = true) :
    OutOk (execModetabApply s) := by
  unfold execModetabApply
  try dsimp only
  repeat' split
  all_goals first | with_reducible assumption | (simp (maxDischargeDepth := 16) [*]; done) | simp_all +contextual (maxDischargeDepth := 16)

@[simp] theorem modMolt_keeps (s : State) (f : Molt → Molt)
    (hs : memWf s.mem = true) :
    memWf (modMolt s f).mem = true := by
  unfold modMolt
  try dsimp only
  repeat' split
  all_goals first | with_reducible assumption | (simp (maxDischargeDepth := 16) [*]; done) | simp_all +contextual (maxDischargeDepth := 16)

@[simp] theorem stage_keeps (s : State) (f die : Nat) (dies : BitVec 8)
    (hs : memWf s.mem = true) :
    memWf (stage s f die dies).mem = true := by
  unfold stage
  try dsimp only
  repeat' split
  all_goals first | with_reducible assumption | (simp (maxDischargeDepth := 16) [*]; done) | simp_all +contextual (maxDischargeDepth := 16)

@[simp] theorem endMolt_keeps (s : State) (err : BitVec 8)
    (hs : memWf s.mem = true) :
    memWf (endMolt s err).mem = true := by
  unfold endMolt
  try dsimp only
  repeat' split
  all_goals first | with_reducible assumption | (simp (maxDischargeDepth := 16) [*]; done) | simp_all +contextual (maxDischargeDepth := 16)

@[simp] theorem refuseMolt_keeps (s : State) (err : BitVec 8)
    (hs : memWf s.mem = true) :
    memWf (refuseMolt s err).mem = true := by
  unfold refuseMolt
  try dsimp only
  repeat' split
  all_goals first | with_reducible assumption | (simp (maxDischargeDepth := 16) [*]; done) | simp_all +contextual (maxDischargeDepth := 16)

@[simp] theorem writeCtl_keeps (s : State) (v : Nat)
    (hs : memWf s.mem = true) :
    memWf (writeCtl s v).mem = true := by
  unfold writeCtl
  try dsimp only
  repeat' split
  all_goals first | with_reducible assumption | (simp (maxDischargeDepth := 16) [*]; done) | simp_all +contextual (maxDischargeDepth := 16)

@[simp] theorem execMolt_keeps (s : State)
    (hs : memWf s.mem = true) :
    OutOk (execMolt s) := by
  unfold execMolt
  try dsimp only
  repeat' split
  all_goals first | with_reducible assumption | (simp (maxDischargeDepth := 16) [*]; done) | simp_all +contextual (maxDischargeDepth := 16)

@[simp] theorem execMoltVerify_keeps (s : State)
    (hs : memWf s.mem = true) :
    OutOk (execMoltVerify s) := by
  unfold execMoltVerify
  try dsimp only
  repeat' split
  all_goals first | with_reducible assumption | (simp (maxDischargeDepth := 16) [*]; done) | simp_all +contextual (maxDischargeDepth := 16)

@[simp] theorem execMoltQuiesce_keeps (s : State)
    (hs : memWf s.mem = true) :
    OutOk (execMoltQuiesce s) := by
  unfold execMoltQuiesce
  try dsimp only
  repeat' split
  all_goals first | with_reducible assumption | (simp (maxDischargeDepth := 16) [*]; done) | simp_all +contextual (maxDischargeDepth := 16)

@[simp] theorem execMoltExport_keeps (s : State)
    (hs : memWf s.mem = true) :
    OutOk (execMoltExport s) := by
  unfold execMoltExport
  try dsimp only
  repeat' split
  all_goals first | with_reducible assumption | (simp (maxDischargeDepth := 16) [*]; done) | simp_all +contextual (maxDischargeDepth := 16)

@[simp] theorem execMoltSwitch_keeps (s : State)
    (hs : memWf s.mem = true) :
    OutOk (execMoltSwitch s) := by
  unfold execMoltSwitch
  try dsimp only
  repeat' split
  all_goals first | with_reducible assumption | (simp (maxDischargeDepth := 16) [*]; done) | simp_all +contextual (maxDischargeDepth := 16)

@[simp] theorem commit_keeps (s : State)
    (hs : memWf s.mem = true) :
    memWf (commit s).mem = true := by
  unfold commit
  try dsimp only
  repeat' split
  all_goals first | with_reducible assumption | (simp (maxDischargeDepth := 16) [*]; done) | simp_all +contextual (maxDischargeDepth := 16)

@[simp] theorem execMoltImport_keeps (s : State)
    (hs : memWf s.mem = true) :
    OutOk (execMoltImport s) := by
  unfold execMoltImport
  try dsimp only
  repeat' split
  all_goals first | with_reducible assumption | (simp (maxDischargeDepth := 16) [*]; done) | simp_all +contextual (maxDischargeDepth := 16)

@[simp] theorem execMoltFallback_keeps (s : State)
    (hs : memWf s.mem = true) :
    OutOk (execMoltFallback s) := by
  unfold execMoltFallback
  try dsimp only
  repeat' split
  all_goals first | with_reducible assumption | (simp (maxDischargeDepth := 16) [*]; done) | simp_all +contextual (maxDischargeDepth := 16)

@[simp] theorem newtFails_keeps (s : State) (n : Nat)
    (hs : memWf s.mem = true) :
    memWf (newtFails s n).mem = true := by
  unfold newtFails
  try dsimp only
  repeat' split
  all_goals first | with_reducible assumption | (simp (maxDischargeDepth := 16) [*]; done) | simp_all +contextual (maxDischargeDepth := 16)

@[simp] theorem execNewtHeartbeat_keeps (s : State)
    (hs : memWf s.mem = true) :
    OutOk (execNewtHeartbeat s) := by
  unfold execNewtHeartbeat
  try dsimp only
  repeat' split
  all_goals first | with_reducible assumption | (simp (maxDischargeDepth := 16) [*]; done) | simp_all +contextual (maxDischargeDepth := 16)

@[simp] theorem execHeartbeatTimeout_keeps (s : State)
    (hs : memWf s.mem = true) :
    OutOk (execHeartbeatTimeout s) := by
  unfold execHeartbeatTimeout
  try dsimp only
  repeat' split
  all_goals first | with_reducible assumption | (simp (maxDischargeDepth := 16) [*]; done) | simp_all +contextual (maxDischargeDepth := 16)

@[simp] theorem setDie_keeps (s : State) (d : Nat) (up : Bool)
    (hs : memWf s.mem = true) :
    memWf (setDie s d up).mem = true := by
  unfold setDie
  try dsimp only
  repeat' split
  all_goals first | with_reducible assumption | (simp (maxDischargeDepth := 16) [*]; done) | simp_all +contextual (maxDischargeDepth := 16)

@[simp] theorem handOn_keeps (s : State) (d : Nat)
    (hs : memWf s.mem = true) :
    memWf (handOn s d).mem = true := by
  unfold handOn
  try dsimp only
  repeat' split
  all_goals first | with_reducible assumption | (simp (maxDischargeDepth := 16) [*]; done) | simp_all +contextual (maxDischargeDepth := 16)

@[simp] theorem execDieRepair_keeps (s : State)
    (hs : memWf s.mem = true) :
    OutOk (execDieRepair s) := by
  unfold execDieRepair
  try dsimp only
  repeat' split
  all_goals first | with_reducible assumption | (simp (maxDischargeDepth := 16) [*]; done) | simp_all +contextual (maxDischargeDepth := 16)

@[simp] theorem rebootNewt_keeps (s : State) (d : Nat)
    (hs : memWf s.mem = true) :
    memWf (rebootNewt s d).mem = true := by
  unfold rebootNewt
  try dsimp only
  repeat' split
  all_goals first | with_reducible assumption | (simp (maxDischargeDepth := 16) [*]; done) | simp_all +contextual (maxDischargeDepth := 16)

@[simp] theorem execDieRepairComplete_keeps (s : State)
    (hs : memWf s.mem = true) :
    OutOk (execDieRepairComplete s) := by
  unfold execDieRepairComplete
  try dsimp only
  repeat' split
  all_goals first | with_reducible assumption | (simp (maxDischargeDepth := 16) [*]; done) | simp_all +contextual (maxDischargeDepth := 16)

@[simp] theorem execFullBringup_keeps (s : State)
    (hs : memWf s.mem = true) :
    OutOk (execFullBringup s) := by
  unfold execFullBringup
  try dsimp only
  repeat' split
  all_goals first | with_reducible assumption | (simp (maxDischargeDepth := 16) [*]; done) | simp_all +contextual (maxDischargeDepth := 16)

@[simp] theorem execPackageReset_keeps (s : State)
    (hs : memWf s.mem = true) :
    OutOk (execPackageReset s) := by
  unfold execPackageReset
  try dsimp only
  repeat' split
  all_goals first | with_reducible assumption | (simp (maxDischargeDepth := 16) [*]; done) | simp_all +contextual (maxDischargeDepth := 16)

@[simp] theorem execMrExtendRequest_keeps (s : State)
    (hs : memWf s.mem = true) :
    OutOk (execMrExtendRequest s) := by
  unfold execMrExtendRequest
  try dsimp only
  repeat' split
  all_goals first | with_reducible assumption | (simp (maxDischargeDepth := 16) [*]; done) | simp_all +contextual (maxDischargeDepth := 16)

@[simp] theorem execQuoteRequest_keeps (s : State)
    (hs : memWf s.mem = true) :
    OutOk (execQuoteRequest s) := by
  unfold execQuoteRequest
  try dsimp only
  repeat' split
  all_goals first | with_reducible assumption | (simp (maxDischargeDepth := 16) [*]; done) | simp_all +contextual (maxDischargeDepth := 16)

@[simp] theorem execAgemonUpdate_keeps (s : State)
    (hs : memWf s.mem = true) :
    OutOk (execAgemonUpdate s) := by
  unfold execAgemonUpdate
  try dsimp only
  repeat' split
  all_goals first | with_reducible assumption | (simp (maxDischargeDepth := 16) [*]; done) | simp_all +contextual (maxDischargeDepth := 16)

end Sys2Proof.Machine
end

