-- ==== Sys2Proof/Laws/KeepXl.lean ====
section
/-! SUPPORT. Each operation of Machine/Xl.lean keeps the canonical form of memory. -/

namespace Sys2Proof.Machine

@[simp] theorem execXlShfl_keeps (t : Trig) (s : State)
    (hs : memWf s.mem = true) :
    OutOk (execXlShfl t s) := by
  unfold execXlShfl
  try dsimp only
  repeat' split
  all_goals first | with_reducible assumption | simp_all +contextual (maxDischargeDepth := 16)

@[simp] theorem execXlShup_keeps (t : Trig) (s : State)
    (hs : memWf s.mem = true) :
    OutOk (execXlShup t s) := by
  unfold execXlShup
  try dsimp only
  repeat' split
  all_goals first | with_reducible assumption | simp_all +contextual (maxDischargeDepth := 16)

@[simp] theorem execXlShdn_keeps (t : Trig) (s : State)
    (hs : memWf s.mem = true) :
    OutOk (execXlShdn t s) := by
  unfold execXlShdn
  try dsimp only
  repeat' split
  all_goals first | with_reducible assumption | simp_all +contextual (maxDischargeDepth := 16)

@[simp] theorem execXlXorsh_keeps (t : Trig) (s : State)
    (hs : memWf s.mem = true) :
    OutOk (execXlXorsh t s) := by
  unfold execXlXorsh
  try dsimp only
  repeat' split
  all_goals first | with_reducible assumption | simp_all +contextual (maxDischargeDepth := 16)

@[simp] theorem execXlBcast_keeps (t : Trig) (s : State)
    (hs : memWf s.mem = true) :
    OutOk (execXlBcast t s) := by
  unfold execXlBcast
  try dsimp only
  repeat' split
  all_goals first | with_reducible assumption | simp_all +contextual (maxDischargeDepth := 16)

@[simp] theorem execXlBallot_keeps (t : Trig) (s : State)
    (hs : memWf s.mem = true) :
    OutOk (execXlBallot t s) := by
  unfold execXlBallot
  try dsimp only
  repeat' split
  all_goals first | with_reducible assumption | simp_all +contextual (maxDischargeDepth := 16)

@[simp] theorem execXlAnyl_keeps (t : Trig) (s : State)
    (hs : memWf s.mem = true) :
    OutOk (execXlAnyl t s) := by
  unfold execXlAnyl
  try dsimp only
  repeat' split
  all_goals first | with_reducible assumption | simp_all +contextual (maxDischargeDepth := 16)

@[simp] theorem execXlAlll_keeps (t : Trig) (s : State)
    (hs : memWf s.mem = true) :
    OutOk (execXlAlll t s) := by
  unfold execXlAlll
  try dsimp only
  repeat' split
  all_goals first | with_reducible assumption | simp_all +contextual (maxDischargeDepth := 16)

@[simp] theorem execXlElect_keeps (t : Trig) (s : State)
    (hs : memWf s.mem = true) :
    OutOk (execXlElect t s) := by
  unfold execXlElect
  try dsimp only
  repeat' split
  all_goals first | with_reducible assumption | simp_all +contextual (maxDischargeDepth := 16)

@[simp] theorem execXlLanemask_keeps (t : Trig) (s : State)
    (hs : memWf s.mem = true) :
    OutOk (execXlLanemask t s) := by
  unfold execXlLanemask
  try dsimp only
  repeat' split
  all_goals first | with_reducible assumption | simp_all +contextual (maxDischargeDepth := 16)

@[simp] theorem execXlPopl_keeps (t : Trig) (s : State)
    (hs : memWf s.mem = true) :
    OutOk (execXlPopl t s) := by
  unfold execXlPopl
  try dsimp only
  repeat' split
  all_goals first | with_reducible assumption | simp_all +contextual (maxDischargeDepth := 16)

@[simp] theorem execXlRmin_keeps (t : Trig) (s : State)
    (hs : memWf s.mem = true) :
    OutOk (execXlRmin t s) := by
  unfold execXlRmin
  try dsimp only
  repeat' split
  all_goals first | with_reducible assumption | simp_all +contextual (maxDischargeDepth := 16)

@[simp] theorem execXlRmax_keeps (t : Trig) (s : State)
    (hs : memWf s.mem = true) :
    OutOk (execXlRmax t s) := by
  unfold execXlRmax
  try dsimp only
  repeat' split
  all_goals first | with_reducible assumption | simp_all +contextual (maxDischargeDepth := 16)

@[simp] theorem execXlRadd_keeps (t : Trig) (s : State)
    (hs : memWf s.mem = true) :
    OutOk (execXlRadd t s) := by
  unfold execXlRadd
  try dsimp only
  repeat' split
  all_goals first | with_reducible assumption | simp_all +contextual (maxDischargeDepth := 16)

@[simp] theorem execXlScanadd_keeps (t : Trig) (s : State)
    (hs : memWf s.mem = true) :
    OutOk (execXlScanadd t s) := by
  unfold execXlScanadd
  try dsimp only
  repeat' split
  all_goals first | with_reducible assumption | simp_all +contextual (maxDischargeDepth := 16)

end Sys2Proof.Machine
end

