-- ==== Sys2Proof/Laws/Lanes.lean ====
section
/-! SUPPORT. Rows, masks and g registers read lane by lane. -/

namespace Sys2Proof.Machine

/-- A lane is a digit of the row in base 2^128. -/
theorem lane_eq (r : Row) (L : Nat) : lane r L = BitVec.ofNat 128 (r.toNat / 2 ^ (128 * L)) := by
  apply BitVec.eq_of_toNat_eq; simp [lane, BitVec.extractLsb'_toNat, Nat.shiftRight_eq_div_pow]

/-- The low n lanes fit in 128 n bits. -/
theorem rowNat_lt (f : Nat → Slice) (n : Nat) : rowNat f n < 2 ^ (128 * n) := by
  induction n with
  | zero => simp [rowNat]
  | succ n ih =>
    rw [rowNat, Nat.mul_succ, Nat.pow_add]
    have := (f n).isLt
    calc _ < 2 ^ (128 * n) + (f n).toNat * 2 ^ (128 * n) := by omega
      _ = ((f n).toNat + 1) * 2 ^ (128 * n) := by ring
      _ ≤ 2 ^ 128 * 2 ^ (128 * n) := Nat.mul_le_mul_right _ this
      _ = _ := Nat.mul_comm _ _

/-- Each lane of the packed row is the lane it was made of. -/
theorem rowNat_div (f : Nat → Slice) (n L : Nat) (h : L < n) : rowNat f n / 2 ^ (128 * L) % 2 ^ 128 = (f L).toNat := by
  induction n with
  | zero => omega
  | succ n ih =>
    rw [rowNat]
    rcases Nat.lt_succ_iff_lt_or_eq.1 h with h | rfl
    · have : 2 ^ (128 * n) = 2 ^ (128 * (n - L - 1)) * 2 ^ 128 * 2 ^ (128 * L) := by
        rw [← Nat.pow_add, ← Nat.pow_add]; congr 1; omega
      rw [this, ← Nat.mul_assoc, ← Nat.mul_assoc, Nat.add_mul_div_right _ _ (Nat.two_pow_pos _), Nat.add_mul_mod_self_right]
      exact ih h
    · rw [Nat.add_mul_div_right _ _ (Nat.two_pow_pos _), Nat.div_eq_of_lt (rowNat_lt f L), Nat.zero_add, Nat.mod_eq_of_lt (f L).isLt]

/-- Lane L of the row that f makes is f L (R105). -/
@[simp] theorem lane_mkRow (f : Nat → Slice) (L : Nat) (h : L < 32) : lane (mkRow f) L = f L := by
  apply BitVec.eq_of_toNat_eq
  rw [lane_eq, BitVec.toNat_ofNat, mkRow, BitVec.toNat_ofNat, Nat.mod_eq_of_lt (rowNat_lt f 32), rowNat_div f 32 L h]

/-- Lane L of a merged row (R77). -/
@[simp] theorem lane_merge (m : Mask) (x y : Row) (L : Nat) (h : L < 32) : lane (merge m x y) L = if m.getLsbD L then lane x L else lane y L := by
  rw [merge, lane_mkRow _ _ h]

/-- Every lane of a splat holds its value. -/
@[simp] theorem lane_splat (v : Slice) (L : Nat) (h : L < 32) : lane (splat v) L = v := by rw [splat, lane_mkRow _ _ h]

/-- The low n lanes of a mask fit in n bits. -/
theorem maskNat_lt (f : Nat → Bool) (n : Nat) : maskNat f n < 2 ^ n := by
  induction n with
  | zero => simp [maskNat]
  | succ n ih => rw [maskNat, Nat.pow_succ]; have : (f n).toNat ≤ 1 := Bool.toNat_le _; nlinarith

/-- Bit L of the mask that f makes is f L. -/
@[simp] theorem bit_mkMask (f : Nat → Bool) (L : Nat) (h : L < 32) : (mkMask f).getLsbD L = f L := by
  have key : ∀ n, L < n → (maskNat f n).testBit L = f L := by
    intro n hn
    induction n with
    | zero => omega
    | succ n ih =>
      rw [maskNat]
      rcases Nat.lt_succ_iff_lt_or_eq.1 hn with h | rfl
      · cases hf : f n
        · simpa using ih h
        · simp only [Bool.toNat_true, Nat.one_mul]
          rw [Nat.add_comm, Nat.testBit_two_pow_add_gt h]; exact ih h
      · cases hf : f L
        · simp [Nat.testBit_lt_two_pow (maskNat_lt f L)]
        · simp only [Bool.toNat_true, Nat.one_mul]
          rw [Nat.add_comm, Nat.testBit_two_pow_add_eq, Nat.testBit_lt_two_pow (maskNat_lt f L)]; rfl
  rw [mkMask, BitVec.getLsbD_ofNat]; simp [h, key 32 h]

/-- The low n lanes of a g register fit in 32 n bits. -/
theorem growNat_lt (f : Nat → BitVec 32) (n : Nat) : growNat f n < 2 ^ (32 * n) := by
  induction n with
  | zero => simp [growNat]
  | succ n ih =>
    rw [growNat, Nat.mul_succ, Nat.pow_add]
    have := (f n).isLt
    calc _ < 2 ^ (32 * n) + (f n).toNat * 2 ^ (32 * n) := by omega
      _ = ((f n).toNat + 1) * 2 ^ (32 * n) := by ring
      _ ≤ 2 ^ 32 * 2 ^ (32 * n) := Nat.mul_le_mul_right _ this
      _ = _ := Nat.mul_comm _ _

/-- Each lane of the packed g register is the lane it was made of. -/
theorem growNat_div (f : Nat → BitVec 32) (n L : Nat) (h : L < n) : growNat f n / 2 ^ (32 * L) % 2 ^ 32 = (f L).toNat := by
  induction n with
  | zero => omega
  | succ n ih =>
    rw [growNat]
    rcases Nat.lt_succ_iff_lt_or_eq.1 h with h | rfl
    · have : 2 ^ (32 * n) = 2 ^ (32 * (n - L - 1)) * 2 ^ 32 * 2 ^ (32 * L) := by
        rw [← Nat.pow_add, ← Nat.pow_add]; congr 1; omega
      rw [this, ← Nat.mul_assoc, ← Nat.mul_assoc, Nat.add_mul_div_right _ _ (Nat.two_pow_pos _), Nat.add_mul_mod_self_right]
      exact ih h
    · rw [Nat.add_mul_div_right _ _ (Nat.two_pow_pos _), Nat.div_eq_of_lt (growNat_lt f L), Nat.zero_add, Nat.mod_eq_of_lt (f L).isLt]

/-- Lane L of the g register that f makes is f L (R100). -/
@[simp] theorem glane_mkGRow (f : Nat → BitVec 32) (L : Nat) (h : L < 32) : glane (mkGRow f) L = f L := by
  apply BitVec.eq_of_toNat_eq
  rw [glane, BitVec.extractLsb'_toNat, Nat.shiftRight_eq_div_pow, mkGRow, BitVec.toNat_ofNat, Nat.mod_eq_of_lt (growNat_lt f 32), growNat_div f 32 L h]


end Sys2Proof.Machine
end

