-- ==== Sys2Proof/Laws/PerInstr.lean ====
section
/-! SUPPORT. The family of statements made per instruction: its word decodes to it (R63 to R72, R84). -/

namespace Sys2Proof

/-- The fields of the word of given fields are those fields (R63). -/
theorem fieldsOf_wordOf (m : Move40) : fieldsOf (wordOf m) = m := by
  obtain ⟨⟨gi, gq, sc, ss, pk⟩, du, dp, op, ty, mo, rs⟩ := m
  simp only [fieldsOf, wordOf, Move40.mk.injEq, Src.mk.injEq]
  refine ⟨⟨?_, ?_, ?_, ?_, ?_⟩, ?_, ?_, ?_, ?_, ?_, ?_⟩
  all_goals first
    | (simp only [BitVec.getLsbD_append, BitVec.getLsbD_ofBool]; simp)
    | (ext i hi
       simp only [BitVec.getElem_extractLsb', BitVec.getLsbD_append, BitVec.getLsbD_ofBool]
       interval_cases i <;> simp [BitVec.getLsbD_eq_getElem])

/-- The low two bits of a word are its reserved bits. -/
theorem wordOf_mod (m : Move40) : (wordOf m).toNat % 4 = m.rsv.toNat := by
  have h : (wordOf m).extractLsb' 0 2 = m.rsv := congrArg Move40.rsv (fieldsOf_wordOf m)
  rw [← h]; simp [BitVec.extractLsb'_toNat]

/-- A word whose reserved bits are zero is decoded as a move. -/
theorem decodeWord_wordOf (m : Move40) (h : m.rsv = 0) : decodeWord (wordOf m).toNat = decodeFields m := by
  unfold decodeWord
  rw [wordOf_mod, h]
  simp [(wordOf m).isLt, decodeMove, fieldsOf_wordOf]

/-- An event word is decoded by its number. -/
theorem decode_event (w : Nat) : decodeWord (3 + 4 * w) = decodeEvent (3 + 4 * w) := by
  unfold decodeWord
  rw [if_pos (by omega)]

/-- The word of a trigger decodes to it. -/
theorem trig_round (c : UnitCls) (op : Nat) (t : Trig) (i : Instr) (hop : op < 128) (ho : opOf c op t = some i)
    (hw : t.wf c = true) : decodeWord (wordOf (trigFields c op t)).toNat = .ok i := by
  rw [decodeWord_wordOf _ rfl]
  obtain ⟨src, inst, typ, mod⟩ := t
  simp only [Trig.wf, Bool.and_eq_true, decide_eq_true_eq] at hw
  obtain ⟨h1, h2⟩ := hw
  have hm : (BitVec.ofNat 7 op).toNat = op := by simp; omega
  have hr : (0#2 : BitVec 2) = 0 := rfl
  unfold decodeFields trigFields
  dsimp only
  rw [hm]
  have key : (BitVec.ofNat 5 (c.base + inst.toNat)).toNat = c.base + inst.toNat ∧ ¬ c.base + inst.toNat < 4 ∧ c.base + inst.toNat < 31 ∧
      unitOfCode (c.base + inst.toNat) = some (c, inst) := by
    have : ∀ x : BitVec 2, x = 0 ∨ x = 1 ∨ x = 2 ∨ x = 3 := by decide
    cases c <;> simp [UnitCls.count] at h2 <;> rcases this inst with rfl | rfl | rfl | rfl <;> first | (exfalso; revert h2; decide) | decide
  obtain ⟨k1, k2, k3, k4⟩ := key
  have k5 : BitVec.ofNat 5 (c.base + inst.toNat) ≠ 31#5 := by
    intro h; have := congrArg BitVec.toNat h; rw [k1] at this; simp at this; omega
  simp only [k1, k2, k4, h1, ho]
  simpa using k5

namespace Laws.RoundTrip

/-- The word of a well-formed instruction is a word of 40 bits, and it decodes to the instruction. -/
def Statement (i : Instr) : Prop := i.wf = true → decodeWord (encode i) = .ok i ∧ encode i < 2 ^ 40

theorem move (src : Src) (dst : Dst) : Statement (.move src dst) := by
  intro h
  have hs : src.wf = true := h
  refine ⟨?_, (wordOf _).isLt⟩
  refine (decodeWord_wordOf (moveFields src dst) (by cases dst <;> rfl)).trans ?_
  have hi (i : BitVec 9) : i.extractLsb' 7 2 ++ i.extractLsb' 0 7 = i := by
    ext k hk
    simp only [BitVec.getElem_append, BitVec.getElem_extractLsb']
    interval_cases k <;> simp [BitVec.getLsbD_eq_getElem]
  cases dst <;> simp [moveFields, decodeFields, hs, hi]

theorem portLatch (src : Src) (unit : BitVec 5) (port : PortName) : Statement (.portLatch src unit port) := by
  intro h
  obtain ⟨hs, hp⟩ := Bool.and_eq_true_iff.1 h
  refine ⟨?_, (wordOf _).isLt⟩
  refine (decodeWord_wordOf ⟨src, unit, port.code, 0, 0, 0, 0⟩ rfl).trans ?_
  have hu : ∀ u : BitVec 5, portExists u.toNat .a = true → ¬u.toNat < 4 ∧ u ≠ 31 ∧ unitOfCode u.toNat ≠ none := by decide
  have ha : portExists unit.toNat .a = true := by
    cases port <;> simp_all [portExists] <;> omega
  obtain ⟨h1, h2, h3⟩ := hu unit ha
  obtain ⟨x, hx⟩ := Option.ne_none_iff_exists'.1 h3
  unfold decodeFields
  cases port <;> simp_all [PortName.code]

theorem iaAdd (t : Trig) : Statement (.iaAdd t) := fun h =>
  ⟨trig_round .ia 0x00 t _ (by decide) rfl h, (wordOf _).isLt⟩

theorem iaSub (t : Trig) : Statement (.iaSub t) := fun h =>
  ⟨trig_round .ia 0x01 t _ (by decide) rfl h, (wordOf _).isLt⟩

theorem iaRsub (t : Trig) : Statement (.iaRsub t) := fun h =>
  ⟨trig_round .ia 0x02 t _ (by decide) rfl h, (wordOf _).isLt⟩

theorem iaNeg (t : Trig) : Statement (.iaNeg t) := fun h =>
  ⟨trig_round .ia 0x03 t _ (by decide) rfl h, (wordOf _).isLt⟩

theorem iaAbs (t : Trig) : Statement (.iaAbs t) := fun h =>
  ⟨trig_round .ia 0x04 t _ (by decide) rfl h, (wordOf _).isLt⟩

theorem iaMin (t : Trig) : Statement (.iaMin t) := fun h =>
  ⟨trig_round .ia 0x05 t _ (by decide) rfl h, (wordOf _).isLt⟩

theorem iaMax (t : Trig) : Statement (.iaMax t) := fun h =>
  ⟨trig_round .ia 0x06 t _ (by decide) rfl h, (wordOf _).isLt⟩

theorem iaAddsat (t : Trig) : Statement (.iaAddsat t) := fun h =>
  ⟨trig_round .ia 0x07 t _ (by decide) rfl h, (wordOf _).isLt⟩

theorem iaSubsat (t : Trig) : Statement (.iaSubsat t) := fun h =>
  ⟨trig_round .ia 0x08 t _ (by decide) rfl h, (wordOf _).isLt⟩

theorem iaMul (t : Trig) : Statement (.iaMul t) := fun h =>
  ⟨trig_round .ia 0x09 t _ (by decide) rfl h, (wordOf _).isLt⟩

theorem iaMulhi (t : Trig) : Statement (.iaMulhi t) := fun h =>
  ⟨trig_round .ia 0x0A t _ (by decide) rfl h, (wordOf _).isLt⟩

theorem iaMad (t : Trig) : Statement (.iaMad t) := fun h =>
  ⟨trig_round .ia 0x0B t _ (by decide) rfl h, (wordOf _).isLt⟩

theorem iaLea (t : Trig) : Statement (.iaLea t) := fun h =>
  ⟨trig_round .ia 0x0C t _ (by decide) rfl h, (wordOf _).isLt⟩

theorem iaHmix (t : Trig) : Statement (.iaHmix t) := fun h =>
  ⟨trig_round .ia 0x0D t _ (by decide) rfl h, (wordOf _).isLt⟩

theorem iaMov (t : Trig) : Statement (.iaMov t) := fun h =>
  ⟨trig_round .ia 0x0E t _ (by decide) rfl h, (wordOf _).isLt⟩

theorem iaAnd (t : Trig) : Statement (.iaAnd t) := fun h =>
  ⟨trig_round .ia 0x10 t _ (by decide) rfl h, (wordOf _).isLt⟩

theorem iaOr (t : Trig) : Statement (.iaOr t) := fun h =>
  ⟨trig_round .ia 0x11 t _ (by decide) rfl h, (wordOf _).isLt⟩

theorem iaXor (t : Trig) : Statement (.iaXor t) := fun h =>
  ⟨trig_round .ia 0x12 t _ (by decide) rfl h, (wordOf _).isLt⟩

theorem iaAndn (t : Trig) : Statement (.iaAndn t) := fun h =>
  ⟨trig_round .ia 0x13 t _ (by decide) rfl h, (wordOf _).isLt⟩

theorem iaNot (t : Trig) : Statement (.iaNot t) := fun h =>
  ⟨trig_round .ia 0x14 t _ (by decide) rfl h, (wordOf _).isLt⟩

theorem iaShl (t : Trig) : Statement (.iaShl t) := fun h =>
  ⟨trig_round .ia 0x18 t _ (by decide) rfl h, (wordOf _).isLt⟩

theorem iaShr (t : Trig) : Statement (.iaShr t) := fun h =>
  ⟨trig_round .ia 0x19 t _ (by decide) rfl h, (wordOf _).isLt⟩

theorem iaSar (t : Trig) : Statement (.iaSar t) := fun h =>
  ⟨trig_round .ia 0x1A t _ (by decide) rfl h, (wordOf _).isLt⟩

theorem iaRot (t : Trig) : Statement (.iaRot t) := fun h =>
  ⟨trig_round .ia 0x1B t _ (by decide) rfl h, (wordOf _).isLt⟩

theorem iaClz (t : Trig) : Statement (.iaClz t) := fun h =>
  ⟨trig_round .ia 0x20 t _ (by decide) rfl h, (wordOf _).isLt⟩

theorem iaCtz (t : Trig) : Statement (.iaCtz t) := fun h =>
  ⟨trig_round .ia 0x21 t _ (by decide) rfl h, (wordOf _).isLt⟩

theorem iaPop (t : Trig) : Statement (.iaPop t) := fun h =>
  ⟨trig_round .ia 0x22 t _ (by decide) rfl h, (wordOf _).isLt⟩

theorem iaBrev (t : Trig) : Statement (.iaBrev t) := fun h =>
  ⟨trig_round .ia 0x23 t _ (by decide) rfl h, (wordOf _).isLt⟩

theorem iaBfx (t : Trig) : Statement (.iaBfx t) := fun h =>
  ⟨trig_round .ia 0x24 t _ (by decide) rfl h, (wordOf _).isLt⟩

theorem iaBfi (t : Trig) : Statement (.iaBfi t) := fun h =>
  ⟨trig_round .ia 0x25 t _ (by decide) rfl h, (wordOf _).isLt⟩

theorem iaSel (t : Trig) : Statement (.iaSel t) := fun h =>
  ⟨trig_round .ia 0x26 t _ (by decide) rfl h, (wordOf _).isLt⟩

theorem iaCmpeq (t : Trig) : Statement (.iaCmpeq t) := fun h =>
  ⟨trig_round .ia 0x28 t _ (by decide) rfl h, (wordOf _).isLt⟩

theorem iaCmpne (t : Trig) : Statement (.iaCmpne t) := fun h =>
  ⟨trig_round .ia 0x29 t _ (by decide) rfl h, (wordOf _).isLt⟩

theorem iaCmplt (t : Trig) : Statement (.iaCmplt t) := fun h =>
  ⟨trig_round .ia 0x2A t _ (by decide) rfl h, (wordOf _).isLt⟩

theorem iaCmple (t : Trig) : Statement (.iaCmple t) := fun h =>
  ⟨trig_round .ia 0x2B t _ (by decide) rfl h, (wordOf _).isLt⟩

theorem iaCmpgt (t : Trig) : Statement (.iaCmpgt t) := fun h =>
  ⟨trig_round .ia 0x2C t _ (by decide) rfl h, (wordOf _).isLt⟩

theorem iaCmpge (t : Trig) : Statement (.iaCmpge t) := fun h =>
  ⟨trig_round .ia 0x2D t _ (by decide) rfl h, (wordOf _).isLt⟩

theorem fvFadd (t : Trig) : Statement (.fvFadd t) := fun h =>
  ⟨trig_round .fv 0x00 t _ (by decide) rfl h, (wordOf _).isLt⟩

theorem fvFsub (t : Trig) : Statement (.fvFsub t) := fun h =>
  ⟨trig_round .fv 0x01 t _ (by decide) rfl h, (wordOf _).isLt⟩

theorem fvFmul (t : Trig) : Statement (.fvFmul t) := fun h =>
  ⟨trig_round .fv 0x02 t _ (by decide) rfl h, (wordOf _).isLt⟩

theorem fvFma (t : Trig) : Statement (.fvFma t) := fun h =>
  ⟨trig_round .fv 0x03 t _ (by decide) rfl h, (wordOf _).isLt⟩

theorem fvFms (t : Trig) : Statement (.fvFms t) := fun h =>
  ⟨trig_round .fv 0x04 t _ (by decide) rfl h, (wordOf _).isLt⟩

theorem fvFnma (t : Trig) : Statement (.fvFnma t) := fun h =>
  ⟨trig_round .fv 0x05 t _ (by decide) rfl h, (wordOf _).isLt⟩

theorem fvFmin (t : Trig) : Statement (.fvFmin t) := fun h =>
  ⟨trig_round .fv 0x06 t _ (by decide) rfl h, (wordOf _).isLt⟩

theorem fvFmax (t : Trig) : Statement (.fvFmax t) := fun h =>
  ⟨trig_round .fv 0x07 t _ (by decide) rfl h, (wordOf _).isLt⟩

theorem fvFabs (t : Trig) : Statement (.fvFabs t) := fun h =>
  ⟨trig_round .fv 0x08 t _ (by decide) rfl h, (wordOf _).isLt⟩

theorem fvFneg (t : Trig) : Statement (.fvFneg t) := fun h =>
  ⟨trig_round .fv 0x09 t _ (by decide) rfl h, (wordOf _).isLt⟩

theorem fvFcmp (t : Trig) : Statement (.fvFcmp t) := fun h =>
  ⟨trig_round .fv 0x0A t _ (by decide) rfl h, (wordOf _).isLt⟩

theorem fvFrnd (t : Trig) : Statement (.fvFrnd t) := fun h =>
  ⟨trig_round .fv 0x0B t _ (by decide) rfl h, (wordOf _).isLt⟩

theorem fvVadd (t : Trig) : Statement (.fvVadd t) := fun h =>
  ⟨trig_round .fv 0x10 t _ (by decide) rfl h, (wordOf _).isLt⟩

theorem fvVsub (t : Trig) : Statement (.fvVsub t) := fun h =>
  ⟨trig_round .fv 0x11 t _ (by decide) rfl h, (wordOf _).isLt⟩

theorem fvVmul (t : Trig) : Statement (.fvVmul t) := fun h =>
  ⟨trig_round .fv 0x12 t _ (by decide) rfl h, (wordOf _).isLt⟩

theorem fvVmad (t : Trig) : Statement (.fvVmad t) := fun h =>
  ⟨trig_round .fv 0x13 t _ (by decide) rfl h, (wordOf _).isLt⟩

theorem fvVmin (t : Trig) : Statement (.fvVmin t) := fun h =>
  ⟨trig_round .fv 0x14 t _ (by decide) rfl h, (wordOf _).isLt⟩

theorem fvVmax (t : Trig) : Statement (.fvVmax t) := fun h =>
  ⟨trig_round .fv 0x15 t _ (by decide) rfl h, (wordOf _).isLt⟩

theorem fvVand (t : Trig) : Statement (.fvVand t) := fun h =>
  ⟨trig_round .fv 0x16 t _ (by decide) rfl h, (wordOf _).isLt⟩

theorem fvVor (t : Trig) : Statement (.fvVor t) := fun h =>
  ⟨trig_round .fv 0x17 t _ (by decide) rfl h, (wordOf _).isLt⟩

theorem fvVxor (t : Trig) : Statement (.fvVxor t) := fun h =>
  ⟨trig_round .fv 0x18 t _ (by decide) rfl h, (wordOf _).isLt⟩

theorem fvVsel (t : Trig) : Statement (.fvVsel t) := fun h =>
  ⟨trig_round .fv 0x19 t _ (by decide) rfl h, (wordOf _).isLt⟩

theorem fvCmul (t : Trig) : Statement (.fvCmul t) := fun h =>
  ⟨trig_round .fv 0x1C t _ (by decide) rfl h, (wordOf _).isLt⟩

theorem fvCmac (t : Trig) : Statement (.fvCmac t) := fun h =>
  ⟨trig_round .fv 0x1D t _ (by decide) rfl h, (wordOf _).isLt⟩

theorem fvDot4 (t : Trig) : Statement (.fvDot4 t) := fun h =>
  ⟨trig_round .fv 0x1E t _ (by decide) rfl h, (wordOf _).isLt⟩

theorem fvHsum (t : Trig) : Statement (.fvHsum t) := fun h =>
  ⟨trig_round .fv 0x1F t _ (by decide) rfl h, (wordOf _).isLt⟩

theorem fvPack (t : Trig) : Statement (.fvPack t) := fun h =>
  ⟨trig_round .fv 0x20 t _ (by decide) rfl h, (wordOf _).isLt⟩

theorem fvUnpack (t : Trig) : Statement (.fvUnpack t) := fun h =>
  ⟨trig_round .fv 0x21 t _ (by decide) rfl h, (wordOf _).isLt⟩

theorem fvBshuf (t : Trig) : Statement (.fvBshuf t) := fun h =>
  ⟨trig_round .fv 0x22 t _ (by decide) rfl h, (wordOf _).isLt⟩

theorem fvMovv (t : Trig) : Statement (.fvMovv t) := fun h =>
  ⟨trig_round .fv 0x23 t _ (by decide) rfl h, (wordOf _).isLt⟩

theorem fvCvtf32 (t : Trig) : Statement (.fvCvtf32 t) := fun h =>
  ⟨trig_round .fv 0x30 t _ (by decide) rfl h, (wordOf _).isLt⟩

theorem fvCvtbf16 (t : Trig) : Statement (.fvCvtbf16 t) := fun h =>
  ⟨trig_round .fv 0x31 t _ (by decide) rfl h, (wordOf _).isLt⟩

theorem fvCvtf16 (t : Trig) : Statement (.fvCvtf16 t) := fun h =>
  ⟨trig_round .fv 0x32 t _ (by decide) rfl h, (wordOf _).isLt⟩

theorem fvCvti32 (t : Trig) : Statement (.fvCvti32 t) := fun h =>
  ⟨trig_round .fv 0x33 t _ (by decide) rfl h, (wordOf _).isLt⟩

theorem fvCvtn32 (t : Trig) : Statement (.fvCvtn32 t) := fun h =>
  ⟨trig_round .fv 0x34 t _ (by decide) rfl h, (wordOf _).isLt⟩

theorem fvCvti16 (t : Trig) : Statement (.fvCvti16 t) := fun h =>
  ⟨trig_round .fv 0x35 t _ (by decide) rfl h, (wordOf _).isLt⟩

theorem fvCvtn16 (t : Trig) : Statement (.fvCvtn16 t) := fun h =>
  ⟨trig_round .fv 0x36 t _ (by decide) rfl h, (wordOf _).isLt⟩

theorem fvCvti8 (t : Trig) : Statement (.fvCvti8 t) := fun h =>
  ⟨trig_round .fv 0x37 t _ (by decide) rfl h, (wordOf _).isLt⟩

theorem fvCvtn8 (t : Trig) : Statement (.fvCvtn8 t) := fun h =>
  ⟨trig_round .fv 0x38 t _ (by decide) rfl h, (wordOf _).isLt⟩

theorem fvCvtb4 (t : Trig) : Statement (.fvCvtb4 t) := fun h =>
  ⟨trig_round .fv 0x39 t _ (by decide) rfl h, (wordOf _).isLt⟩

theorem fvCvtb8 (t : Trig) : Statement (.fvCvtb8 t) := fun h =>
  ⟨trig_round .fv 0x3A t _ (by decide) rfl h, (wordOf _).isLt⟩

theorem fvCvtb12 (t : Trig) : Statement (.fvCvtb12 t) := fun h =>
  ⟨trig_round .fv 0x3B t _ (by decide) rfl h, (wordOf _).isLt⟩

theorem fvCvtc4 (t : Trig) : Statement (.fvCvtc4 t) := fun h =>
  ⟨trig_round .fv 0x3C t _ (by decide) rfl h, (wordOf _).isLt⟩

theorem fvCvtc8 (t : Trig) : Statement (.fvCvtc8 t) := fun h =>
  ⟨trig_round .fv 0x3D t _ (by decide) rfl h, (wordOf _).isLt⟩

theorem fvCvtci32 (t : Trig) : Statement (.fvCvtci32 t) := fun h =>
  ⟨trig_round .fv 0x3E t _ (by decide) rfl h, (wordOf _).isLt⟩

theorem sfExp2 (t : Trig) : Statement (.sfExp2 t) := fun h =>
  ⟨trig_round .sf 0x00 t _ (by decide) rfl h, (wordOf _).isLt⟩

theorem sfExp (t : Trig) : Statement (.sfExp t) := fun h =>
  ⟨trig_round .sf 0x01 t _ (by decide) rfl h, (wordOf _).isLt⟩

theorem sfLog2 (t : Trig) : Statement (.sfLog2 t) := fun h =>
  ⟨trig_round .sf 0x02 t _ (by decide) rfl h, (wordOf _).isLt⟩

theorem sfLn (t : Trig) : Statement (.sfLn t) := fun h =>
  ⟨trig_round .sf 0x03 t _ (by decide) rfl h, (wordOf _).isLt⟩

theorem sfRcp (t : Trig) : Statement (.sfRcp t) := fun h =>
  ⟨trig_round .sf 0x04 t _ (by decide) rfl h, (wordOf _).isLt⟩

theorem sfRsqrt (t : Trig) : Statement (.sfRsqrt t) := fun h =>
  ⟨trig_round .sf 0x05 t _ (by decide) rfl h, (wordOf _).isLt⟩

theorem sfSqrt (t : Trig) : Statement (.sfSqrt t) := fun h =>
  ⟨trig_round .sf 0x06 t _ (by decide) rfl h, (wordOf _).isLt⟩

theorem sfSin (t : Trig) : Statement (.sfSin t) := fun h =>
  ⟨trig_round .sf 0x07 t _ (by decide) rfl h, (wordOf _).isLt⟩

theorem sfCos (t : Trig) : Statement (.sfCos t) := fun h =>
  ⟨trig_round .sf 0x08 t _ (by decide) rfl h, (wordOf _).isLt⟩

theorem sfTanh (t : Trig) : Statement (.sfTanh t) := fun h =>
  ⟨trig_round .sf 0x09 t _ (by decide) rfl h, (wordOf _).isLt⟩

theorem sfSigm (t : Trig) : Statement (.sfSigm t) := fun h =>
  ⟨trig_round .sf 0x0A t _ (by decide) rfl h, (wordOf _).isLt⟩

theorem sfErf (t : Trig) : Statement (.sfErf t) := fun h =>
  ⟨trig_round .sf 0x0B t _ (by decide) rfl h, (wordOf _).isLt⟩

theorem sfRmax (t : Trig) : Statement (.sfRmax t) := fun h =>
  ⟨trig_round .sf 0x10 t _ (by decide) rfl h, (wordOf _).isLt⟩

theorem sfRexp (t : Trig) : Statement (.sfRexp t) := fun h =>
  ⟨trig_round .sf 0x11 t _ (by decide) rfl h, (wordOf _).isLt⟩

theorem sfRdiv (t : Trig) : Statement (.sfRdiv t) := fun h =>
  ⟨trig_round .sf 0x12 t _ (by decide) rfl h, (wordOf _).isLt⟩

theorem sfRmsq (t : Trig) : Statement (.sfRmsq t) := fun h =>
  ⟨trig_round .sf 0x13 t _ (by decide) rfl h, (wordOf _).isLt⟩

theorem xlShfl (t : Trig) : Statement (.xlShfl t) := fun h =>
  ⟨trig_round .xl 0x00 t _ (by decide) rfl h, (wordOf _).isLt⟩

theorem xlShup (t : Trig) : Statement (.xlShup t) := fun h =>
  ⟨trig_round .xl 0x01 t _ (by decide) rfl h, (wordOf _).isLt⟩

theorem xlShdn (t : Trig) : Statement (.xlShdn t) := fun h =>
  ⟨trig_round .xl 0x02 t _ (by decide) rfl h, (wordOf _).isLt⟩

theorem xlXorsh (t : Trig) : Statement (.xlXorsh t) := fun h =>
  ⟨trig_round .xl 0x03 t _ (by decide) rfl h, (wordOf _).isLt⟩

theorem xlBcast (t : Trig) : Statement (.xlBcast t) := fun h =>
  ⟨trig_round .xl 0x04 t _ (by decide) rfl h, (wordOf _).isLt⟩

theorem xlBallot (t : Trig) : Statement (.xlBallot t) := fun h =>
  ⟨trig_round .xl 0x08 t _ (by decide) rfl h, (wordOf _).isLt⟩

theorem xlAnyl (t : Trig) : Statement (.xlAnyl t) := fun h =>
  ⟨trig_round .xl 0x09 t _ (by decide) rfl h, (wordOf _).isLt⟩

theorem xlAlll (t : Trig) : Statement (.xlAlll t) := fun h =>
  ⟨trig_round .xl 0x0A t _ (by decide) rfl h, (wordOf _).isLt⟩

theorem xlElect (t : Trig) : Statement (.xlElect t) := fun h =>
  ⟨trig_round .xl 0x0B t _ (by decide) rfl h, (wordOf _).isLt⟩

theorem xlLanemask (t : Trig) : Statement (.xlLanemask t) := fun h =>
  ⟨trig_round .xl 0x0C t _ (by decide) rfl h, (wordOf _).isLt⟩

theorem xlPopl (t : Trig) : Statement (.xlPopl t) := fun h =>
  ⟨trig_round .xl 0x0D t _ (by decide) rfl h, (wordOf _).isLt⟩

theorem xlRmin (t : Trig) : Statement (.xlRmin t) := fun h =>
  ⟨trig_round .xl 0x10 t _ (by decide) rfl h, (wordOf _).isLt⟩

theorem xlRmax (t : Trig) : Statement (.xlRmax t) := fun h =>
  ⟨trig_round .xl 0x11 t _ (by decide) rfl h, (wordOf _).isLt⟩

theorem xlRadd (t : Trig) : Statement (.xlRadd t) := fun h =>
  ⟨trig_round .xl 0x12 t _ (by decide) rfl h, (wordOf _).isLt⟩

theorem xlScanadd (t : Trig) : Statement (.xlScanadd t) := fun h =>
  ⟨trig_round .xl 0x13 t _ (by decide) rfl h, (wordOf _).isLt⟩

theorem lsLd (t : Trig) : Statement (.lsLd t) := fun h =>
  ⟨trig_round .ls 0x00 t _ (by decide) rfl h, (wordOf _).isLt⟩

theorem lsSt (t : Trig) : Statement (.lsSt t) := fun h =>
  ⟨trig_round .ls 0x01 t _ (by decide) rfl h, (wordOf _).isLt⟩

theorem lsLdv (t : Trig) : Statement (.lsLdv t) := fun h =>
  ⟨trig_round .ls 0x02 t _ (by decide) rfl h, (wordOf _).isLt⟩

theorem lsStv (t : Trig) : Statement (.lsStv t) := fun h =>
  ⟨trig_round .ls 0x03 t _ (by decide) rfl h, (wordOf _).isLt⟩

theorem lsLdacq (t : Trig) : Statement (.lsLdacq t) := fun h =>
  ⟨trig_round .ls 0x04 t _ (by decide) rfl h, (wordOf _).isLt⟩

theorem lsStrel (t : Trig) : Statement (.lsStrel t) := fun h =>
  ⟨trig_round .ls 0x05 t _ (by decide) rfl h, (wordOf _).isLt⟩

theorem lsPf (t : Trig) : Statement (.lsPf t) := fun h =>
  ⟨trig_round .ls 0x06 t _ (by decide) rfl h, (wordOf _).isLt⟩

theorem lsLdnc (t : Trig) : Statement (.lsLdnc t) := fun h =>
  ⟨trig_round .ls 0x07 t _ (by decide) rfl h, (wordOf _).isLt⟩

theorem lsStMc (t : Trig) : Statement (.lsStMc t) := fun h =>
  ⟨trig_round .ls 0x08 t _ (by decide) rfl h, (wordOf _).isLt⟩

theorem lsAadd (t : Trig) : Statement (.lsAadd t) := fun h =>
  ⟨trig_round .ls 0x10 t _ (by decide) rfl h, (wordOf _).isLt⟩

theorem lsAsub (t : Trig) : Statement (.lsAsub t) := fun h =>
  ⟨trig_round .ls 0x11 t _ (by decide) rfl h, (wordOf _).isLt⟩

theorem lsAmin (t : Trig) : Statement (.lsAmin t) := fun h =>
  ⟨trig_round .ls 0x12 t _ (by decide) rfl h, (wordOf _).isLt⟩

theorem lsAmax (t : Trig) : Statement (.lsAmax t) := fun h =>
  ⟨trig_round .ls 0x13 t _ (by decide) rfl h, (wordOf _).isLt⟩

theorem lsAand (t : Trig) : Statement (.lsAand t) := fun h =>
  ⟨trig_round .ls 0x14 t _ (by decide) rfl h, (wordOf _).isLt⟩

theorem lsAor (t : Trig) : Statement (.lsAor t) := fun h =>
  ⟨trig_round .ls 0x15 t _ (by decide) rfl h, (wordOf _).isLt⟩

theorem lsAxor (t : Trig) : Statement (.lsAxor t) := fun h =>
  ⟨trig_round .ls 0x16 t _ (by decide) rfl h, (wordOf _).isLt⟩

theorem lsAxch (t : Trig) : Statement (.lsAxch t) := fun h =>
  ⟨trig_round .ls 0x17 t _ (by decide) rfl h, (wordOf _).isLt⟩

theorem lsAcas (t : Trig) : Statement (.lsAcas t) := fun h =>
  ⟨trig_round .ls 0x18 t _ (by decide) rfl h, (wordOf _).isLt⟩

theorem lsAaddf (t : Trig) : Statement (.lsAaddf t) := fun h =>
  ⟨trig_round .ls 0x19 t _ (by decide) rfl h, (wordOf _).isLt⟩

theorem lsAaddAcq (t : Trig) : Statement (.lsAaddAcq t) := fun h =>
  ⟨trig_round .ls 0x20 t _ (by decide) rfl h, (wordOf _).isLt⟩

theorem lsAsubAcq (t : Trig) : Statement (.lsAsubAcq t) := fun h =>
  ⟨trig_round .ls 0x21 t _ (by decide) rfl h, (wordOf _).isLt⟩

theorem lsAminAcq (t : Trig) : Statement (.lsAminAcq t) := fun h =>
  ⟨trig_round .ls 0x22 t _ (by decide) rfl h, (wordOf _).isLt⟩

theorem lsAmaxAcq (t : Trig) : Statement (.lsAmaxAcq t) := fun h =>
  ⟨trig_round .ls 0x23 t _ (by decide) rfl h, (wordOf _).isLt⟩

theorem lsAandAcq (t : Trig) : Statement (.lsAandAcq t) := fun h =>
  ⟨trig_round .ls 0x24 t _ (by decide) rfl h, (wordOf _).isLt⟩

theorem lsAorAcq (t : Trig) : Statement (.lsAorAcq t) := fun h =>
  ⟨trig_round .ls 0x25 t _ (by decide) rfl h, (wordOf _).isLt⟩

theorem lsAxorAcq (t : Trig) : Statement (.lsAxorAcq t) := fun h =>
  ⟨trig_round .ls 0x26 t _ (by decide) rfl h, (wordOf _).isLt⟩

theorem lsAxchAcq (t : Trig) : Statement (.lsAxchAcq t) := fun h =>
  ⟨trig_round .ls 0x27 t _ (by decide) rfl h, (wordOf _).isLt⟩

theorem lsAcasAcq (t : Trig) : Statement (.lsAcasAcq t) := fun h =>
  ⟨trig_round .ls 0x28 t _ (by decide) rfl h, (wordOf _).isLt⟩

theorem lsAaddfAcq (t : Trig) : Statement (.lsAaddfAcq t) := fun h =>
  ⟨trig_round .ls 0x29 t _ (by decide) rfl h, (wordOf _).isLt⟩

theorem lsAaddRel (t : Trig) : Statement (.lsAaddRel t) := fun h =>
  ⟨trig_round .ls 0x30 t _ (by decide) rfl h, (wordOf _).isLt⟩

theorem lsAsubRel (t : Trig) : Statement (.lsAsubRel t) := fun h =>
  ⟨trig_round .ls 0x31 t _ (by decide) rfl h, (wordOf _).isLt⟩

theorem lsAminRel (t : Trig) : Statement (.lsAminRel t) := fun h =>
  ⟨trig_round .ls 0x32 t _ (by decide) rfl h, (wordOf _).isLt⟩

theorem lsAmaxRel (t : Trig) : Statement (.lsAmaxRel t) := fun h =>
  ⟨trig_round .ls 0x33 t _ (by decide) rfl h, (wordOf _).isLt⟩

theorem lsAandRel (t : Trig) : Statement (.lsAandRel t) := fun h =>
  ⟨trig_round .ls 0x34 t _ (by decide) rfl h, (wordOf _).isLt⟩

theorem lsAorRel (t : Trig) : Statement (.lsAorRel t) := fun h =>
  ⟨trig_round .ls 0x35 t _ (by decide) rfl h, (wordOf _).isLt⟩

theorem lsAxorRel (t : Trig) : Statement (.lsAxorRel t) := fun h =>
  ⟨trig_round .ls 0x36 t _ (by decide) rfl h, (wordOf _).isLt⟩

theorem lsAxchRel (t : Trig) : Statement (.lsAxchRel t) := fun h =>
  ⟨trig_round .ls 0x37 t _ (by decide) rfl h, (wordOf _).isLt⟩

theorem lsAcasRel (t : Trig) : Statement (.lsAcasRel t) := fun h =>
  ⟨trig_round .ls 0x38 t _ (by decide) rfl h, (wordOf _).isLt⟩

theorem lsAaddfRel (t : Trig) : Statement (.lsAaddfRel t) := fun h =>
  ⟨trig_round .ls 0x39 t _ (by decide) rfl h, (wordOf _).isLt⟩

theorem lsAaddAr (t : Trig) : Statement (.lsAaddAr t) := fun h =>
  ⟨trig_round .ls 0x40 t _ (by decide) rfl h, (wordOf _).isLt⟩

theorem lsAsubAr (t : Trig) : Statement (.lsAsubAr t) := fun h =>
  ⟨trig_round .ls 0x41 t _ (by decide) rfl h, (wordOf _).isLt⟩

theorem lsAminAr (t : Trig) : Statement (.lsAminAr t) := fun h =>
  ⟨trig_round .ls 0x42 t _ (by decide) rfl h, (wordOf _).isLt⟩

theorem lsAmaxAr (t : Trig) : Statement (.lsAmaxAr t) := fun h =>
  ⟨trig_round .ls 0x43 t _ (by decide) rfl h, (wordOf _).isLt⟩

theorem lsAandAr (t : Trig) : Statement (.lsAandAr t) := fun h =>
  ⟨trig_round .ls 0x44 t _ (by decide) rfl h, (wordOf _).isLt⟩

theorem lsAorAr (t : Trig) : Statement (.lsAorAr t) := fun h =>
  ⟨trig_round .ls 0x45 t _ (by decide) rfl h, (wordOf _).isLt⟩

theorem lsAxorAr (t : Trig) : Statement (.lsAxorAr t) := fun h =>
  ⟨trig_round .ls 0x46 t _ (by decide) rfl h, (wordOf _).isLt⟩

theorem lsAxchAr (t : Trig) : Statement (.lsAxchAr t) := fun h =>
  ⟨trig_round .ls 0x47 t _ (by decide) rfl h, (wordOf _).isLt⟩

theorem lsAcasAr (t : Trig) : Statement (.lsAcasAr t) := fun h =>
  ⟨trig_round .ls 0x48 t _ (by decide) rfl h, (wordOf _).isLt⟩

theorem lsAaddfAr (t : Trig) : Statement (.lsAaddfAr t) := fun h =>
  ⟨trig_round .ls 0x49 t _ (by decide) rfl h, (wordOf _).isLt⟩

theorem spSpcfg (t : Trig) : Statement (.spSpcfg t) := fun h =>
  ⟨trig_round .sp 0x00 t _ (by decide) rfl h, (wordOf _).isLt⟩

theorem spSpbase (t : Trig) : Statement (.spSpbase t) := fun h =>
  ⟨trig_round .sp 0x01 t _ (by decide) rfl h, (wordOf _).isLt⟩

theorem spSpstart (t : Trig) : Statement (.spSpstart t) := fun h =>
  ⟨trig_round .sp 0x02 t _ (by decide) rfl h, (wordOf _).isLt⟩

theorem spSpskip (t : Trig) : Statement (.spSpskip t) := fun h =>
  ⟨trig_round .sp 0x03 t _ (by decide) rfl h, (wordOf _).isLt⟩

theorem spSpstat (t : Trig) : Statement (.spSpstat t) := fun h =>
  ⟨trig_round .sp 0x04 t _ (by decide) rfl h, (wordOf _).isLt⟩

theorem spSpstop (t : Trig) : Statement (.spSpstop t) := fun h =>
  ⟨trig_round .sp 0x05 t _ (by decide) rfl h, (wordOf _).isLt⟩

theorem cpCpsrc (t : Trig) : Statement (.cpCpsrc t) := fun h =>
  ⟨trig_round .cp 0x00 t _ (by decide) rfl h, (wordOf _).isLt⟩

theorem cpCpdst (t : Trig) : Statement (.cpCpdst t) := fun h =>
  ⟨trig_round .cp 0x01 t _ (by decide) rfl h, (wordOf _).isLt⟩

theorem cpCpshape (t : Trig) : Statement (.cpCpshape t) := fun h =>
  ⟨trig_round .cp 0x02 t _ (by decide) rfl h, (wordOf _).isLt⟩

theorem cpCpgo (t : Trig) : Statement (.cpCpgo t) := fun h =>
  ⟨trig_round .cp 0x03 t _ (by decide) rfl h, (wordOf _).isLt⟩

theorem cpCpwm (t : Trig) : Statement (.cpCpwm t) := fun h =>
  ⟨trig_round .cp 0x04 t _ (by decide) rfl h, (wordOf _).isLt⟩

theorem cpCpstat (t : Trig) : Statement (.cpCpstat t) := fun h =>
  ⟨trig_round .cp 0x05 t _ (by decide) rfl h, (wordOf _).isLt⟩

theorem cpCpabort (t : Trig) : Statement (.cpCpabort t) := fun h =>
  ⟨trig_round .cp 0x06 t _ (by decide) rfl h, (wordOf _).isLt⟩

theorem cpCphalo (t : Trig) : Statement (.cpCphalo t) := fun h =>
  ⟨trig_round .cp 0x07 t _ (by decide) rfl h, (wordOf _).isLt⟩

theorem cpCpring (t : Trig) : Statement (.cpCpring t) := fun h =>
  ⟨trig_round .cp 0x08 t _ (by decide) rfl h, (wordOf _).isLt⟩

theorem mxMxres (t : Trig) : Statement (.mxMxres t) := fun h =>
  ⟨trig_round .mx 0x00 t _ (by decide) rfl h, (wordOf _).isLt⟩

theorem mxMxrel (t : Trig) : Statement (.mxMxrel t) := fun h =>
  ⟨trig_round .mx 0x01 t _ (by decide) rfl h, (wordOf _).isLt⟩

theorem mxMxcop (t : Trig) : Statement (.mxMxcop t) := fun h =>
  ⟨trig_round .mx 0x02 t _ (by decide) rfl h, (wordOf _).isLt⟩

theorem mxMxpass (t : Trig) : Statement (.mxMxpass t) := fun h =>
  ⟨trig_round .mx 0x03 t _ (by decide) rfl h, (wordOf _).isLt⟩

theorem mxMxdrain (t : Trig) : Statement (.mxMxdrain t) := fun h =>
  ⟨trig_round .mx 0x04 t _ (by decide) rfl h, (wordOf _).isLt⟩

theorem mxMxsave (t : Trig) : Statement (.mxMxsave t) := fun h =>
  ⟨trig_round .mx 0x05 t _ (by decide) rfl h, (wordOf _).isLt⟩

theorem mxMxload (t : Trig) : Statement (.mxMxload t) := fun h =>
  ⟨trig_round .mx 0x06 t _ (by decide) rfl h, (wordOf _).isLt⟩

theorem mxMxstat (t : Trig) : Statement (.mxMxstat t) := fun h =>
  ⟨trig_round .mx 0x07 t _ (by decide) rfl h, (wordOf _).isLt⟩

theorem mxMxdrainAcc (t : Trig) : Statement (.mxMxdrainAcc t) := fun h =>
  ⟨trig_round .mx 0x08 t _ (by decide) rfl h, (wordOf _).isLt⟩

theorem brJmp (t : Trig) : Statement (.brJmp t) := fun h =>
  ⟨trig_round .br 0x00 t _ (by decide) rfl h, (wordOf _).isLt⟩

theorem brBra (t : Trig) : Statement (.brBra t) := fun h =>
  ⟨trig_round .br 0x01 t _ (by decide) rfl h, (wordOf _).isLt⟩

theorem brBrz (t : Trig) : Statement (.brBrz t) := fun h =>
  ⟨trig_round .br 0x02 t _ (by decide) rfl h, (wordOf _).isLt⟩

theorem brBrall (t : Trig) : Statement (.brBrall t) := fun h =>
  ⟨trig_round .br 0x03 t _ (by decide) rfl h, (wordOf _).isLt⟩

theorem brCall (t : Trig) : Statement (.brCall t) := fun h =>
  ⟨trig_round .br 0x04 t _ (by decide) rfl h, (wordOf _).isLt⟩

theorem brRet (t : Trig) : Statement (.brRet t) := fun h =>
  ⟨trig_round .br 0x05 t _ (by decide) rfl h, (wordOf _).isLt⟩

theorem brLoopi (t : Trig) : Statement (.brLoopi t) := fun h =>
  ⟨trig_round .br 0x06 t _ (by decide) rfl h, (wordOf _).isLt⟩

theorem brLoop (t : Trig) : Statement (.brLoop t) := fun h =>
  ⟨trig_round .br 0x07 t _ (by decide) rfl h, (wordOf _).isLt⟩

theorem brHalt (t : Trig) : Statement (.brHalt t) := fun h =>
  ⟨trig_round .br 0x08 t _ (by decide) rfl h, (wordOf _).isLt⟩

theorem brYield (t : Trig) : Statement (.brYield t) := fun h =>
  ⟨trig_round .br 0x09 t _ (by decide) rfl h, (wordOf _).isLt⟩

theorem syBar (t : Trig) : Statement (.syBar t) := fun h =>
  ⟨trig_round .sy 0x00 t _ (by decide) rfl h, (wordOf _).isLt⟩

theorem syBarw (t : Trig) : Statement (.syBarw t) := fun h =>
  ⟨trig_round .sy 0x01 t _ (by decide) rfl h, (wordOf _).isLt⟩

theorem syBarar (t : Trig) : Statement (.syBarar t) := fun h =>
  ⟨trig_round .sy 0x02 t _ (by decide) rfl h, (wordOf _).isLt⟩

theorem syCbar (t : Trig) : Statement (.syCbar t) := fun h =>
  ⟨trig_round .sy 0x03 t _ (by decide) rfl h, (wordOf _).isLt⟩

theorem syFence (t : Trig) : Statement (.syFence t) := fun h =>
  ⟨trig_round .sy 0x04 t _ (by decide) rfl h, (wordOf _).isLt⟩

theorem syAcq (t : Trig) : Statement (.syAcq t) := fun h =>
  ⟨trig_round .sy 0x05 t _ (by decide) rfl h, (wordOf _).isLt⟩

theorem syRel (t : Trig) : Statement (.syRel t) := fun h =>
  ⟨trig_round .sy 0x06 t _ (by decide) rfl h, (wordOf _).isLt⟩

theorem syTwait (t : Trig) : Statement (.syTwait t) := fun h =>
  ⟨trig_round .sy 0x07 t _ (by decide) rfl h, (wordOf _).isLt⟩

theorem syTread (t : Trig) : Statement (.syTread t) := fun h =>
  ⟨trig_round .sy 0x08 t _ (by decide) rfl h, (wordOf _).isLt⟩

theorem syMwait (t : Trig) : Statement (.syMwait t) := fun h =>
  ⟨trig_round .sy 0x09 t _ (by decide) rfl h, (wordOf _).isLt⟩

theorem syWmwait (t : Trig) : Statement (.syWmwait t) := fun h =>
  ⟨trig_round .sy 0x0A t _ (by decide) rfl h, (wordOf _).isLt⟩

theorem sySleep (t : Trig) : Statement (.sySleep t) := fun h =>
  ⟨trig_round .sy 0x0B t _ (by decide) rfl h, (wordOf _).isLt⟩

theorem syTick (t : Trig) : Statement (.syTick t) := fun h =>
  ⟨trig_round .sy 0x0C t _ (by decide) rfl h, (wordOf _).isLt⟩

theorem ssRdsys (t : Trig) : Statement (.ssRdsys t) := fun h =>
  ⟨trig_round .ss 0x00 t _ (by decide) rfl h, (wordOf _).isLt⟩

theorem ssWrsys (t : Trig) : Statement (.ssWrsys t) := fun h =>
  ⟨trig_round .ss 0x01 t _ (by decide) rfl h, (wordOf _).isLt⟩

theorem ssTrap (t : Trig) : Statement (.ssTrap t) := fun h =>
  ⟨trig_round .ss 0x02 t _ (by decide) rfl h, (wordOf _).isLt⟩

theorem ssRti (t : Trig) : Statement (.ssRti t) := fun h =>
  ⟨trig_round .ss 0x03 t _ (by decide) rfl h, (wordOf _).isLt⟩

theorem ssTlbinv (t : Trig) : Statement (.ssTlbinv t) := fun h =>
  ⟨trig_round .ss 0x04 t _ (by decide) rfl h, (wordOf _).isLt⟩

theorem ssReplay (t : Trig) : Statement (.ssReplay t) := fun h =>
  ⟨trig_round .ss 0x05 t _ (by decide) rfl h, (wordOf _).isLt⟩

theorem ssPub (t : Trig) : Statement (.ssPub t) := fun h =>
  ⟨trig_round .ss 0x06 t _ (by decide) rfl h, (wordOf _).isLt⟩

theorem ssIclock (t : Trig) : Statement (.ssIclock t) := fun h =>
  ⟨trig_round .ss 0x07 t _ (by decide) rfl h, (wordOf _).isLt⟩

theorem ssIcunlock (t : Trig) : Statement (.ssIcunlock t) := fun h =>
  ⟨trig_round .ss 0x08 t _ (by decide) rfl h, (wordOf _).isLt⟩

theorem ssCtxsave (t : Trig) : Statement (.ssCtxsave t) := fun h =>
  ⟨trig_round .ss 0x09 t _ (by decide) rfl h, (wordOf _).isLt⟩

theorem ssCtxload (t : Trig) : Statement (.ssCtxload t) := fun h =>
  ⟨trig_round .ss 0x0A t _ (by decide) rfl h, (wordOf _).isLt⟩

theorem lnPush (t : Trig) : Statement (.lnPush t) := fun h =>
  ⟨trig_round .ln 0x00 t _ (by decide) rfl h, (wordOf _).isLt⟩

theorem lnStat (t : Trig) : Statement (.lnStat t) := fun h =>
  ⟨trig_round .ln 0x01 t _ (by decide) rfl h, (wordOf _).isLt⟩

theorem lnCancel (t : Trig) : Statement (.lnCancel t) := fun h =>
  ⟨trig_round .ln 0x02 t _ (by decide) rfl h, (wordOf _).isLt⟩

theorem bundleIssue : Statement .bundleIssue := fun _ => ⟨rfl, by decide⟩

theorem fixedLatencyResultWrite : Statement .fixedLatencyResultWrite := fun _ => ⟨rfl, by decide⟩

theorem resultEntryFill : Statement .resultEntryFill := fun _ => ⟨rfl, by decide⟩

theorem instructionFetchFill : Statement .instructionFetchFill := fun _ => ⟨rfl, by decide⟩

theorem groupSlotFree : Statement .groupSlotFree := fun _ => ⟨rfl, by decide⟩

theorem gridCompletion : Statement .gridCompletion := fun _ => ⟨rfl, by decide⟩

theorem yieldExpiry : Statement .yieldExpiry := fun _ => ⟨rfl, by decide⟩

theorem pageWalkComplete : Statement .pageWalkComplete := fun _ => ⟨rfl, by decide⟩

theorem faultBufferDelivery : Statement .faultBufferDelivery := fun _ => ⟨rfl, by decide⟩

theorem deferredTrapEntry : Statement .deferredTrapEntry := fun _ => ⟨rfl, by decide⟩

theorem watermarkRelease : Statement .watermarkRelease := fun _ => ⟨rfl, by decide⟩

theorem hiddenWriteReveal : Statement .hiddenWriteReveal := fun _ => ⟨rfl, by decide⟩

theorem streamVectorFetch : Statement .streamVectorFetch := fun _ => ⟨rfl, by decide⟩

theorem copyElementLand : Statement .copyElementLand := fun _ => ⟨rfl, by decide⟩

theorem copyCseqAdvance : Statement .copyCseqAdvance := fun _ => ⟨rfl, by decide⟩

theorem mxPassStart : Statement .mxPassStart := fun _ => ⟨rfl, by decide⟩

theorem mxPassRetire : Statement .mxPassRetire := fun _ => ⟨rfl, by decide⟩

theorem mxDrainStart : Statement .mxDrainStart := fun _ => ⟨rfl, by decide⟩

theorem mxDrainRetire : Statement .mxDrainRetire := fun _ => ⟨rfl, by decide⟩

theorem mxloadStart : Statement .mxloadStart := fun _ => ⟨rfl, by decide⟩

theorem mxloadRetire : Statement .mxloadRetire := fun _ => ⟨rfl, by decide⟩

theorem releaseComplete : Statement .releaseComplete := fun _ => ⟨rfl, by decide⟩

theorem barrierArrival : Statement .barrierArrival := fun _ => ⟨rfl, by decide⟩

theorem clusterBarrierArrival : Statement .clusterBarrierArrival := fun _ => ⟨rfl, by decide⟩

theorem twaitFill : Statement .twaitFill := fun _ => ⟨rfl, by decide⟩

theorem mwaitFill : Statement .mwaitFill := fun _ => ⟨rfl, by decide⟩

theorem mwaitHostPoll : Statement .mwaitHostPoll := fun _ => ⟨rfl, by decide⟩

theorem wmwaitFill : Statement .wmwaitFill := fun _ => ⟨rfl, by decide⟩

theorem sleepExpiry : Statement .sleepExpiry := fun _ => ⟨rfl, by decide⟩

theorem replayWalk : Statement .replayWalk := fun _ => ⟨rfl, by decide⟩

theorem replayComplete : Statement .replayComplete := fun _ => ⟨rfl, by decide⟩

theorem tlbinvComplete : Statement .tlbinvComplete := fun _ => ⟨rfl, by decide⟩

theorem pubComplete : Statement .pubComplete := fun _ => ⟨rfl, by decide⟩

theorem lnPushAccept : Statement .lnPushAccept := fun _ => ⟨rfl, by decide⟩

theorem segmentLink : Statement .segmentLink := fun _ => ⟨rfl, by decide⟩

theorem segmentRefill : Statement .segmentRefill := fun _ => ⟨rfl, by decide⟩

theorem dispatcherTake : Statement .dispatcherTake := fun _ => ⟨rfl, by decide⟩

theorem teamPlacement : Statement .teamPlacement := fun _ => ⟨rfl, by decide⟩

theorem fragmentationWaitExpiry : Statement .fragmentationWaitExpiry := fun _ => ⟨rfl, by decide⟩

theorem timeSliceExpiry : Statement .timeSliceExpiry := fun _ => ⟨rfl, by decide⟩

theorem swapOut : Statement .swapOut := fun _ => ⟨rfl, by decide⟩

theorem teamSave : Statement .teamSave := fun _ => ⟨rfl, by decide⟩

theorem teamRestore : Statement .teamRestore := fun _ => ⟨rfl, by decide⟩

theorem swappedParentWake : Statement .swappedParentWake := fun _ => ⟨rfl, by decide⟩

theorem hcqDoorbell : Statement .hcqDoorbell := fun _ => ⟨rfl, by decide⟩

theorem ringCiWrite : Statement .ringCiWrite := fun _ => ⟨rfl, by decide⟩

theorem nop : Statement .nop := fun _ => ⟨rfl, by decide⟩

theorem launch : Statement .launch := fun _ => ⟨rfl, by decide⟩

theorem waitctr : Statement .waitctr := fun _ => ⟨rfl, by decide⟩

theorem signal : Statement .signal := fun _ => ⟨rfl, by decide⟩

theorem preempt : Statement .preempt := fun _ => ⟨rfl, by decide⟩

theorem commandQueueResume : Statement .commandQueueResume := fun _ => ⟨rfl, by decide⟩

theorem frameReceive : Statement .frameReceive := fun _ => ⟨rfl, by decide⟩

theorem ingestWpAdvance : Statement .ingestWpAdvance := fun _ => ⟨rfl, by decide⟩

theorem pauseXoffRefresh : Statement .pauseXoffRefresh := fun _ => ⟨rfl, by decide⟩

theorem ringConfigure : Statement .ringConfigure := fun _ => ⟨rfl, by decide⟩

theorem flowRuleWrite : Statement .flowRuleWrite := fun _ => ⟨rfl, by decide⟩

theorem frameAdvance : Statement .frameAdvance := fun _ => ⟨rfl, by decide⟩

theorem thermalLimitRaise : Statement .thermalLimitRaise := fun _ => ⟨rfl, by decide⟩

theorem skenClear : Statement .skenClear := fun _ => ⟨rfl, by decide⟩

theorem gtimeTick : Statement .gtimeTick := fun _ => ⟨rfl, by decide⟩

theorem gtimeResync : Statement .gtimeResync := fun _ => ⟨rfl, by decide⟩

theorem partitionQuotaWrite : Statement .partitionQuotaWrite := fun _ => ⟨rfl, by decide⟩

theorem ptrootWrite : Statement .ptrootWrite := fun _ => ⟨rfl, by decide⟩

theorem tvecSavebaseWrite : Statement .tvecSavebaseWrite := fun _ => ⟨rfl, by decide⟩

theorem pferrClear : Statement .pferrClear := fun _ => ⟨rfl, by decide⟩

theorem bar2Access : Statement .bar2Access := fun _ => ⟨rfl, by decide⟩

theorem bar2Atomicop : Statement .bar2Atomicop := fun _ => ⟨rfl, by decide⟩

theorem registerWrite : Statement .registerWrite := fun _ => ⟨rfl, by decide⟩

theorem pmselWrite : Statement .pmselWrite := fun _ => ⟨rfl, by decide⟩

theorem fragmentationCounterClear : Statement .fragmentationCounterClear := fun _ => ⟨rfl, by decide⟩

theorem agemonUpdate : Statement .agemonUpdate := fun _ => ⟨rfl, by decide⟩

theorem mrExtendRequest : Statement .mrExtendRequest := fun _ => ⟨rfl, by decide⟩

theorem clockPlanWrite : Statement .clockPlanWrite := fun _ => ⟨rfl, by decide⟩

theorem vcoreCurrentLimit : Statement .vcoreCurrentLimit := fun _ => ⟨rfl, by decide⟩

theorem vcoreLimitRelease : Statement .vcoreLimitRelease := fun _ => ⟨rfl, by decide⟩

theorem fabricPlaneFailover : Statement .fabricPlaneFailover := fun _ => ⟨rfl, by decide⟩

theorem fabricAccessTimeout : Statement .fabricAccessTimeout := fun _ => ⟨rfl, by decide⟩

theorem fabidw : Statement .fabidw := fun _ => ⟨rfl, by decide⟩

theorem planemap : Statement .planemap := fun _ => ⟨rfl, by decide⟩

theorem thlimit : Statement .thlimit := fun _ => ⟨rfl, by decide⟩

theorem newtHeartbeat : Statement .newtHeartbeat := fun _ => ⟨rfl, by decide⟩

theorem heartbeatTimeout : Statement .heartbeatTimeout := fun _ => ⟨rfl, by decide⟩

theorem modetabWrite : Statement .modetabWrite := fun _ => ⟨rfl, by decide⟩

theorem modetabApply : Statement .modetabApply := fun _ => ⟨rfl, by decide⟩

theorem molt : Statement .molt := fun _ => ⟨rfl, by decide⟩

theorem moltVerify : Statement .moltVerify := fun _ => ⟨rfl, by decide⟩

theorem moltQuiesce : Statement .moltQuiesce := fun _ => ⟨rfl, by decide⟩

theorem moltExport : Statement .moltExport := fun _ => ⟨rfl, by decide⟩

theorem moltSwitch : Statement .moltSwitch := fun _ => ⟨rfl, by decide⟩

theorem moltImport : Statement .moltImport := fun _ => ⟨rfl, by decide⟩

theorem moltFallback : Statement .moltFallback := fun _ => ⟨rfl, by decide⟩

theorem dieRepair : Statement .dieRepair := fun _ => ⟨rfl, by decide⟩

theorem dieRepairComplete : Statement .dieRepairComplete := fun _ => ⟨rfl, by decide⟩

theorem fullBringup : Statement .fullBringup := fun _ => ⟨rfl, by decide⟩

theorem packageReset : Statement .packageReset := fun _ => ⟨rfl, by decide⟩

theorem quoteRequest : Statement .quoteRequest := fun _ => ⟨rfl, by decide⟩

theorem fbpop : Statement .fbpop := fun _ => ⟨rfl, by decide⟩

theorem fbdeliv : Statement .fbdeliv := fun _ => ⟨rfl, by decide⟩

theorem fbrpl : Statement .fbrpl := fun _ => ⟨rfl, by decide⟩

theorem hlaunch : Statement .hlaunch := fun _ => ⟨rfl, by decide⟩

theorem hpreempt : Statement .hpreempt := fun _ => ⟨rfl, by decide⟩

theorem hoqdone : Statement .hoqdone := fun _ => ⟨rfl, by decide⟩

theorem plsw : Statement .plsw := fun _ => ⟨rfl, by decide⟩

theorem plqfill : Statement .plqfill := fun _ => ⟨rfl, by decide⟩

theorem hcancpop : Statement .hcancpop := fun _ => ⟨rfl, by decide⟩

theorem hfin : Statement .hfin := fun _ => ⟨rfl, by decide⟩

theorem fabricRemoteAccess : Statement .fabricRemoteAccess := fun _ => ⟨rfl, by decide⟩

theorem streamVectorWrite : Statement .streamVectorWrite := fun _ => ⟨rfl, by decide⟩

theorem mxsaveStart : Statement .mxsaveStart := fun _ => ⟨rfl, by decide⟩

theorem uncorrectableError : Statement .uncorrectableError := fun _ => ⟨rfl, by decide⟩

theorem fabricPlaneReturn : Statement .fabricPlaneReturn := fun _ => ⟨rfl, by decide⟩

theorem coreCycle : Statement .coreCycle := fun _ => ⟨rfl, by decide⟩

end Laws.RoundTrip

end Sys2Proof
end

