-- ==== Sys2Proof/Laws/Runs.lean ====
section
/-! SUPPORT. How a move that a bundle carries out runs: each frame of Machine/Bundle.lean, said once. -/

namespace Sys2Proof.Machine

/-- A group changed in two ways that agree on it. -/
theorem modGroup_congr {s : State} {c sl : Nat} {f g : Group → Group} (h : f (group s c sl) = g (group s c sl)) :
    modGroup s c sl f = modGroup s c sl g := by
  unfold modGroup
  rw [h]

/-- A core changed in two ways that agree on it. -/
theorem modCore_congr {s : State} {c : Nat} {f g : Core → Core} (h : f (core s c) = g (core s c)) :
    modCore s c f = modCore s c g := by
  unfold modCore
  rw [h]

/-- The source that the word of a trigger holds is the trigger's. -/
theorem wordSrc_trig {i : Instr} {u : UnitCls} {op : Nat} {t : Trig} (h : trigOf i = some (u, op, t)) :
    (fieldsOf (BitVec.ofNat 40 (encode i))).src = t.src := by
  have he : encode i = (wordOf (trigFields u op t)).toNat := by
    cases i <;> cases h <;> rfl
  rw [he, BitVec.ofNat_toNat, BitVec.setWidth_eq, fieldsOf_wordOf]
  rfl

/-- The source that the word of a move to a register file or to null holds. -/
theorem wordSrc_move (src : Src) (d : Dst) : (fieldsOf (BitVec.ofNat 40 (encode (.move src d)))).src = src := by
  rw [encode, BitVec.ofNat_toNat, BitVec.setWidth_eq, fieldsOf_wordOf]
  cases d <;> rfl

/-- The source that the word of a move to a port holds. -/
theorem wordSrc_port (src : Src) (u : BitVec 5) (p : PortName) :
    (fieldsOf (BitVec.ofNat 40 (encode (.portLatch src u p)))).src = src := by
  rw [encode, BitVec.ofNat_toNat, BitVec.setWidth_eq, fieldsOf_wordOf]

/-- A move that is being carried out runs in its slot. -/
theorem runMove_carried {i : Instr} {s : State} {c sl k : Nat} {src : Src} {f : State → Nat → Nat → Nat → State}
    (h : Carried s c sl k src) (hi : (fieldsOf (BitVec.ofNat 40 (encode i))).src = src) :
    runMove i s f = f s c sl k := by
  obtain ⟨h1, h2, h3⟩ := h
  unfold runMove
  simp only [h1, hi]
  rw [if_pos (by rw [h2]; rfl)]
  simp only [h2, h3]
  exact if_neg Bool.false_ne_true

/-- A trigger that is being carried out with a lane enabled runs with its operands. -/
theorem runTrig_carried {i : Instr} {cls u : UnitCls} {op : Nat} {t : Trig} {s : State} {c sl k : Nat}
    {f : State → Nat → Nat → Nat → Opnd → State} (ht : trigOf i = some (u, op, t)) (h : Carried s c sl k t.src)
    (hen : moveLanes s c sl k ≠ 0) :
    runTrig i cls t s f = f s c sl k (operands s c sl k (unitCode cls t)) := by
  unfold runTrig
  rw [runMove_carried h (wordSrc_trig ht)]
  exact if_neg hen

/-- A trigger with no enabled lane starts nothing. -/
theorem runTrig_none {i : Instr} {cls u : UnitCls} {op : Nat} {t : Trig} {s : State} {c sl k : Nat}
    {f : State → Nat → Nat → Nat → Opnd → State} (ht : trigOf i = some (u, op, t)) (h : Carried s c sl k t.src)
    (hen : moveLanes s c sl k = 0) : runTrig i cls t s f = s := by
  unfold runTrig
  rw [runMove_carried h (wordSrc_trig ht)]
  exact if_pos hen

/-- A fixed-latency operation that is being carried out adds one operation in flight. -/
theorem runFixed_carried {i : Instr} {cls u : UnitCls} {op : Nat} {t : Trig} {n : Nat} {s : State} {c sl k : Nat}
    {f : Opnd → FixedRes} (ht : trigOf i = some (u, op, t)) (h : Carried s c sl k t.src)
    (hen : moveLanes s c sl k ≠ 0) :
    runFixed i cls t n s f = modGroup s c sl (fun g => { g with pipe := g.pipe ++ [
      { unit := unitCode cls t, hand := inHand g (unitCode cls t), due := cycleOf s c + n - 1, lanes := moveLanes s c sl k
        val := (f (operands s c sl k (unitCode cls t))).r, bval := (f (operands s c sl k (unitCode cls t))).b
        flags := (f (operands s c sl k (unitCode cls t))).fl, addr := g.bun.addr, slot := k, issued := cycleOf s c }] }) := by
  unfold runFixed
  rw [runTrig_carried ht h hen]
  rfl

/-- A br trigger that is being carried out sets what its bundle does at its end. -/
theorem runBr_carried {i : Instr} {u : UnitCls} {op : Nat} {t : Trig} {s : State} {c sl k : Nat}
    {f : BAddr → Opnd → Option BrAct} (ht : trigOf i = some (u, op, t)) (h : Carried s c sl k t.src)
    (hen : moveLanes s c sl k ≠ 0) :
    runBr i t s f = modGroup s c sl (fun g => { g with bun := { g.bun with
      br := f g.bun.addr (operands s c sl k (unitCode .br t)) } }) := by
  unfold runBr
  rw [runTrig_carried ht h hen]

end Sys2Proof.Machine
end

