-- ==== Sys2Proof/Laws/Shape.lean ====
section
/-! SUPPORT. Every trigger runs in the frame of Machine/Bundle.lean, and those of ia, fv, sf and xl in the frame of a
fixed-latency operation. -/

namespace Sys2Proof.Machine

/-- The latency of an operation of a fixed-latency unit, by class and code (R84). -/
def fixedLatency (u : UnitCls) (op : Nat) : Option Nat :=
  match u with
  | .ia => some (if op = 12 then 2 else if op = 9 ∨ op = 10 ∨ op = 11 ∨ op = 13 then 3 else 1)
  | .fv => some (if op = 8 ∨ op = 9 then 1 else if op = 10 then 2 else if op ≤ 11 then 4 else if op = 18 ∨ op = 19 then 3
      else if op ≤ 25 then 2 else if op = 31 then 6 else if op ≤ 30 then 4 else if op ≤ 35 then 2 else 4)
  | .sf => some (if op ≤ 11 then 12 else 24)
  | .xl => some (if op ≤ 13 then 2 else 4)
  | _ => none

theorem frame_iaAdd (t : Trig) : ∃ f, ∀ s, exec (.iaAdd t) s = .next (runFixed (.iaAdd t) .ia t 1 s f) := by
  apply Exists.intro; intro s; unfold exec; dsimp only; unfold execIaAdd runIa; with_reducible rfl

theorem frame_iaSub (t : Trig) : ∃ f, ∀ s, exec (.iaSub t) s = .next (runFixed (.iaSub t) .ia t 1 s f) := by
  apply Exists.intro; intro s; unfold exec; dsimp only; unfold execIaSub runIa; with_reducible rfl

theorem frame_iaRsub (t : Trig) : ∃ f, ∀ s, exec (.iaRsub t) s = .next (runFixed (.iaRsub t) .ia t 1 s f) := by
  apply Exists.intro; intro s; unfold exec; dsimp only; unfold execIaRsub runIa; with_reducible rfl

theorem frame_iaNeg (t : Trig) : ∃ f, ∀ s, exec (.iaNeg t) s = .next (runFixed (.iaNeg t) .ia t 1 s f) := by
  apply Exists.intro; intro s; unfold exec; dsimp only; unfold execIaNeg runIa; with_reducible rfl

theorem frame_iaAbs (t : Trig) : ∃ f, ∀ s, exec (.iaAbs t) s = .next (runFixed (.iaAbs t) .ia t 1 s f) := by
  apply Exists.intro; intro s; unfold exec; dsimp only; unfold execIaAbs runIa; with_reducible rfl

theorem frame_iaMin (t : Trig) : ∃ f, ∀ s, exec (.iaMin t) s = .next (runFixed (.iaMin t) .ia t 1 s f) := by
  apply Exists.intro; intro s; unfold exec; dsimp only; unfold execIaMin runIa; with_reducible rfl

theorem frame_iaMax (t : Trig) : ∃ f, ∀ s, exec (.iaMax t) s = .next (runFixed (.iaMax t) .ia t 1 s f) := by
  apply Exists.intro; intro s; unfold exec; dsimp only; unfold execIaMax runIa; with_reducible rfl

theorem frame_iaAddsat (t : Trig) : ∃ f, ∀ s, exec (.iaAddsat t) s = .next (runFixed (.iaAddsat t) .ia t 1 s f) := by
  apply Exists.intro; intro s; unfold exec; dsimp only; unfold execIaAddsat runIa; with_reducible rfl

theorem frame_iaSubsat (t : Trig) : ∃ f, ∀ s, exec (.iaSubsat t) s = .next (runFixed (.iaSubsat t) .ia t 1 s f) := by
  apply Exists.intro; intro s; unfold exec; dsimp only; unfold execIaSubsat runIa; with_reducible rfl

theorem frame_iaMul (t : Trig) : ∃ f, ∀ s, exec (.iaMul t) s = .next (runFixed (.iaMul t) .ia t 3 s f) := by
  apply Exists.intro; intro s; unfold exec; dsimp only; unfold execIaMul runIa; with_reducible rfl

theorem frame_iaMulhi (t : Trig) : ∃ f, ∀ s, exec (.iaMulhi t) s = .next (runFixed (.iaMulhi t) .ia t 3 s f) := by
  apply Exists.intro; intro s; unfold exec; dsimp only; unfold execIaMulhi runIa; with_reducible rfl

theorem frame_iaMad (t : Trig) : ∃ f, ∀ s, exec (.iaMad t) s = .next (runFixed (.iaMad t) .ia t 3 s f) := by
  apply Exists.intro; intro s; unfold exec; dsimp only; unfold execIaMad runIa; with_reducible rfl

theorem frame_iaLea (t : Trig) : ∃ f, ∀ s, exec (.iaLea t) s = .next (runFixed (.iaLea t) .ia t 2 s f) := by
  apply Exists.intro; intro s; unfold exec; dsimp only; unfold execIaLea runIaWord; with_reducible rfl

theorem frame_iaHmix (t : Trig) : ∃ f, ∀ s, exec (.iaHmix t) s = .next (runFixed (.iaHmix t) .ia t 3 s f) := by
  apply Exists.intro; intro s; unfold exec; dsimp only; unfold execIaHmix runIaWord; with_reducible rfl

theorem frame_iaMov (t : Trig) : ∃ f, ∀ s, exec (.iaMov t) s = .next (runFixed (.iaMov t) .ia t 1 s f) := by
  apply Exists.intro; intro s; unfold exec; dsimp only; unfold execIaMov runIa; with_reducible rfl

theorem frame_iaAnd (t : Trig) : ∃ f, ∀ s, exec (.iaAnd t) s = .next (runFixed (.iaAnd t) .ia t 1 s f) := by
  apply Exists.intro; intro s; unfold exec; dsimp only; unfold execIaAnd runIa; with_reducible rfl

theorem frame_iaOr (t : Trig) : ∃ f, ∀ s, exec (.iaOr t) s = .next (runFixed (.iaOr t) .ia t 1 s f) := by
  apply Exists.intro; intro s; unfold exec; dsimp only; unfold execIaOr runIa; with_reducible rfl

theorem frame_iaXor (t : Trig) : ∃ f, ∀ s, exec (.iaXor t) s = .next (runFixed (.iaXor t) .ia t 1 s f) := by
  apply Exists.intro; intro s; unfold exec; dsimp only; unfold execIaXor runIa; with_reducible rfl

theorem frame_iaAndn (t : Trig) : ∃ f, ∀ s, exec (.iaAndn t) s = .next (runFixed (.iaAndn t) .ia t 1 s f) := by
  apply Exists.intro; intro s; unfold exec; dsimp only; unfold execIaAndn runIa; with_reducible rfl

theorem frame_iaNot (t : Trig) : ∃ f, ∀ s, exec (.iaNot t) s = .next (runFixed (.iaNot t) .ia t 1 s f) := by
  apply Exists.intro; intro s; unfold exec; dsimp only; unfold execIaNot runIa; with_reducible rfl

theorem frame_iaShl (t : Trig) : ∃ f, ∀ s, exec (.iaShl t) s = .next (runFixed (.iaShl t) .ia t 1 s f) := by
  apply Exists.intro; intro s; unfold exec; dsimp only; unfold execIaShl runIa; with_reducible rfl

theorem frame_iaShr (t : Trig) : ∃ f, ∀ s, exec (.iaShr t) s = .next (runFixed (.iaShr t) .ia t 1 s f) := by
  apply Exists.intro; intro s; unfold exec; dsimp only; unfold execIaShr runIa; with_reducible rfl

theorem frame_iaSar (t : Trig) : ∃ f, ∀ s, exec (.iaSar t) s = .next (runFixed (.iaSar t) .ia t 1 s f) := by
  apply Exists.intro; intro s; unfold exec; dsimp only; unfold execIaSar runIa; with_reducible rfl

theorem frame_iaRot (t : Trig) : ∃ f, ∀ s, exec (.iaRot t) s = .next (runFixed (.iaRot t) .ia t 1 s f) := by
  apply Exists.intro; intro s; unfold exec; dsimp only; unfold execIaRot runIa; with_reducible rfl

theorem frame_iaClz (t : Trig) : ∃ f, ∀ s, exec (.iaClz t) s = .next (runFixed (.iaClz t) .ia t 1 s f) := by
  apply Exists.intro; intro s; unfold exec; dsimp only; unfold execIaClz runIa; with_reducible rfl

theorem frame_iaCtz (t : Trig) : ∃ f, ∀ s, exec (.iaCtz t) s = .next (runFixed (.iaCtz t) .ia t 1 s f) := by
  apply Exists.intro; intro s; unfold exec; dsimp only; unfold execIaCtz runIa; with_reducible rfl

theorem frame_iaPop (t : Trig) : ∃ f, ∀ s, exec (.iaPop t) s = .next (runFixed (.iaPop t) .ia t 1 s f) := by
  apply Exists.intro; intro s; unfold exec; dsimp only; unfold execIaPop runIa; with_reducible rfl

theorem frame_iaBrev (t : Trig) : ∃ f, ∀ s, exec (.iaBrev t) s = .next (runFixed (.iaBrev t) .ia t 1 s f) := by
  apply Exists.intro; intro s; unfold exec; dsimp only; unfold execIaBrev runIa; with_reducible rfl

theorem frame_iaBfx (t : Trig) : ∃ f, ∀ s, exec (.iaBfx t) s = .next (runFixed (.iaBfx t) .ia t 1 s f) := by
  apply Exists.intro; intro s; unfold exec; dsimp only; unfold execIaBfx runIaWord; with_reducible rfl

theorem frame_iaBfi (t : Trig) : ∃ f, ∀ s, exec (.iaBfi t) s = .next (runFixed (.iaBfi t) .ia t 1 s f) := by
  apply Exists.intro; intro s; unfold exec; dsimp only; unfold execIaBfi runIaWord; with_reducible rfl

theorem frame_iaSel (t : Trig) : ∃ f, ∀ s, exec (.iaSel t) s = .next (runFixed (.iaSel t) .ia t 1 s f) := by
  apply Exists.intro; intro s; unfold exec; dsimp only; unfold execIaSel runIa; with_reducible rfl

theorem frame_iaCmpeq (t : Trig) : ∃ f, ∀ s, exec (.iaCmpeq t) s = .next (runFixed (.iaCmpeq t) .ia t 1 s f) := by
  apply Exists.intro; intro s; unfold exec; dsimp only; unfold execIaCmpeq runIa; with_reducible rfl

theorem frame_iaCmpne (t : Trig) : ∃ f, ∀ s, exec (.iaCmpne t) s = .next (runFixed (.iaCmpne t) .ia t 1 s f) := by
  apply Exists.intro; intro s; unfold exec; dsimp only; unfold execIaCmpne runIa; with_reducible rfl

theorem frame_iaCmplt (t : Trig) : ∃ f, ∀ s, exec (.iaCmplt t) s = .next (runFixed (.iaCmplt t) .ia t 1 s f) := by
  apply Exists.intro; intro s; unfold exec; dsimp only; unfold execIaCmplt runIa; with_reducible rfl

theorem frame_iaCmple (t : Trig) : ∃ f, ∀ s, exec (.iaCmple t) s = .next (runFixed (.iaCmple t) .ia t 1 s f) := by
  apply Exists.intro; intro s; unfold exec; dsimp only; unfold execIaCmple runIa; with_reducible rfl

theorem frame_iaCmpgt (t : Trig) : ∃ f, ∀ s, exec (.iaCmpgt t) s = .next (runFixed (.iaCmpgt t) .ia t 1 s f) := by
  apply Exists.intro; intro s; unfold exec; dsimp only; unfold execIaCmpgt runIa; with_reducible rfl

theorem frame_iaCmpge (t : Trig) : ∃ f, ∀ s, exec (.iaCmpge t) s = .next (runFixed (.iaCmpge t) .ia t 1 s f) := by
  apply Exists.intro; intro s; unfold exec; dsimp only; unfold execIaCmpge runIa; with_reducible rfl

theorem frame_fvFadd (t : Trig) : ∃ f, ∀ s, exec (.fvFadd t) s = .next (runFixed (.fvFadd t) .fv t 4 s f) := by
  apply Exists.intro; intro s; unfold exec; dsimp only; unfold execFvFadd runFloat runSlices; with_reducible rfl

theorem frame_fvFsub (t : Trig) : ∃ f, ∀ s, exec (.fvFsub t) s = .next (runFixed (.fvFsub t) .fv t 4 s f) := by
  apply Exists.intro; intro s; unfold exec; dsimp only; unfold execFvFsub runFloat runSlices; with_reducible rfl

theorem frame_fvFmul (t : Trig) : ∃ f, ∀ s, exec (.fvFmul t) s = .next (runFixed (.fvFmul t) .fv t 4 s f) := by
  apply Exists.intro; intro s; unfold exec; dsimp only; unfold execFvFmul runFloat runSlices; with_reducible rfl

theorem frame_fvFma (t : Trig) : ∃ f, ∀ s, exec (.fvFma t) s = .next (runFixed (.fvFma t) .fv t 4 s f) := by
  apply Exists.intro; intro s; unfold exec; dsimp only; unfold execFvFma runFloat runSlices; with_reducible rfl

theorem frame_fvFms (t : Trig) : ∃ f, ∀ s, exec (.fvFms t) s = .next (runFixed (.fvFms t) .fv t 4 s f) := by
  apply Exists.intro; intro s; unfold exec; dsimp only; unfold execFvFms runFloat runSlices; with_reducible rfl

theorem frame_fvFnma (t : Trig) : ∃ f, ∀ s, exec (.fvFnma t) s = .next (runFixed (.fvFnma t) .fv t 4 s f) := by
  apply Exists.intro; intro s; unfold exec; dsimp only; unfold execFvFnma runFloat runSlices; with_reducible rfl

theorem frame_fvFmin (t : Trig) : ∃ f, ∀ s, exec (.fvFmin t) s = .next (runFixed (.fvFmin t) .fv t 4 s f) := by
  apply Exists.intro; intro s; unfold exec; dsimp only; unfold execFvFmin runFloat runSlices; with_reducible rfl

theorem frame_fvFmax (t : Trig) : ∃ f, ∀ s, exec (.fvFmax t) s = .next (runFixed (.fvFmax t) .fv t 4 s f) := by
  apply Exists.intro; intro s; unfold exec; dsimp only; unfold execFvFmax runFloat runSlices; with_reducible rfl

theorem frame_fvFabs (t : Trig) : ∃ f, ∀ s, exec (.fvFabs t) s = .next (runFixed (.fvFabs t) .fv t 1 s f) := by
  apply Exists.intro; intro s; unfold exec; dsimp only; unfold execFvFabs runFloat runSlices; with_reducible rfl

theorem frame_fvFneg (t : Trig) : ∃ f, ∀ s, exec (.fvFneg t) s = .next (runFixed (.fvFneg t) .fv t 1 s f) := by
  apply Exists.intro; intro s; unfold exec; dsimp only; unfold execFvFneg runFloat runSlices; with_reducible rfl

theorem frame_fvFcmp (t : Trig) : ∃ f, ∀ s, exec (.fvFcmp t) s = .next (runFixed (.fvFcmp t) .fv t 2 s f) := by
  apply Exists.intro; intro s; unfold exec; dsimp only; unfold execFvFcmp runFloat runSlices; with_reducible rfl

theorem frame_fvFrnd (t : Trig) : ∃ f, ∀ s, exec (.fvFrnd t) s = .next (runFixed (.fvFrnd t) .fv t 4 s f) := by
  apply Exists.intro; intro s; unfold exec; dsimp only; unfold execFvFrnd runFloat runSlices; with_reducible rfl

theorem frame_fvVadd (t : Trig) : ∃ f, ∀ s, exec (.fvVadd t) s = .next (runFixed (.fvVadd t) .fv t 2 s f) := by
  apply Exists.intro; intro s; unfold exec; dsimp only; unfold execFvVadd runInt runSlices; with_reducible rfl

theorem frame_fvVsub (t : Trig) : ∃ f, ∀ s, exec (.fvVsub t) s = .next (runFixed (.fvVsub t) .fv t 2 s f) := by
  apply Exists.intro; intro s; unfold exec; dsimp only; unfold execFvVsub runInt runSlices; with_reducible rfl

theorem frame_fvVmul (t : Trig) : ∃ f, ∀ s, exec (.fvVmul t) s = .next (runFixed (.fvVmul t) .fv t 3 s f) := by
  apply Exists.intro; intro s; unfold exec; dsimp only; unfold execFvVmul runInt runSlices; with_reducible rfl

theorem frame_fvVmad (t : Trig) : ∃ f, ∀ s, exec (.fvVmad t) s = .next (runFixed (.fvVmad t) .fv t 3 s f) := by
  apply Exists.intro; intro s; unfold exec; dsimp only; unfold execFvVmad runInt runSlices; with_reducible rfl

theorem frame_fvVmin (t : Trig) : ∃ f, ∀ s, exec (.fvVmin t) s = .next (runFixed (.fvVmin t) .fv t 2 s f) := by
  apply Exists.intro; intro s; unfold exec; dsimp only; unfold execFvVmin runInt runSlices; with_reducible rfl

theorem frame_fvVmax (t : Trig) : ∃ f, ∀ s, exec (.fvVmax t) s = .next (runFixed (.fvVmax t) .fv t 2 s f) := by
  apply Exists.intro; intro s; unfold exec; dsimp only; unfold execFvVmax runInt runSlices; with_reducible rfl

theorem frame_fvVand (t : Trig) : ∃ f, ∀ s, exec (.fvVand t) s = .next (runFixed (.fvVand t) .fv t 2 s f) := by
  apply Exists.intro; intro s; unfold exec; dsimp only; unfold execFvVand runBits runSlices; with_reducible rfl

theorem frame_fvVor (t : Trig) : ∃ f, ∀ s, exec (.fvVor t) s = .next (runFixed (.fvVor t) .fv t 2 s f) := by
  apply Exists.intro; intro s; unfold exec; dsimp only; unfold execFvVor runBits runSlices; with_reducible rfl

theorem frame_fvVxor (t : Trig) : ∃ f, ∀ s, exec (.fvVxor t) s = .next (runFixed (.fvVxor t) .fv t 2 s f) := by
  apply Exists.intro; intro s; unfold exec; dsimp only; unfold execFvVxor runBits runSlices; with_reducible rfl

theorem frame_fvVsel (t : Trig) : ∃ f, ∀ s, exec (.fvVsel t) s = .next (runFixed (.fvVsel t) .fv t 2 s f) := by
  apply Exists.intro; intro s; unfold exec; dsimp only; unfold execFvVsel runBits runSlices; with_reducible rfl

theorem frame_fvCmul (t : Trig) : ∃ f, ∀ s, exec (.fvCmul t) s = .next (runFixed (.fvCmul t) .fv t 4 s f) := by
  apply Exists.intro; intro s; unfold exec; dsimp only; unfold execFvCmul runCplx runSlices; with_reducible rfl

theorem frame_fvCmac (t : Trig) : ∃ f, ∀ s, exec (.fvCmac t) s = .next (runFixed (.fvCmac t) .fv t 4 s f) := by
  apply Exists.intro; intro s; unfold exec; dsimp only; unfold execFvCmac runCplx runSlices; with_reducible rfl

theorem frame_fvDot4 (t : Trig) : ∃ f, ∀ s, exec (.fvDot4 t) s = .next (runFixed (.fvDot4 t) .fv t 4 s f) := by
  apply Exists.intro; intro s; unfold exec; dsimp only; unfold execFvDot4 runSlices; with_reducible rfl

theorem frame_fvHsum (t : Trig) : ∃ f, ∀ s, exec (.fvHsum t) s = .next (runFixed (.fvHsum t) .fv t 6 s f) := by
  apply Exists.intro; intro s; unfold exec; dsimp only; unfold execFvHsum runSlices; with_reducible rfl

theorem frame_fvPack (t : Trig) : ∃ f, ∀ s, exec (.fvPack t) s = .next (runFixed (.fvPack t) .fv t 2 s f) := by
  apply Exists.intro; intro s; unfold exec; dsimp only; unfold execFvPack runBits runSlices; with_reducible rfl

theorem frame_fvUnpack (t : Trig) : ∃ f, ∀ s, exec (.fvUnpack t) s = .next (runFixed (.fvUnpack t) .fv t 2 s f) := by
  apply Exists.intro; intro s; unfold exec; dsimp only; unfold execFvUnpack runBits runSlices; with_reducible rfl

theorem frame_fvBshuf (t : Trig) : ∃ f, ∀ s, exec (.fvBshuf t) s = .next (runFixed (.fvBshuf t) .fv t 2 s f) := by
  apply Exists.intro; intro s; unfold exec; dsimp only; unfold execFvBshuf runBits runSlices; with_reducible rfl

theorem frame_fvMovv (t : Trig) : ∃ f, ∀ s, exec (.fvMovv t) s = .next (runFixed (.fvMovv t) .fv t 2 s f) := by
  apply Exists.intro; intro s; unfold exec; dsimp only; unfold execFvMovv runBits runSlices; with_reducible rfl

theorem frame_fvCvtf32 (t : Trig) : ∃ f, ∀ s, exec (.fvCvtf32 t) s = .next (runFixed (.fvCvtf32 t) .fv t 4 s f) := by
  apply Exists.intro; intro s; unfold exec; dsimp only; unfold execFvCvtf32 runCvt; with_reducible rfl

theorem frame_fvCvtbf16 (t : Trig) : ∃ f, ∀ s, exec (.fvCvtbf16 t) s = .next (runFixed (.fvCvtbf16 t) .fv t 4 s f) := by
  apply Exists.intro; intro s; unfold exec; dsimp only; unfold execFvCvtbf16 runCvt; with_reducible rfl

theorem frame_fvCvtf16 (t : Trig) : ∃ f, ∀ s, exec (.fvCvtf16 t) s = .next (runFixed (.fvCvtf16 t) .fv t 4 s f) := by
  apply Exists.intro; intro s; unfold exec; dsimp only; unfold execFvCvtf16 runCvt; with_reducible rfl

theorem frame_fvCvti32 (t : Trig) : ∃ f, ∀ s, exec (.fvCvti32 t) s = .next (runFixed (.fvCvti32 t) .fv t 4 s f) := by
  apply Exists.intro; intro s; unfold exec; dsimp only; unfold execFvCvti32 runCvt; with_reducible rfl

theorem frame_fvCvtn32 (t : Trig) : ∃ f, ∀ s, exec (.fvCvtn32 t) s = .next (runFixed (.fvCvtn32 t) .fv t 4 s f) := by
  apply Exists.intro; intro s; unfold exec; dsimp only; unfold execFvCvtn32 runCvt; with_reducible rfl

theorem frame_fvCvti16 (t : Trig) : ∃ f, ∀ s, exec (.fvCvti16 t) s = .next (runFixed (.fvCvti16 t) .fv t 4 s f) := by
  apply Exists.intro; intro s; unfold exec; dsimp only; unfold execFvCvti16 runCvt; with_reducible rfl

theorem frame_fvCvtn16 (t : Trig) : ∃ f, ∀ s, exec (.fvCvtn16 t) s = .next (runFixed (.fvCvtn16 t) .fv t 4 s f) := by
  apply Exists.intro; intro s; unfold exec; dsimp only; unfold execFvCvtn16 runCvt; with_reducible rfl

theorem frame_fvCvti8 (t : Trig) : ∃ f, ∀ s, exec (.fvCvti8 t) s = .next (runFixed (.fvCvti8 t) .fv t 4 s f) := by
  apply Exists.intro; intro s; unfold exec; dsimp only; unfold execFvCvti8 runCvt; with_reducible rfl

theorem frame_fvCvtn8 (t : Trig) : ∃ f, ∀ s, exec (.fvCvtn8 t) s = .next (runFixed (.fvCvtn8 t) .fv t 4 s f) := by
  apply Exists.intro; intro s; unfold exec; dsimp only; unfold execFvCvtn8 runCvt; with_reducible rfl

theorem frame_fvCvtb4 (t : Trig) : ∃ f, ∀ s, exec (.fvCvtb4 t) s = .next (runFixed (.fvCvtb4 t) .fv t 4 s f) := by
  apply Exists.intro; intro s; unfold exec; dsimp only; unfold execFvCvtb4 runCvt; with_reducible rfl

theorem frame_fvCvtb8 (t : Trig) : ∃ f, ∀ s, exec (.fvCvtb8 t) s = .next (runFixed (.fvCvtb8 t) .fv t 4 s f) := by
  apply Exists.intro; intro s; unfold exec; dsimp only; unfold execFvCvtb8 runCvt; with_reducible rfl

theorem frame_fvCvtb12 (t : Trig) : ∃ f, ∀ s, exec (.fvCvtb12 t) s = .next (runFixed (.fvCvtb12 t) .fv t 4 s f) := by
  apply Exists.intro; intro s; unfold exec; dsimp only; unfold execFvCvtb12 runCvt; with_reducible rfl

theorem frame_fvCvtc4 (t : Trig) : ∃ f, ∀ s, exec (.fvCvtc4 t) s = .next (runFixed (.fvCvtc4 t) .fv t 4 s f) := by
  apply Exists.intro; intro s; unfold exec; dsimp only; unfold execFvCvtc4 runCvt; with_reducible rfl

theorem frame_fvCvtc8 (t : Trig) : ∃ f, ∀ s, exec (.fvCvtc8 t) s = .next (runFixed (.fvCvtc8 t) .fv t 4 s f) := by
  apply Exists.intro; intro s; unfold exec; dsimp only; unfold execFvCvtc8 runCvt; with_reducible rfl

theorem frame_fvCvtci32 (t : Trig) : ∃ f, ∀ s, exec (.fvCvtci32 t) s = .next (runFixed (.fvCvtci32 t) .fv t 4 s f) := by
  apply Exists.intro; intro s; unfold exec; dsimp only; unfold execFvCvtci32 runCvt; with_reducible rfl

theorem frame_sfExp2 (t : Trig) : ∃ f, ∀ s, exec (.sfExp2 t) s = .next (runFixed (.sfExp2 t) .sf t 12 s f) := by
  apply Exists.intro; intro s; unfold exec; dsimp only; unfold execSfExp2 runSf; with_reducible rfl

theorem frame_sfExp (t : Trig) : ∃ f, ∀ s, exec (.sfExp t) s = .next (runFixed (.sfExp t) .sf t 12 s f) := by
  apply Exists.intro; intro s; unfold exec; dsimp only; unfold execSfExp runSf; with_reducible rfl

theorem frame_sfLog2 (t : Trig) : ∃ f, ∀ s, exec (.sfLog2 t) s = .next (runFixed (.sfLog2 t) .sf t 12 s f) := by
  apply Exists.intro; intro s; unfold exec; dsimp only; unfold execSfLog2 runSf; with_reducible rfl

theorem frame_sfLn (t : Trig) : ∃ f, ∀ s, exec (.sfLn t) s = .next (runFixed (.sfLn t) .sf t 12 s f) := by
  apply Exists.intro; intro s; unfold exec; dsimp only; unfold execSfLn runSf; with_reducible rfl

theorem frame_sfRcp (t : Trig) : ∃ f, ∀ s, exec (.sfRcp t) s = .next (runFixed (.sfRcp t) .sf t 12 s f) := by
  apply Exists.intro; intro s; unfold exec; dsimp only; unfold execSfRcp runSf; with_reducible rfl

theorem frame_sfRsqrt (t : Trig) : ∃ f, ∀ s, exec (.sfRsqrt t) s = .next (runFixed (.sfRsqrt t) .sf t 12 s f) := by
  apply Exists.intro; intro s; unfold exec; dsimp only; unfold execSfRsqrt runSf; with_reducible rfl

theorem frame_sfSqrt (t : Trig) : ∃ f, ∀ s, exec (.sfSqrt t) s = .next (runFixed (.sfSqrt t) .sf t 12 s f) := by
  apply Exists.intro; intro s; unfold exec; dsimp only; unfold execSfSqrt runSf; with_reducible rfl

theorem frame_sfSin (t : Trig) : ∃ f, ∀ s, exec (.sfSin t) s = .next (runFixed (.sfSin t) .sf t 12 s f) := by
  apply Exists.intro; intro s; unfold exec; dsimp only; unfold execSfSin runSf; with_reducible rfl

theorem frame_sfCos (t : Trig) : ∃ f, ∀ s, exec (.sfCos t) s = .next (runFixed (.sfCos t) .sf t 12 s f) := by
  apply Exists.intro; intro s; unfold exec; dsimp only; unfold execSfCos runSf; with_reducible rfl

theorem frame_sfTanh (t : Trig) : ∃ f, ∀ s, exec (.sfTanh t) s = .next (runFixed (.sfTanh t) .sf t 12 s f) := by
  apply Exists.intro; intro s; unfold exec; dsimp only; unfold execSfTanh runSf; with_reducible rfl

theorem frame_sfSigm (t : Trig) : ∃ f, ∀ s, exec (.sfSigm t) s = .next (runFixed (.sfSigm t) .sf t 12 s f) := by
  apply Exists.intro; intro s; unfold exec; dsimp only; unfold execSfSigm runSf; with_reducible rfl

theorem frame_sfErf (t : Trig) : ∃ f, ∀ s, exec (.sfErf t) s = .next (runFixed (.sfErf t) .sf t 12 s f) := by
  apply Exists.intro; intro s; unfold exec; dsimp only; unfold execSfErf runSf; with_reducible rfl

theorem frame_sfRmax (t : Trig) : ∃ f, ∀ s, exec (.sfRmax t) s = .next (runFixed (.sfRmax t) .sf t 24 s f) := by
  apply Exists.intro; intro s; unfold exec; dsimp only; unfold execSfRmax runRow; with_reducible rfl

theorem frame_sfRexp (t : Trig) : ∃ f, ∀ s, exec (.sfRexp t) s = .next (runFixed (.sfRexp t) .sf t 24 s f) := by
  apply Exists.intro; intro s; unfold exec; dsimp only; unfold execSfRexp runRow; with_reducible rfl

theorem frame_sfRdiv (t : Trig) : ∃ f, ∀ s, exec (.sfRdiv t) s = .next (runFixed (.sfRdiv t) .sf t 24 s f) := by
  apply Exists.intro; intro s; unfold exec; dsimp only; unfold execSfRdiv runRow; with_reducible rfl

theorem frame_sfRmsq (t : Trig) : ∃ f, ∀ s, exec (.sfRmsq t) s = .next (runFixed (.sfRmsq t) .sf t 24 s f) := by
  apply Exists.intro; intro s; unfold exec; dsimp only; unfold execSfRmsq runRow; with_reducible rfl

theorem frame_xlShfl (t : Trig) : ∃ f, ∀ s, exec (.xlShfl t) s = .next (runFixed (.xlShfl t) .xl t 2 s f) := by
  apply Exists.intro; intro s; unfold exec; dsimp only; unfold execXlShfl; with_reducible rfl

theorem frame_xlShup (t : Trig) : ∃ f, ∀ s, exec (.xlShup t) s = .next (runFixed (.xlShup t) .xl t 2 s f) := by
  apply Exists.intro; intro s; unfold exec; dsimp only; unfold execXlShup; with_reducible rfl

theorem frame_xlShdn (t : Trig) : ∃ f, ∀ s, exec (.xlShdn t) s = .next (runFixed (.xlShdn t) .xl t 2 s f) := by
  apply Exists.intro; intro s; unfold exec; dsimp only; unfold execXlShdn; with_reducible rfl

theorem frame_xlXorsh (t : Trig) : ∃ f, ∀ s, exec (.xlXorsh t) s = .next (runFixed (.xlXorsh t) .xl t 2 s f) := by
  apply Exists.intro; intro s; unfold exec; dsimp only; unfold execXlXorsh; with_reducible rfl

theorem frame_xlBcast (t : Trig) : ∃ f, ∀ s, exec (.xlBcast t) s = .next (runFixed (.xlBcast t) .xl t 2 s f) := by
  apply Exists.intro; intro s; unfold exec; dsimp only; unfold execXlBcast; with_reducible rfl

theorem frame_xlBallot (t : Trig) : ∃ f, ∀ s, exec (.xlBallot t) s = .next (runFixed (.xlBallot t) .xl t 2 s f) := by
  apply Exists.intro; intro s; unfold exec; dsimp only; unfold execXlBallot; with_reducible rfl

theorem frame_xlAnyl (t : Trig) : ∃ f, ∀ s, exec (.xlAnyl t) s = .next (runFixed (.xlAnyl t) .xl t 2 s f) := by
  apply Exists.intro; intro s; unfold exec; dsimp only; unfold execXlAnyl; with_reducible rfl

theorem frame_xlAlll (t : Trig) : ∃ f, ∀ s, exec (.xlAlll t) s = .next (runFixed (.xlAlll t) .xl t 2 s f) := by
  apply Exists.intro; intro s; unfold exec; dsimp only; unfold execXlAlll; with_reducible rfl

theorem frame_xlElect (t : Trig) : ∃ f, ∀ s, exec (.xlElect t) s = .next (runFixed (.xlElect t) .xl t 2 s f) := by
  apply Exists.intro; intro s; unfold exec; dsimp only; unfold execXlElect; with_reducible rfl

theorem frame_xlLanemask (t : Trig) : ∃ f, ∀ s, exec (.xlLanemask t) s = .next (runFixed (.xlLanemask t) .xl t 2 s f) := by
  apply Exists.intro; intro s; unfold exec; dsimp only; unfold execXlLanemask; with_reducible rfl

theorem frame_xlPopl (t : Trig) : ∃ f, ∀ s, exec (.xlPopl t) s = .next (runFixed (.xlPopl t) .xl t 2 s f) := by
  apply Exists.intro; intro s; unfold exec; dsimp only; unfold execXlPopl; with_reducible rfl

theorem frame_xlRmin (t : Trig) : ∃ f, ∀ s, exec (.xlRmin t) s = .next (runFixed (.xlRmin t) .xl t 4 s f) := by
  apply Exists.intro; intro s; unfold exec; dsimp only; unfold execXlRmin; with_reducible rfl

theorem frame_xlRmax (t : Trig) : ∃ f, ∀ s, exec (.xlRmax t) s = .next (runFixed (.xlRmax t) .xl t 4 s f) := by
  apply Exists.intro; intro s; unfold exec; dsimp only; unfold execXlRmax; with_reducible rfl

theorem frame_xlRadd (t : Trig) : ∃ f, ∀ s, exec (.xlRadd t) s = .next (runFixed (.xlRadd t) .xl t 4 s f) := by
  apply Exists.intro; intro s; unfold exec; dsimp only; unfold execXlRadd; with_reducible rfl

theorem frame_xlScanadd (t : Trig) : ∃ f, ∀ s, exec (.xlScanadd t) s = .next (runFixed (.xlScanadd t) .xl t 4 s f) := by
  apply Exists.intro; intro s; unfold exec; dsimp only; unfold execXlScanadd; with_reducible rfl

theorem frame_lsLd (t : Trig) : ∃ f, ∀ s, exec (.lsLd t) s = .next (runTrig (.lsLd t) .ls t s f) := by
  apply Exists.intro; intro s; unfold exec; dsimp only; unfold execLsLd runLs; with_reducible rfl

theorem frame_lsSt (t : Trig) : ∃ f, ∀ s, exec (.lsSt t) s = .next (runTrig (.lsSt t) .ls t s f) := by
  apply Exists.intro; intro s; unfold exec; dsimp only; unfold execLsSt runLs; with_reducible rfl

theorem frame_lsLdv (t : Trig) : ∃ f, ∀ s, exec (.lsLdv t) s = .next (runTrig (.lsLdv t) .ls t s f) := by
  apply Exists.intro; intro s; unfold exec; dsimp only; unfold execLsLdv runLs; with_reducible rfl

theorem frame_lsStv (t : Trig) : ∃ f, ∀ s, exec (.lsStv t) s = .next (runTrig (.lsStv t) .ls t s f) := by
  apply Exists.intro; intro s; unfold exec; dsimp only; unfold execLsStv runLs; with_reducible rfl

theorem frame_lsLdacq (t : Trig) : ∃ f, ∀ s, exec (.lsLdacq t) s = .next (runTrig (.lsLdacq t) .ls t s f) := by
  apply Exists.intro; intro s; unfold exec; dsimp only; unfold execLsLdacq runLs; with_reducible rfl

theorem frame_lsStrel (t : Trig) : ∃ f, ∀ s, exec (.lsStrel t) s = .next (runTrig (.lsStrel t) .ls t s f) := by
  apply Exists.intro; intro s; unfold exec; dsimp only; unfold execLsStrel runLs; with_reducible rfl

theorem frame_lsPf (t : Trig) : ∃ f, ∀ s, exec (.lsPf t) s = .next (runTrig (.lsPf t) .ls t s f) := by
  apply Exists.intro; intro s; unfold exec; dsimp only; unfold execLsPf; with_reducible rfl

theorem frame_lsLdnc (t : Trig) : ∃ f, ∀ s, exec (.lsLdnc t) s = .next (runTrig (.lsLdnc t) .ls t s f) := by
  apply Exists.intro; intro s; unfold exec; dsimp only; unfold execLsLdnc runLs; with_reducible rfl

theorem frame_lsStMc (t : Trig) : ∃ f, ∀ s, exec (.lsStMc t) s = .next (runTrig (.lsStMc t) .ls t s f) := by
  apply Exists.intro; intro s; unfold exec; dsimp only; unfold execLsStMc runLs; with_reducible rfl

theorem frame_lsAadd (t : Trig) : ∃ f, ∀ s, exec (.lsAadd t) s = .next (runTrig (.lsAadd t) .ls t s f) := by
  apply Exists.intro; intro s; unfold exec; dsimp only; unfold execLsAadd runLs; with_reducible rfl

theorem frame_lsAsub (t : Trig) : ∃ f, ∀ s, exec (.lsAsub t) s = .next (runTrig (.lsAsub t) .ls t s f) := by
  apply Exists.intro; intro s; unfold exec; dsimp only; unfold execLsAsub runLs; with_reducible rfl

theorem frame_lsAmin (t : Trig) : ∃ f, ∀ s, exec (.lsAmin t) s = .next (runTrig (.lsAmin t) .ls t s f) := by
  apply Exists.intro; intro s; unfold exec; dsimp only; unfold execLsAmin runLs; with_reducible rfl

theorem frame_lsAmax (t : Trig) : ∃ f, ∀ s, exec (.lsAmax t) s = .next (runTrig (.lsAmax t) .ls t s f) := by
  apply Exists.intro; intro s; unfold exec; dsimp only; unfold execLsAmax runLs; with_reducible rfl

theorem frame_lsAand (t : Trig) : ∃ f, ∀ s, exec (.lsAand t) s = .next (runTrig (.lsAand t) .ls t s f) := by
  apply Exists.intro; intro s; unfold exec; dsimp only; unfold execLsAand runLs; with_reducible rfl

theorem frame_lsAor (t : Trig) : ∃ f, ∀ s, exec (.lsAor t) s = .next (runTrig (.lsAor t) .ls t s f) := by
  apply Exists.intro; intro s; unfold exec; dsimp only; unfold execLsAor runLs; with_reducible rfl

theorem frame_lsAxor (t : Trig) : ∃ f, ∀ s, exec (.lsAxor t) s = .next (runTrig (.lsAxor t) .ls t s f) := by
  apply Exists.intro; intro s; unfold exec; dsimp only; unfold execLsAxor runLs; with_reducible rfl

theorem frame_lsAxch (t : Trig) : ∃ f, ∀ s, exec (.lsAxch t) s = .next (runTrig (.lsAxch t) .ls t s f) := by
  apply Exists.intro; intro s; unfold exec; dsimp only; unfold execLsAxch runLs; with_reducible rfl

theorem frame_lsAcas (t : Trig) : ∃ f, ∀ s, exec (.lsAcas t) s = .next (runTrig (.lsAcas t) .ls t s f) := by
  apply Exists.intro; intro s; unfold exec; dsimp only; unfold execLsAcas runLs; with_reducible rfl

theorem frame_lsAaddf (t : Trig) : ∃ f, ∀ s, exec (.lsAaddf t) s = .next (runTrig (.lsAaddf t) .ls t s f) := by
  apply Exists.intro; intro s; unfold exec; dsimp only; unfold execLsAaddf runLs; with_reducible rfl

theorem frame_lsAaddAcq (t : Trig) : ∃ f, ∀ s, exec (.lsAaddAcq t) s = .next (runTrig (.lsAaddAcq t) .ls t s f) := by
  apply Exists.intro; intro s; unfold exec; dsimp only; unfold execLsAaddAcq runLs; with_reducible rfl

theorem frame_lsAsubAcq (t : Trig) : ∃ f, ∀ s, exec (.lsAsubAcq t) s = .next (runTrig (.lsAsubAcq t) .ls t s f) := by
  apply Exists.intro; intro s; unfold exec; dsimp only; unfold execLsAsubAcq runLs; with_reducible rfl

theorem frame_lsAminAcq (t : Trig) : ∃ f, ∀ s, exec (.lsAminAcq t) s = .next (runTrig (.lsAminAcq t) .ls t s f) := by
  apply Exists.intro; intro s; unfold exec; dsimp only; unfold execLsAminAcq runLs; with_reducible rfl

theorem frame_lsAmaxAcq (t : Trig) : ∃ f, ∀ s, exec (.lsAmaxAcq t) s = .next (runTrig (.lsAmaxAcq t) .ls t s f) := by
  apply Exists.intro; intro s; unfold exec; dsimp only; unfold execLsAmaxAcq runLs; with_reducible rfl

theorem frame_lsAandAcq (t : Trig) : ∃ f, ∀ s, exec (.lsAandAcq t) s = .next (runTrig (.lsAandAcq t) .ls t s f) := by
  apply Exists.intro; intro s; unfold exec; dsimp only; unfold execLsAandAcq runLs; with_reducible rfl

theorem frame_lsAorAcq (t : Trig) : ∃ f, ∀ s, exec (.lsAorAcq t) s = .next (runTrig (.lsAorAcq t) .ls t s f) := by
  apply Exists.intro; intro s; unfold exec; dsimp only; unfold execLsAorAcq runLs; with_reducible rfl

theorem frame_lsAxorAcq (t : Trig) : ∃ f, ∀ s, exec (.lsAxorAcq t) s = .next (runTrig (.lsAxorAcq t) .ls t s f) := by
  apply Exists.intro; intro s; unfold exec; dsimp only; unfold execLsAxorAcq runLs; with_reducible rfl

theorem frame_lsAxchAcq (t : Trig) : ∃ f, ∀ s, exec (.lsAxchAcq t) s = .next (runTrig (.lsAxchAcq t) .ls t s f) := by
  apply Exists.intro; intro s; unfold exec; dsimp only; unfold execLsAxchAcq runLs; with_reducible rfl

theorem frame_lsAcasAcq (t : Trig) : ∃ f, ∀ s, exec (.lsAcasAcq t) s = .next (runTrig (.lsAcasAcq t) .ls t s f) := by
  apply Exists.intro; intro s; unfold exec; dsimp only; unfold execLsAcasAcq runLs; with_reducible rfl

theorem frame_lsAaddfAcq (t : Trig) : ∃ f, ∀ s, exec (.lsAaddfAcq t) s = .next (runTrig (.lsAaddfAcq t) .ls t s f) := by
  apply Exists.intro; intro s; unfold exec; dsimp only; unfold execLsAaddfAcq runLs; with_reducible rfl

theorem frame_lsAaddRel (t : Trig) : ∃ f, ∀ s, exec (.lsAaddRel t) s = .next (runTrig (.lsAaddRel t) .ls t s f) := by
  apply Exists.intro; intro s; unfold exec; dsimp only; unfold execLsAaddRel runLs; with_reducible rfl

theorem frame_lsAsubRel (t : Trig) : ∃ f, ∀ s, exec (.lsAsubRel t) s = .next (runTrig (.lsAsubRel t) .ls t s f) := by
  apply Exists.intro; intro s; unfold exec; dsimp only; unfold execLsAsubRel runLs; with_reducible rfl

theorem frame_lsAminRel (t : Trig) : ∃ f, ∀ s, exec (.lsAminRel t) s = .next (runTrig (.lsAminRel t) .ls t s f) := by
  apply Exists.intro; intro s; unfold exec; dsimp only; unfold execLsAminRel runLs; with_reducible rfl

theorem frame_lsAmaxRel (t : Trig) : ∃ f, ∀ s, exec (.lsAmaxRel t) s = .next (runTrig (.lsAmaxRel t) .ls t s f) := by
  apply Exists.intro; intro s; unfold exec; dsimp only; unfold execLsAmaxRel runLs; with_reducible rfl

theorem frame_lsAandRel (t : Trig) : ∃ f, ∀ s, exec (.lsAandRel t) s = .next (runTrig (.lsAandRel t) .ls t s f) := by
  apply Exists.intro; intro s; unfold exec; dsimp only; unfold execLsAandRel runLs; with_reducible rfl

theorem frame_lsAorRel (t : Trig) : ∃ f, ∀ s, exec (.lsAorRel t) s = .next (runTrig (.lsAorRel t) .ls t s f) := by
  apply Exists.intro; intro s; unfold exec; dsimp only; unfold execLsAorRel runLs; with_reducible rfl

theorem frame_lsAxorRel (t : Trig) : ∃ f, ∀ s, exec (.lsAxorRel t) s = .next (runTrig (.lsAxorRel t) .ls t s f) := by
  apply Exists.intro; intro s; unfold exec; dsimp only; unfold execLsAxorRel runLs; with_reducible rfl

theorem frame_lsAxchRel (t : Trig) : ∃ f, ∀ s, exec (.lsAxchRel t) s = .next (runTrig (.lsAxchRel t) .ls t s f) := by
  apply Exists.intro; intro s; unfold exec; dsimp only; unfold execLsAxchRel runLs; with_reducible rfl

theorem frame_lsAcasRel (t : Trig) : ∃ f, ∀ s, exec (.lsAcasRel t) s = .next (runTrig (.lsAcasRel t) .ls t s f) := by
  apply Exists.intro; intro s; unfold exec; dsimp only; unfold execLsAcasRel runLs; with_reducible rfl

theorem frame_lsAaddfRel (t : Trig) : ∃ f, ∀ s, exec (.lsAaddfRel t) s = .next (runTrig (.lsAaddfRel t) .ls t s f) := by
  apply Exists.intro; intro s; unfold exec; dsimp only; unfold execLsAaddfRel runLs; with_reducible rfl

theorem frame_lsAaddAr (t : Trig) : ∃ f, ∀ s, exec (.lsAaddAr t) s = .next (runTrig (.lsAaddAr t) .ls t s f) := by
  apply Exists.intro; intro s; unfold exec; dsimp only; unfold execLsAaddAr runLs; with_reducible rfl

theorem frame_lsAsubAr (t : Trig) : ∃ f, ∀ s, exec (.lsAsubAr t) s = .next (runTrig (.lsAsubAr t) .ls t s f) := by
  apply Exists.intro; intro s; unfold exec; dsimp only; unfold execLsAsubAr runLs; with_reducible rfl

theorem frame_lsAminAr (t : Trig) : ∃ f, ∀ s, exec (.lsAminAr t) s = .next (runTrig (.lsAminAr t) .ls t s f) := by
  apply Exists.intro; intro s; unfold exec; dsimp only; unfold execLsAminAr runLs; with_reducible rfl

theorem frame_lsAmaxAr (t : Trig) : ∃ f, ∀ s, exec (.lsAmaxAr t) s = .next (runTrig (.lsAmaxAr t) .ls t s f) := by
  apply Exists.intro; intro s; unfold exec; dsimp only; unfold execLsAmaxAr runLs; with_reducible rfl

theorem frame_lsAandAr (t : Trig) : ∃ f, ∀ s, exec (.lsAandAr t) s = .next (runTrig (.lsAandAr t) .ls t s f) := by
  apply Exists.intro; intro s; unfold exec; dsimp only; unfold execLsAandAr runLs; with_reducible rfl

theorem frame_lsAorAr (t : Trig) : ∃ f, ∀ s, exec (.lsAorAr t) s = .next (runTrig (.lsAorAr t) .ls t s f) := by
  apply Exists.intro; intro s; unfold exec; dsimp only; unfold execLsAorAr runLs; with_reducible rfl

theorem frame_lsAxorAr (t : Trig) : ∃ f, ∀ s, exec (.lsAxorAr t) s = .next (runTrig (.lsAxorAr t) .ls t s f) := by
  apply Exists.intro; intro s; unfold exec; dsimp only; unfold execLsAxorAr runLs; with_reducible rfl

theorem frame_lsAxchAr (t : Trig) : ∃ f, ∀ s, exec (.lsAxchAr t) s = .next (runTrig (.lsAxchAr t) .ls t s f) := by
  apply Exists.intro; intro s; unfold exec; dsimp only; unfold execLsAxchAr runLs; with_reducible rfl

theorem frame_lsAcasAr (t : Trig) : ∃ f, ∀ s, exec (.lsAcasAr t) s = .next (runTrig (.lsAcasAr t) .ls t s f) := by
  apply Exists.intro; intro s; unfold exec; dsimp only; unfold execLsAcasAr runLs; with_reducible rfl

theorem frame_lsAaddfAr (t : Trig) : ∃ f, ∀ s, exec (.lsAaddfAr t) s = .next (runTrig (.lsAaddfAr t) .ls t s f) := by
  apply Exists.intro; intro s; unfold exec; dsimp only; unfold execLsAaddfAr runLs; with_reducible rfl

theorem frame_spSpcfg (t : Trig) : ∃ f, ∀ s, exec (.spSpcfg t) s = .next (runTrig (.spSpcfg t) .sp t s f) := by
  apply Exists.intro; intro s; unfold exec; dsimp only; unfold execSpSpcfg; with_reducible rfl

theorem frame_spSpbase (t : Trig) : ∃ f, ∀ s, exec (.spSpbase t) s = .next (runTrig (.spSpbase t) .sp t s f) := by
  apply Exists.intro; intro s; unfold exec; dsimp only; unfold execSpSpbase; with_reducible rfl

theorem frame_spSpstart (t : Trig) : ∃ f, ∀ s, exec (.spSpstart t) s = .next (runTrig (.spSpstart t) .sp t s f) := by
  apply Exists.intro; intro s; unfold exec; dsimp only; unfold execSpSpstart; with_reducible rfl

theorem frame_spSpskip (t : Trig) : ∃ f, ∀ s, exec (.spSpskip t) s = .next (runTrig (.spSpskip t) .sp t s f) := by
  apply Exists.intro; intro s; unfold exec; dsimp only; unfold execSpSpskip; with_reducible rfl

theorem frame_spSpstat (t : Trig) : ∃ f, ∀ s, exec (.spSpstat t) s = .next (runTrig (.spSpstat t) .sp t s f) := by
  apply Exists.intro; intro s; unfold exec; dsimp only; unfold execSpSpstat; with_reducible rfl

theorem frame_spSpstop (t : Trig) : ∃ f, ∀ s, exec (.spSpstop t) s = .next (runTrig (.spSpstop t) .sp t s f) := by
  apply Exists.intro; intro s; unfold exec; dsimp only; unfold execSpSpstop; with_reducible rfl

theorem frame_cpCpsrc (t : Trig) : ∃ f, ∀ s, exec (.cpCpsrc t) s = .next (runTrig (.cpCpsrc t) .cp t s f) := by
  apply Exists.intro; intro s; unfold exec; dsimp only; unfold execCpCpsrc; with_reducible rfl

theorem frame_cpCpdst (t : Trig) : ∃ f, ∀ s, exec (.cpCpdst t) s = .next (runTrig (.cpCpdst t) .cp t s f) := by
  apply Exists.intro; intro s; unfold exec; dsimp only; unfold execCpCpdst; with_reducible rfl

theorem frame_cpCpshape (t : Trig) : ∃ f, ∀ s, exec (.cpCpshape t) s = .next (runTrig (.cpCpshape t) .cp t s f) := by
  apply Exists.intro; intro s; unfold exec; dsimp only; unfold execCpCpshape; with_reducible rfl

theorem frame_cpCpgo (t : Trig) : ∃ f, ∀ s, exec (.cpCpgo t) s = .next (runTrig (.cpCpgo t) .cp t s f) := by
  apply Exists.intro; intro s; unfold exec; dsimp only; unfold execCpCpgo; with_reducible rfl

theorem frame_cpCpwm (t : Trig) : ∃ f, ∀ s, exec (.cpCpwm t) s = .next (runTrig (.cpCpwm t) .cp t s f) := by
  apply Exists.intro; intro s; unfold exec; dsimp only; unfold execCpCpwm; with_reducible rfl

theorem frame_cpCpstat (t : Trig) : ∃ f, ∀ s, exec (.cpCpstat t) s = .next (runTrig (.cpCpstat t) .cp t s f) := by
  apply Exists.intro; intro s; unfold exec; dsimp only; unfold execCpCpstat; with_reducible rfl

theorem frame_cpCpabort (t : Trig) : ∃ f, ∀ s, exec (.cpCpabort t) s = .next (runTrig (.cpCpabort t) .cp t s f) := by
  apply Exists.intro; intro s; unfold exec; dsimp only; unfold execCpCpabort; with_reducible rfl

theorem frame_cpCphalo (t : Trig) : ∃ f, ∀ s, exec (.cpCphalo t) s = .next (runTrig (.cpCphalo t) .cp t s f) := by
  apply Exists.intro; intro s; unfold exec; dsimp only; unfold execCpCphalo; with_reducible rfl

theorem frame_cpCpring (t : Trig) : ∃ f, ∀ s, exec (.cpCpring t) s = .next (runTrig (.cpCpring t) .cp t s f) := by
  apply Exists.intro; intro s; unfold exec; dsimp only; unfold execCpCpring; with_reducible rfl

theorem frame_mxMxres (t : Trig) : ∃ f, ∀ s, exec (.mxMxres t) s = .next (runTrig (.mxMxres t) .mx t s f) := by
  apply Exists.intro; intro s; unfold exec; dsimp only; unfold execMxMxres; with_reducible rfl

theorem frame_mxMxrel (t : Trig) : ∃ f, ∀ s, exec (.mxMxrel t) s = .next (runTrig (.mxMxrel t) .mx t s f) := by
  apply Exists.intro; intro s; unfold exec; dsimp only; unfold execMxMxrel; with_reducible rfl

theorem frame_mxMxcop (t : Trig) : ∃ f, ∀ s, exec (.mxMxcop t) s = .next (runTrig (.mxMxcop t) .mx t s f) := by
  apply Exists.intro; intro s; unfold exec; dsimp only; unfold execMxMxcop; with_reducible rfl

theorem frame_mxMxpass (t : Trig) : ∃ f, ∀ s, exec (.mxMxpass t) s = .next (runTrig (.mxMxpass t) .mx t s f) := by
  apply Exists.intro; intro s; unfold exec; dsimp only; unfold execMxMxpass; with_reducible rfl

theorem frame_mxMxdrain (t : Trig) : ∃ f, ∀ s, exec (.mxMxdrain t) s = .next (runTrig (.mxMxdrain t) .mx t s f) := by
  apply Exists.intro; intro s; unfold exec; dsimp only; unfold execMxMxdrain; with_reducible rfl

theorem frame_mxMxsave (t : Trig) : ∃ f, ∀ s, exec (.mxMxsave t) s = .next (runTrig (.mxMxsave t) .mx t s f) := by
  apply Exists.intro; intro s; unfold exec; dsimp only; unfold execMxMxsave; with_reducible rfl

theorem frame_mxMxload (t : Trig) : ∃ f, ∀ s, exec (.mxMxload t) s = .next (runTrig (.mxMxload t) .mx t s f) := by
  apply Exists.intro; intro s; unfold exec; dsimp only; unfold execMxMxload; with_reducible rfl

theorem frame_mxMxstat (t : Trig) : ∃ f, ∀ s, exec (.mxMxstat t) s = .next (runTrig (.mxMxstat t) .mx t s f) := by
  apply Exists.intro; intro s; unfold exec; dsimp only; unfold execMxMxstat; with_reducible rfl

theorem frame_mxMxdrainAcc (t : Trig) : ∃ f, ∀ s, exec (.mxMxdrainAcc t) s = .next (runTrig (.mxMxdrainAcc t) .mx t s f) := by
  apply Exists.intro; intro s; unfold exec; dsimp only; unfold execMxMxdrainAcc; with_reducible rfl

theorem frame_brJmp (t : Trig) : ∃ f, ∀ s, exec (.brJmp t) s = .next (runTrig (.brJmp t) .br t s f) := by
  apply Exists.intro; intro s; unfold exec; dsimp only; unfold execBrJmp runBr; with_reducible rfl

theorem frame_brBra (t : Trig) : ∃ f, ∀ s, exec (.brBra t) s = .next (runTrig (.brBra t) .br t s f) := by
  apply Exists.intro; intro s; unfold exec; dsimp only; unfold execBrBra runBr; with_reducible rfl

theorem frame_brBrz (t : Trig) : ∃ f, ∀ s, exec (.brBrz t) s = .next (runTrig (.brBrz t) .br t s f) := by
  apply Exists.intro; intro s; unfold exec; dsimp only; unfold execBrBrz runBr; with_reducible rfl

theorem frame_brBrall (t : Trig) : ∃ f, ∀ s, exec (.brBrall t) s = .next (runTrig (.brBrall t) .br t s f) := by
  apply Exists.intro; intro s; unfold exec; dsimp only; unfold execBrBrall runBr; with_reducible rfl

theorem frame_brCall (t : Trig) : ∃ f, ∀ s, exec (.brCall t) s = .next (runTrig (.brCall t) .br t s f) := by
  apply Exists.intro; intro s; unfold exec; dsimp only; unfold execBrCall runBr; with_reducible rfl

theorem frame_brRet (t : Trig) : ∃ f, ∀ s, exec (.brRet t) s = .next (runTrig (.brRet t) .br t s f) := by
  apply Exists.intro; intro s; unfold exec; dsimp only; unfold execBrRet runBr; with_reducible rfl

theorem frame_brLoopi (t : Trig) : ∃ f, ∀ s, exec (.brLoopi t) s = .next (runTrig (.brLoopi t) .br t s f) := by
  apply Exists.intro; intro s; unfold exec; dsimp only; unfold execBrLoopi runBr; with_reducible rfl

theorem frame_brLoop (t : Trig) : ∃ f, ∀ s, exec (.brLoop t) s = .next (runTrig (.brLoop t) .br t s f) := by
  apply Exists.intro; intro s; unfold exec; dsimp only; unfold execBrLoop runBr; with_reducible rfl

theorem frame_brHalt (t : Trig) : ∃ f, ∀ s, exec (.brHalt t) s = .next (runTrig (.brHalt t) .br t s f) := by
  apply Exists.intro; intro s; unfold exec; dsimp only; unfold execBrHalt runBr; with_reducible rfl

theorem frame_brYield (t : Trig) : ∃ f, ∀ s, exec (.brYield t) s = .next (runTrig (.brYield t) .br t s f) := by
  apply Exists.intro; intro s; unfold exec; dsimp only; unfold execBrYield runBr; with_reducible rfl

theorem frame_syBar (t : Trig) : ∃ f, ∀ s, exec (.syBar t) s = .next (runTrig (.syBar t) .sy t s f) := by
  apply Exists.intro; intro s; unfold exec; dsimp only; unfold execSyBar; with_reducible rfl

theorem frame_syBarw (t : Trig) : ∃ f, ∀ s, exec (.syBarw t) s = .next (runTrig (.syBarw t) .sy t s f) := by
  apply Exists.intro; intro s; unfold exec; dsimp only; unfold execSyBarw; with_reducible rfl

theorem frame_syBarar (t : Trig) : ∃ f, ∀ s, exec (.syBarar t) s = .next (runTrig (.syBarar t) .sy t s f) := by
  apply Exists.intro; intro s; unfold exec; dsimp only; unfold execSyBarar; with_reducible rfl

theorem frame_syCbar (t : Trig) : ∃ f, ∀ s, exec (.syCbar t) s = .next (runTrig (.syCbar t) .sy t s f) := by
  apply Exists.intro; intro s; unfold exec; dsimp only; unfold execSyCbar; with_reducible rfl

theorem frame_syFence (t : Trig) : ∃ f, ∀ s, exec (.syFence t) s = .next (runTrig (.syFence t) .sy t s f) := by
  apply Exists.intro; intro s; unfold exec; dsimp only; unfold execSyFence; with_reducible rfl

theorem frame_syAcq (t : Trig) : ∃ f, ∀ s, exec (.syAcq t) s = .next (runTrig (.syAcq t) .sy t s f) := by
  apply Exists.intro; intro s; unfold exec; dsimp only; unfold execSyAcq; with_reducible rfl

theorem frame_syRel (t : Trig) : ∃ f, ∀ s, exec (.syRel t) s = .next (runTrig (.syRel t) .sy t s f) := by
  apply Exists.intro; intro s; unfold exec; dsimp only; unfold execSyRel; with_reducible rfl

theorem frame_syTwait (t : Trig) : ∃ f, ∀ s, exec (.syTwait t) s = .next (runTrig (.syTwait t) .sy t s f) := by
  apply Exists.intro; intro s; unfold exec; dsimp only; unfold execSyTwait; with_reducible rfl

theorem frame_syTread (t : Trig) : ∃ f, ∀ s, exec (.syTread t) s = .next (runTrig (.syTread t) .sy t s f) := by
  apply Exists.intro; intro s; unfold exec; dsimp only; unfold execSyTread; with_reducible rfl

theorem frame_syMwait (t : Trig) : ∃ f, ∀ s, exec (.syMwait t) s = .next (runTrig (.syMwait t) .sy t s f) := by
  apply Exists.intro; intro s; unfold exec; dsimp only; unfold execSyMwait; with_reducible rfl

theorem frame_syWmwait (t : Trig) : ∃ f, ∀ s, exec (.syWmwait t) s = .next (runTrig (.syWmwait t) .sy t s f) := by
  apply Exists.intro; intro s; unfold exec; dsimp only; unfold execSyWmwait; with_reducible rfl

theorem frame_sySleep (t : Trig) : ∃ f, ∀ s, exec (.sySleep t) s = .next (runTrig (.sySleep t) .sy t s f) := by
  apply Exists.intro; intro s; unfold exec; dsimp only; unfold execSySleep; with_reducible rfl

theorem frame_syTick (t : Trig) : ∃ f, ∀ s, exec (.syTick t) s = .next (runTrig (.syTick t) .sy t s f) := by
  apply Exists.intro; intro s; unfold exec; dsimp only; unfold execSyTick; with_reducible rfl

theorem frame_ssRdsys (t : Trig) : ∃ f, ∀ s, exec (.ssRdsys t) s = .next (runTrig (.ssRdsys t) .ss t s f) := by
  apply Exists.intro; intro s; unfold exec; dsimp only; unfold execSsRdsys; with_reducible rfl

theorem frame_ssWrsys (t : Trig) : ∃ f, ∀ s, exec (.ssWrsys t) s = .next (runTrig (.ssWrsys t) .ss t s f) := by
  apply Exists.intro; intro s; unfold exec; dsimp only; unfold execSsWrsys; with_reducible rfl

theorem frame_ssTrap (t : Trig) : ∃ f, ∀ s, exec (.ssTrap t) s = .next (runTrig (.ssTrap t) .ss t s f) := by
  apply Exists.intro; intro s; unfold exec; dsimp only; unfold execSsTrap; with_reducible rfl

theorem frame_ssRti (t : Trig) : ∃ f, ∀ s, exec (.ssRti t) s = .next (runTrig (.ssRti t) .ss t s f) := by
  apply Exists.intro; intro s; unfold exec; dsimp only; unfold execSsRti; with_reducible rfl

theorem frame_ssTlbinv (t : Trig) : ∃ f, ∀ s, exec (.ssTlbinv t) s = .next (runTrig (.ssTlbinv t) .ss t s f) := by
  apply Exists.intro; intro s; unfold exec; dsimp only; unfold execSsTlbinv; with_reducible rfl

theorem frame_ssReplay (t : Trig) : ∃ f, ∀ s, exec (.ssReplay t) s = .next (runTrig (.ssReplay t) .ss t s f) := by
  apply Exists.intro; intro s; unfold exec; dsimp only; unfold execSsReplay; with_reducible rfl

theorem frame_ssPub (t : Trig) : ∃ f, ∀ s, exec (.ssPub t) s = .next (runTrig (.ssPub t) .ss t s f) := by
  apply Exists.intro; intro s; unfold exec; dsimp only; unfold execSsPub; with_reducible rfl

theorem frame_ssIclock (t : Trig) : ∃ f, ∀ s, exec (.ssIclock t) s = .next (runTrig (.ssIclock t) .ss t s f) := by
  apply Exists.intro; intro s; unfold exec; dsimp only; unfold execSsIclock; with_reducible rfl

theorem frame_ssIcunlock (t : Trig) : ∃ f, ∀ s, exec (.ssIcunlock t) s = .next (runTrig (.ssIcunlock t) .ss t s f) := by
  apply Exists.intro; intro s; unfold exec; dsimp only; unfold execSsIcunlock; with_reducible rfl

theorem frame_ssCtxsave (t : Trig) : ∃ f, ∀ s, exec (.ssCtxsave t) s = .next (runTrig (.ssCtxsave t) .ss t s f) := by
  apply Exists.intro; intro s; unfold exec; dsimp only; unfold execSsCtxsave; with_reducible rfl

theorem frame_ssCtxload (t : Trig) : ∃ f, ∀ s, exec (.ssCtxload t) s = .next (runTrig (.ssCtxload t) .ss t s f) := by
  apply Exists.intro; intro s; unfold exec; dsimp only; unfold execSsCtxload; with_reducible rfl

theorem frame_lnPush (t : Trig) : ∃ f, ∀ s, exec (.lnPush t) s = .next (runTrig (.lnPush t) .ln t s f) := by
  apply Exists.intro; intro s; unfold exec; dsimp only; unfold execLnPush; with_reducible rfl

theorem frame_lnStat (t : Trig) : ∃ f, ∀ s, exec (.lnStat t) s = .next (runTrig (.lnStat t) .ln t s f) := by
  apply Exists.intro; intro s; unfold exec; dsimp only; unfold execLnStat; with_reducible rfl

theorem frame_lnCancel (t : Trig) : ∃ f, ∀ s, exec (.lnCancel t) s = .next (runTrig (.lnCancel t) .ln t s f) := by
  apply Exists.intro; intro s; unfold exec; dsimp only; unfold execLnCancel; with_reducible rfl

/-- A trigger of ia, fv, sf or xl is a fixed-latency operation of its latency. -/
theorem exec_fixed {i : Instr} {u : UnitCls} {op n : Nat} {t : Trig} (ht : trigOf i = some (u, op, t))
    (hn : fixedLatency u op = some n) : ∃ f, ∀ s, exec i s = .next (runFixed i u t n s f) := by
  cases i <;> cases ht <;> simp [fixedLatency] at hn <;> subst hn
  · exact frame_iaAdd _
  · exact frame_iaSub _
  · exact frame_iaRsub _
  · exact frame_iaNeg _
  · exact frame_iaAbs _
  · exact frame_iaMin _
  · exact frame_iaMax _
  · exact frame_iaAddsat _
  · exact frame_iaSubsat _
  · exact frame_iaMul _
  · exact frame_iaMulhi _
  · exact frame_iaMad _
  · exact frame_iaLea _
  · exact frame_iaHmix _
  · exact frame_iaMov _
  · exact frame_iaAnd _
  · exact frame_iaOr _
  · exact frame_iaXor _
  · exact frame_iaAndn _
  · exact frame_iaNot _
  · exact frame_iaShl _
  · exact frame_iaShr _
  · exact frame_iaSar _
  · exact frame_iaRot _
  · exact frame_iaClz _
  · exact frame_iaCtz _
  · exact frame_iaPop _
  · exact frame_iaBrev _
  · exact frame_iaBfx _
  · exact frame_iaBfi _
  · exact frame_iaSel _
  · exact frame_iaCmpeq _
  · exact frame_iaCmpne _
  · exact frame_iaCmplt _
  · exact frame_iaCmple _
  · exact frame_iaCmpgt _
  · exact frame_iaCmpge _
  · exact frame_fvFadd _
  · exact frame_fvFsub _
  · exact frame_fvFmul _
  · exact frame_fvFma _
  · exact frame_fvFms _
  · exact frame_fvFnma _
  · exact frame_fvFmin _
  · exact frame_fvFmax _
  · exact frame_fvFabs _
  · exact frame_fvFneg _
  · exact frame_fvFcmp _
  · exact frame_fvFrnd _
  · exact frame_fvVadd _
  · exact frame_fvVsub _
  · exact frame_fvVmul _
  · exact frame_fvVmad _
  · exact frame_fvVmin _
  · exact frame_fvVmax _
  · exact frame_fvVand _
  · exact frame_fvVor _
  · exact frame_fvVxor _
  · exact frame_fvVsel _
  · exact frame_fvCmul _
  · exact frame_fvCmac _
  · exact frame_fvDot4 _
  · exact frame_fvHsum _
  · exact frame_fvPack _
  · exact frame_fvUnpack _
  · exact frame_fvBshuf _
  · exact frame_fvMovv _
  · exact frame_fvCvtf32 _
  · exact frame_fvCvtbf16 _
  · exact frame_fvCvtf16 _
  · exact frame_fvCvti32 _
  · exact frame_fvCvtn32 _
  · exact frame_fvCvti16 _
  · exact frame_fvCvtn16 _
  · exact frame_fvCvti8 _
  · exact frame_fvCvtn8 _
  · exact frame_fvCvtb4 _
  · exact frame_fvCvtb8 _
  · exact frame_fvCvtb12 _
  · exact frame_fvCvtc4 _
  · exact frame_fvCvtc8 _
  · exact frame_fvCvtci32 _
  · exact frame_sfExp2 _
  · exact frame_sfExp _
  · exact frame_sfLog2 _
  · exact frame_sfLn _
  · exact frame_sfRcp _
  · exact frame_sfRsqrt _
  · exact frame_sfSqrt _
  · exact frame_sfSin _
  · exact frame_sfCos _
  · exact frame_sfTanh _
  · exact frame_sfSigm _
  · exact frame_sfErf _
  · exact frame_sfRmax _
  · exact frame_sfRexp _
  · exact frame_sfRdiv _
  · exact frame_sfRmsq _
  · exact frame_xlShfl _
  · exact frame_xlShup _
  · exact frame_xlShdn _
  · exact frame_xlXorsh _
  · exact frame_xlBcast _
  · exact frame_xlBallot _
  · exact frame_xlAnyl _
  · exact frame_xlAlll _
  · exact frame_xlElect _
  · exact frame_xlLanemask _
  · exact frame_xlPopl _
  · exact frame_xlRmin _
  · exact frame_xlRmax _
  · exact frame_xlRadd _
  · exact frame_xlScanadd _

/-- Every trigger runs in the frame of a trigger. -/
theorem exec_trig {i : Instr} {u : UnitCls} {op : Nat} {t : Trig} (ht : trigOf i = some (u, op, t)) :
    ∃ f, ∀ s, exec i s = .next (runTrig i u t s f) := by
  have fixed {i : Instr} {u : UnitCls} {t : Trig} {n : Nat} (h : ∃ f, ∀ s, exec i s = .next (runFixed i u t n s f)) :
      ∃ f, ∀ s, exec i s = .next (runTrig i u t s f) := by
    obtain ⟨f, hf⟩ := h
    exact ⟨_, fun s => (hf s).trans (by unfold runFixed; rfl)⟩
  cases i <;> cases ht
  · exact fixed (frame_iaAdd _)
  · exact fixed (frame_iaSub _)
  · exact fixed (frame_iaRsub _)
  · exact fixed (frame_iaNeg _)
  · exact fixed (frame_iaAbs _)
  · exact fixed (frame_iaMin _)
  · exact fixed (frame_iaMax _)
  · exact fixed (frame_iaAddsat _)
  · exact fixed (frame_iaSubsat _)
  · exact fixed (frame_iaMul _)
  · exact fixed (frame_iaMulhi _)
  · exact fixed (frame_iaMad _)
  · exact fixed (frame_iaLea _)
  · exact fixed (frame_iaHmix _)
  · exact fixed (frame_iaMov _)
  · exact fixed (frame_iaAnd _)
  · exact fixed (frame_iaOr _)
  · exact fixed (frame_iaXor _)
  · exact fixed (frame_iaAndn _)
  · exact fixed (frame_iaNot _)
  · exact fixed (frame_iaShl _)
  · exact fixed (frame_iaShr _)
  · exact fixed (frame_iaSar _)
  · exact fixed (frame_iaRot _)
  · exact fixed (frame_iaClz _)
  · exact fixed (frame_iaCtz _)
  · exact fixed (frame_iaPop _)
  · exact fixed (frame_iaBrev _)
  · exact fixed (frame_iaBfx _)
  · exact fixed (frame_iaBfi _)
  · exact fixed (frame_iaSel _)
  · exact fixed (frame_iaCmpeq _)
  · exact fixed (frame_iaCmpne _)
  · exact fixed (frame_iaCmplt _)
  · exact fixed (frame_iaCmple _)
  · exact fixed (frame_iaCmpgt _)
  · exact fixed (frame_iaCmpge _)
  · exact fixed (frame_fvFadd _)
  · exact fixed (frame_fvFsub _)
  · exact fixed (frame_fvFmul _)
  · exact fixed (frame_fvFma _)
  · exact fixed (frame_fvFms _)
  · exact fixed (frame_fvFnma _)
  · exact fixed (frame_fvFmin _)
  · exact fixed (frame_fvFmax _)
  · exact fixed (frame_fvFabs _)
  · exact fixed (frame_fvFneg _)
  · exact fixed (frame_fvFcmp _)
  · exact fixed (frame_fvFrnd _)
  · exact fixed (frame_fvVadd _)
  · exact fixed (frame_fvVsub _)
  · exact fixed (frame_fvVmul _)
  · exact fixed (frame_fvVmad _)
  · exact fixed (frame_fvVmin _)
  · exact fixed (frame_fvVmax _)
  · exact fixed (frame_fvVand _)
  · exact fixed (frame_fvVor _)
  · exact fixed (frame_fvVxor _)
  · exact fixed (frame_fvVsel _)
  · exact fixed (frame_fvCmul _)
  · exact fixed (frame_fvCmac _)
  · exact fixed (frame_fvDot4 _)
  · exact fixed (frame_fvHsum _)
  · exact fixed (frame_fvPack _)
  · exact fixed (frame_fvUnpack _)
  · exact fixed (frame_fvBshuf _)
  · exact fixed (frame_fvMovv _)
  · exact fixed (frame_fvCvtf32 _)
  · exact fixed (frame_fvCvtbf16 _)
  · exact fixed (frame_fvCvtf16 _)
  · exact fixed (frame_fvCvti32 _)
  · exact fixed (frame_fvCvtn32 _)
  · exact fixed (frame_fvCvti16 _)
  · exact fixed (frame_fvCvtn16 _)
  · exact fixed (frame_fvCvti8 _)
  · exact fixed (frame_fvCvtn8 _)
  · exact fixed (frame_fvCvtb4 _)
  · exact fixed (frame_fvCvtb8 _)
  · exact fixed (frame_fvCvtb12 _)
  · exact fixed (frame_fvCvtc4 _)
  · exact fixed (frame_fvCvtc8 _)
  · exact fixed (frame_fvCvtci32 _)
  · exact fixed (frame_sfExp2 _)
  · exact fixed (frame_sfExp _)
  · exact fixed (frame_sfLog2 _)
  · exact fixed (frame_sfLn _)
  · exact fixed (frame_sfRcp _)
  · exact fixed (frame_sfRsqrt _)
  · exact fixed (frame_sfSqrt _)
  · exact fixed (frame_sfSin _)
  · exact fixed (frame_sfCos _)
  · exact fixed (frame_sfTanh _)
  · exact fixed (frame_sfSigm _)
  · exact fixed (frame_sfErf _)
  · exact fixed (frame_sfRmax _)
  · exact fixed (frame_sfRexp _)
  · exact fixed (frame_sfRdiv _)
  · exact fixed (frame_sfRmsq _)
  · exact fixed (frame_xlShfl _)
  · exact fixed (frame_xlShup _)
  · exact fixed (frame_xlShdn _)
  · exact fixed (frame_xlXorsh _)
  · exact fixed (frame_xlBcast _)
  · exact fixed (frame_xlBallot _)
  · exact fixed (frame_xlAnyl _)
  · exact fixed (frame_xlAlll _)
  · exact fixed (frame_xlElect _)
  · exact fixed (frame_xlLanemask _)
  · exact fixed (frame_xlPopl _)
  · exact fixed (frame_xlRmin _)
  · exact fixed (frame_xlRmax _)
  · exact fixed (frame_xlRadd _)
  · exact fixed (frame_xlScanadd _)
  · exact frame_lsLd _
  · exact frame_lsSt _
  · exact frame_lsLdv _
  · exact frame_lsStv _
  · exact frame_lsLdacq _
  · exact frame_lsStrel _
  · exact frame_lsPf _
  · exact frame_lsLdnc _
  · exact frame_lsStMc _
  · exact frame_lsAadd _
  · exact frame_lsAsub _
  · exact frame_lsAmin _
  · exact frame_lsAmax _
  · exact frame_lsAand _
  · exact frame_lsAor _
  · exact frame_lsAxor _
  · exact frame_lsAxch _
  · exact frame_lsAcas _
  · exact frame_lsAaddf _
  · exact frame_lsAaddAcq _
  · exact frame_lsAsubAcq _
  · exact frame_lsAminAcq _
  · exact frame_lsAmaxAcq _
  · exact frame_lsAandAcq _
  · exact frame_lsAorAcq _
  · exact frame_lsAxorAcq _
  · exact frame_lsAxchAcq _
  · exact frame_lsAcasAcq _
  · exact frame_lsAaddfAcq _
  · exact frame_lsAaddRel _
  · exact frame_lsAsubRel _
  · exact frame_lsAminRel _
  · exact frame_lsAmaxRel _
  · exact frame_lsAandRel _
  · exact frame_lsAorRel _
  · exact frame_lsAxorRel _
  · exact frame_lsAxchRel _
  · exact frame_lsAcasRel _
  · exact frame_lsAaddfRel _
  · exact frame_lsAaddAr _
  · exact frame_lsAsubAr _
  · exact frame_lsAminAr _
  · exact frame_lsAmaxAr _
  · exact frame_lsAandAr _
  · exact frame_lsAorAr _
  · exact frame_lsAxorAr _
  · exact frame_lsAxchAr _
  · exact frame_lsAcasAr _
  · exact frame_lsAaddfAr _
  · exact frame_spSpcfg _
  · exact frame_spSpbase _
  · exact frame_spSpstart _
  · exact frame_spSpskip _
  · exact frame_spSpstat _
  · exact frame_spSpstop _
  · exact frame_cpCpsrc _
  · exact frame_cpCpdst _
  · exact frame_cpCpshape _
  · exact frame_cpCpgo _
  · exact frame_cpCpwm _
  · exact frame_cpCpstat _
  · exact frame_cpCpabort _
  · exact frame_cpCphalo _
  · exact frame_cpCpring _
  · exact frame_mxMxres _
  · exact frame_mxMxrel _
  · exact frame_mxMxcop _
  · exact frame_mxMxpass _
  · exact frame_mxMxdrain _
  · exact frame_mxMxsave _
  · exact frame_mxMxload _
  · exact frame_mxMxstat _
  · exact frame_mxMxdrainAcc _
  · exact frame_brJmp _
  · exact frame_brBra _
  · exact frame_brBrz _
  · exact frame_brBrall _
  · exact frame_brCall _
  · exact frame_brRet _
  · exact frame_brLoopi _
  · exact frame_brLoop _
  · exact frame_brHalt _
  · exact frame_brYield _
  · exact frame_syBar _
  · exact frame_syBarw _
  · exact frame_syBarar _
  · exact frame_syCbar _
  · exact frame_syFence _
  · exact frame_syAcq _
  · exact frame_syRel _
  · exact frame_syTwait _
  · exact frame_syTread _
  · exact frame_syMwait _
  · exact frame_syWmwait _
  · exact frame_sySleep _
  · exact frame_syTick _
  · exact frame_ssRdsys _
  · exact frame_ssWrsys _
  · exact frame_ssTrap _
  · exact frame_ssRti _
  · exact frame_ssTlbinv _
  · exact frame_ssReplay _
  · exact frame_ssPub _
  · exact frame_ssIclock _
  · exact frame_ssIcunlock _
  · exact frame_ssCtxsave _
  · exact frame_ssCtxload _
  · exact frame_lnPush _
  · exact frame_lnStat _
  · exact frame_lnCancel _

end Sys2Proof.Machine
end

