-- ==== Sys2Proof/Laws/Tables.lean ====
section
/-! SUPPORT. Reading a table after a write, and each place of the state after the update of another. -/

namespace Sys2Proof.Machine

theorem tget_tput {α : Type} (d : α) (t : Tbl α) (k : Nat) (v : α) (n : Nat) :
    tget d (tput t k v) n = if n = k then v else tget d t n := by
  induction t with
  | nil => simp [tput, tget, eq_comm]
  | cons p t ih =>
    obtain ⟨a, b⟩ := p
    unfold tput
    split
    · simp [tget, eq_comm]
    · split
      · rename_i h; subst h; simp [tget, eq_comm]; by_cases h : k = n <;> simp [h]
      · simp only [tget]; rw [ih]
        split <;> rename_i h1
        · split
          · omega
          · rfl
        · rfl

theorem tfind_tput {α : Type} (t : Tbl α) (k : Nat) (v : α) (n : Nat) :
    tfind (tput t k v) n = if n = k then some v else tfind t n := by
  induction t with
  | nil => simp [tput, tfind, eq_comm]
  | cons p t ih =>
    obtain ⟨a, b⟩ := p
    unfold tput
    split
    · simp [tfind, eq_comm]
    · split
      · rename_i h; subst h; simp [tfind, eq_comm]; by_cases h : k = n <;> simp [h]
      · simp only [tfind]; rw [ih]
        split <;> rename_i h1
        · split
          · omega
          · rfl
        · rfl

theorem tget_of_tfind {α : Type} {d v : α} {t : Tbl α} {n : Nat} (h : tfind t n = some v) : tget d t n = v := by
  induction t with
  | nil => cases h
  | cons p t ih =>
    obtain ⟨a, b⟩ := p
    simp only [tfind] at h
    simp only [tget]
    split at h
    · rw [if_pos ‹_›]; exact Option.some.inj h
    · rw [if_neg ‹_›]; exact ih h

theorem tget_of_none {α : Type} {d : α} {t : Tbl α} {n : Nat} (h : tfind t n = none) : tget d t n = d := by
  induction t with
  | nil => rfl
  | cons p t ih =>
    obtain ⟨a, b⟩ := p
    simp only [tfind] at h
    simp only [tget]
    split at h
    · cases h
    · rw [if_neg ‹_›]; exact ih h

theorem tget_map {α β : Type} {e : β} (f : Nat → α → β) (t : Tbl α) (n : Nat) :
    tget e (t.map (fun p => (p.1, f p.1 p.2))) n = match tfind t n with | some v => f n v | none => e := by
  induction t with
  | nil => rfl
  | cons p t ih =>
    obtain ⟨a, b⟩ := p
    simp only [List.map_cons, tget, tfind]
    by_cases h : a = n
    · subst h; simp
    · simp only [if_neg h]; exact ih

theorem tfind_map {α β : Type} (f : Nat → α → β) (t : Tbl α) (n : Nat) :
    tfind (t.map (fun p => (p.1, f p.1 p.2))) n = (tfind t n).map (f n) := by
  induction t with
  | nil => rfl
  | cons p t ih =>
    obtain ⟨a, b⟩ := p
    simp only [List.map_cons, tfind]
    by_cases h : a = n
    · subst h; simp
    · simp only [if_neg h]; exact ih

theorem tfind_tdel {α : Type} (t : Tbl α) (k n : Nat) : tfind (tdel t k) n = if n = k then none else tfind t n := by
  induction t with
  | nil => simp [tdel, tfind]
  | cons p t ih =>
    obtain ⟨a, b⟩ := p
    simp only [tdel]
    split
    · rw [ih]; rename_i h; subst h
      simp only [tfind]; by_cases h : n = a
      · simp [h]
      · simp [h, Ne.symm h]
    · simp only [tfind]
      split
      · rename_i h1 h2; subst h2; rw [if_neg h1]
      · exact ih

/-! ### Places -/

@[simp] theorem core_modCore (s : State) (c : Nat) (f : Core → Core) (d : Nat) :
    core (modCore s c f) d = if d = c then f (core s c) else core s d := by
  simp only [core, modCore, setCore, tget_tput]

@[simp] theorem core_modGroup (s : State) (c sl : Nat) (f : Group → Group) (d : Nat) :
    core (modGroup s c sl f) d =
      if d = c then { core s c with groups := tput (core s c).groups sl (f (group s c sl)) } else core s d := by
  simp only [modGroup, setGroup, core_modCore]

theorem group_modCore (s : State) (c : Nat) (f : Core → Core) (d y : Nat) :
    group (modCore s c f) d y = if d = c then tget {} (f (core s c)).groups y else group s d y := by
  simp only [group, core_modCore]; split <;> rfl

@[simp] theorem group_modGroup (s : State) (c sl : Nat) (f : Group → Group) (d y : Nat) :
    group (modGroup s c sl f) d y = if d = c ∧ y = sl then f (group s c sl) else group s d y := by
  simp only [group, core_modGroup]
  by_cases h : d = c
  · subst h; simp [tget_tput]
  · simp [h]

theorem group?_modGroup (s : State) (c sl : Nat) (f : Group → Group) (d y : Nat) :
    group? (modGroup s c sl f) d y = if d = c ∧ y = sl then some (f (group s c sl)) else group? s d y := by
  simp only [group?, core_modGroup]
  by_cases h : d = c
  · subst h; simp [tfind_tput]
  · simp [h]

@[simp] theorem die_modDie (s : State) (c : Nat) (f : Die → Die) (d : Nat) :
    die (modDie s c f) d = if d = c then f (die s c) else die s d := by
  simp only [die, modDie, tget_tput]

@[simp] theorem part_modPart (s : State) (c : Nat) (f : Partition → Partition) (d : Nat) :
    part (modPart s c f) d = if d = c then f (part s c) else part s d := by
  simp only [part, modPart, tget_tput]

@[simp] theorem team_modTeam (s : State) (c : Nat) (f : Team → Team) (d : Nat) :
    team (modTeam s c f) d = if d = c then f (team s c) else team s d := by
  simp only [team, modTeam, tget_tput]

@[simp] theorem grid_modGrid (s : State) (c : Nat) (f : Grid → Grid) (d : Nat) :
    grid (modGrid s c f) d = if d = c then f (grid s c) else grid s d := by
  simp only [grid, modGrid, tget_tput]

@[simp] theorem portOf_setPort (g : Group) (h : Bool) (u : Nat) (p : Port) (h' : Bool) (u' : Nat) :
    portOf (setPort g h u p) h' u' = if h' = h ∧ u' = u then p else portOf g h' u' := by
  cases h <;> cases h' <;> simp [portOf, setPort, tget_tput]

end Sys2Proof.Machine
end

