-- ==== Sys2Proof/Machine/Steman.lean ====
section
/-! DEFINITION. The steman assembler, from source text to a kernel image, and the image placed in memory (R85 to R94).
What the rules leave open of a source text is fixed as log 16 says. -/

namespace Sys2Proof.Machine

/-! ### Text (R85) -/

/-- Source text. -/
abbrev Text := List Char

/-- Why steman refuses a line. -/
inductive AsmError where
  /-- a name that is no name, or that spells a register or a unit (R85) -/
  | name
  /-- a number that is none, or that lies outside its limits (R89, R93) -/
  | number
  /-- a line or a move of no form that R85 to R87 give -/
  | form
  /-- a guard, source or destination that R87, R88 and R91 do not give -/
  | operand
  /-- a word that no extension mode reproduces (R89) -/
  | immediate
  /-- a bundle offset outside −128..127 (R90) -/
  | offset
  /-- an operation, type or modifier that R91 does not accept -/
  | operation
  /-- a bundle that fails the check of R80 with this number (R92) -/
  | check (n : Nat)
  /-- a directive that R93 does not give, or with other operands -/
  | directive
  /-- a directive or a bundle where R93 does not allow one -/
  | place
  /-- a label that no line defines, that two lines define, or that names nothing -/
  | label
  deriving DecidableEq, Repr

/-- A list of results, or the first error. -/
def allOk {α β : Type} (f : α → Except AsmError β) : List α → Except AsmError (List β)
  | [] => .ok []
  | x :: xs =>
    match f x, allOk f xs with
    | .ok y, .ok ys => .ok (y :: ys)
    | .error e, _ => .error e
    | _, .error e => .error e

/-- A blank. -/
def blank (c : Char) : Bool := c == ' ' || c == '\t' || c == '\r'

/-- Text without the blanks at its ends. -/
def trim (x : Text) : Text := ((x.dropWhile blank).reverse.dropWhile blank).reverse

/-- The parts of a text between occurrences of a character. -/
def pieces (c : Char) (x : Text) : List Text :=
  x.foldr (fun d ps => if d = c then [] :: ps else (d :: ps.headD []) :: ps.tail) [[]]

/-- The words of a text. -/
def wordsOf (x : Text) : List Text := (pieces ' ' (x.map (fun c => if blank c then ' ' else c))).filter (· != [])

/-- A line without its comment. -/
def cutComment : Text → Text
  | [] => []
  | c :: t => if c = '/' ∧ t.head? = some '/' then [] else c :: cutComment t

/-- The two sides of the first arrow. -/
def cutArrow : Text → Option (Text × Text)
  | [] => none
  | c :: t => if c = '-' ∧ t.head? = some '>' then some ([], t.tail) else (cutArrow t).map (fun p => (c :: p.1, p.2))

/-- The value that a table gives to a text. -/
def lookup (t : List (String × Nat)) (x : Text) : Option Nat := (t.find? (fun p => p.1.toList == x)).map (·.2)

/-- A letter of a name. -/
def letter (c : Char) : Bool := c.isAlpha || c == '_'

/-- A letter or _, followed by letters, digits or _. -/
def isName (x : Text) : Bool := x.head?.any letter && x.all (fun c => letter c || c.isDigit)

/-- The value of a digit. -/
def digit (c : Char) : Option Nat :=
  if c.isDigit then some (c.toNat - 48)
  else if 'a' ≤ c ∧ c ≤ 'f' then some (c.toNat - 87)
  else if 'A' ≤ c ∧ c ≤ 'F' then some (c.toNat - 55)
  else none

/-- Digits in a base; an underscore may stand between digits (R5, log 16). -/
def numeral (base : Nat) (x : Text) : Option Nat :=
  if x = [] ∨ x.head? = some '_' ∨ x.getLast? = some '_' then none
  else
    (x.filter (· != '_')).foldl (fun o c =>
      match o, digit c with
      | some n, some d => if d < base then some (n * base + d) else none
      | _, _ => none) (some 0)

/-- A magnitude, written in decimal, as 0x hexadecimal or as 0b binary (R89). -/
def magnitude (x : Text) : Option Nat :=
  if x.take 2 = ['0', 'x'] then numeral 16 (x.drop 2)
  else if x.take 2 = ['0', 'b'] then numeral 2 (x.drop 2)
  else numeral 10 x

/-- A number, optionally with a leading − (R89). -/
def number (x : Text) : Option Int :=
  if x.head? = some '-' then (magnitude x.tail).map (fun n => -(n : Int)) else (magnitude x).map (fun n => (n : Int))

/-- A number within limits. -/
def numberIn (lo hi : Int) (x : Text) : Except AsmError Int :=
  match number x with
  | some v => if lo ≤ v ∧ v ≤ hi then .ok v else .error .number
  | none => .error .number

/-- A natural number within limits. -/
def natIn (lo hi : Nat) (x : Text) : Except AsmError Nat := (numberIn lo hi x).map Int.toNat

/-! ### Names of the part (R65, R68, R70, R84) -/

/-- The units (R70). -/
def unitNames : List (String × Nat) :=
  [("ia0", 4), ("ia1", 5), ("fv0", 6), ("fv1", 7), ("fv2", 8), ("sf", 9), ("xl", 10), ("ls0", 11), ("ls1", 12),
    ("sp0", 13), ("sp1", 14), ("sp2", 15), ("sp3", 16), ("cp", 17), ("mx", 18), ("br", 19), ("sy", 20), ("ss", 21),
    ("ln", 22)]

/-- The lane constants (R88). -/
def laneNames : List (String × Nat) :=
  [("$lane", 0), ("$group", 1), ("$team", 2), ("$cluster", 3), ("$cx", 4), ("$cy", 5), ("$core", 6), ("$die", 7),
    ("$lcore", 8), ("$groups", 9), ("$teams", 10), ("$cw", 11), ("$ch", 12), ("$slot", 13), ("$lanebit", 14),
    ("$part", 15), ("$pc", 16)]

/-- The register files (R65). -/
def fileNames : List (String × Nat) := [("g", 0), ("v", 1), ("k", 2), ("q", 3)]

/-- The file and index of a register name. DESIGN CHOICE (log 16): a file's letter with any digits spells one (R85), so that a label
g500 or q16 is refused. -/
def register (x : Text) : Option (Nat × Nat) :=
  match lookup fileNames (x.take 1), if x.tail.all Char.isDigit then numeral 10 x.tail else none with
  | some f, some n => some (f, n)
  | _, _ => none

/-- A name that may be given to a label or a kernel (R85). -/
def freeName (x : Text) : Bool := isName x && (register x).isNone && (lookup unitNames x).isNone

/-- Names for codes that are assigned in order. -/
def numbered (n : Nat) (xs : List String) : List (String × Nat) := xs.zipIdx.map (fun p => (p.1, n + p.2))

/-- The atomics with an order form (R84). -/
def atomics (form : String) : List String :=
  ["aadd", "asub", "amin", "amax", "aand", "aor", "axor", "axch", "acas", "aaddf"].map (· ++ form)

/-- The operations of a class of unit (R84). -/
def opNames : UnitCls → List (String × Nat)
  | .ia =>
    numbered 0x00 ["add", "sub", "rsub", "neg", "abs", "min", "max", "addsat", "subsat", "mul", "mulhi", "mad", "lea", "hmix",
      "mov"] ++ numbered 0x10 ["and", "or", "xor", "andn", "not"] ++ numbered 0x18 ["shl", "shr", "sar", "rot"] ++
    numbered 0x20 ["clz", "ctz", "pop", "brev", "bfx", "bfi", "sel"] ++
    numbered 0x28 ["cmpeq", "cmpne", "cmplt", "cmple", "cmpgt", "cmpge"]
  | .fv =>
    numbered 0x00 ["fadd", "fsub", "fmul", "fma", "fms", "fnma", "fmin", "fmax", "fabs", "fneg", "fcmp", "frnd"] ++
    numbered 0x10 ["vadd", "vsub", "vmul", "vmad", "vmin", "vmax", "vand", "vor", "vxor", "vsel"] ++
    numbered 0x1C ["cmul", "cmac", "dot4", "hsum", "pack", "unpack", "bshuf", "movv"] ++
    numbered 0x30 ["cvtf32", "cvtbf16", "cvtf16", "cvti32", "cvtn32", "cvti16", "cvtn16", "cvti8", "cvtn8", "cvtb4", "cvtb8",
      "cvtb12", "cvtc4", "cvtc8", "cvtci32"]
  | .sf =>
    numbered 0x00 ["exp2", "exp", "log2", "ln", "rcp", "rsqrt", "sqrt", "sin", "cos", "tanh", "sigm", "erf"] ++
    numbered 0x10 ["rmax", "rexp", "rdiv", "rmsq"]
  | .xl =>
    numbered 0x00 ["shfl", "shup", "shdn", "xorsh", "bcast"] ++
    numbered 0x08 ["ballot", "anyl", "alll", "elect", "lanemask", "popl"] ++
    numbered 0x10 ["rmin", "rmax", "radd", "scanadd"]
  | .ls =>
    numbered 0x00 ["ld", "st", "ldv", "stv", "ldacq", "strel", "pf", "ldnc", "st.mc"] ++ numbered 0x10 (atomics "") ++
    numbered 0x20 (atomics ".acq") ++ numbered 0x30 (atomics ".rel") ++ numbered 0x40 (atomics ".ar")
  | .sp => numbered 0 ["spcfg", "spbase", "spstart", "spskip", "spstat", "spstop"]
  | .cp => numbered 0 ["cpsrc", "cpdst", "cpshape", "cpgo", "cpwm", "cpstat", "cpabort", "cphalo", "cpring"]
  | .mx => numbered 0 ["mxres", "mxrel", "mxcop", "mxpass", "mxdrain", "mxsave", "mxload", "mxstat", "mxdrain.acc"]
  | .br => numbered 0 ["jmp", "bra", "brz", "brall", "call", "ret", "loopi", "loop", "halt", "yield"]
  | .sy => numbered 0 ["bar", "barw", "barar", "cbar", "fence", "acq", "rel", "twait", "tread", "mwait", "wmwait", "sleep",
      "tick"]
  | .ss => numbered 0 ["rdsys", "wrsys", "trap", "rti", "tlbinv", "replay", "pub", "iclock", "icunlock", "ctxsave", "ctxload"]
  | .ln => numbered 0 ["push", "stat", "cancel"]

/-- The types of ia (R82). -/
def iaTypes : List (String × Nat) := numbered 0 ["i32", "n32", "i16x2", "n16x2", "i8x4", "n8x4"]

/-- The types of fv and sf (R82, R154, R160). -/
def fvTypes : List (String × Nat) := numbered 0 ["f32x4", "bf16x8", "f16x8", "i32x4", "i16x8", "i8x16", "c32x2", "ext"]

/-- The types of ls (R210). -/
def lsTypes (op : Nat) : List (String × Nat) :=
  match op with
  | 0 | 4 | 7 => numbered 0 ["i32", "i8", "n8", "i16", "n16", "w64", "w128"] ++ [("n32", 0), ("f32", 0)]
  | 1 | 5 | 8 => numbered 0 ["i32", "i8", "n8", "i16", "n16", "w64", "w128"]
  | 2 | 3 | 6 => []
  | _ => numbered 0 ["i32", "n32", "f32", "i64", "n64"]

/-- The type names that an operation takes, with their TYPE codes (R82, R91 and the operation's description). -/
def typeNames (c : UnitCls) (op : Nat) : List (String × Nat) :=
  match c with
  | .ia => iaTypes
  | .fv | .sf => fvTypes
  | .xl => if 0x10 ≤ op then numbered 0 ["i32", "n32", "f32"] else []
  | .ls => lsTypes op
  | .sp => if op = 0 then numbered 0 ["wd0", "wd1", "wd2", "wd3", "wd4", "wd5", "wd6", "wd7"] else []
  | .cp => if op = 2 then numbered 0 ["s0", "s1", "s2", "s3", "s4", "s5"] else []
  | .mx =>
    match op with
    | 0 => numbered 0 ["b4", "b8", "b12", "c4", "c8", "mxfp4", "fp8", "bf16"]
    | 4 | 8 => numbered 0 ["f32", "bf16", "i32", "ci32", "raw"]
    | 7 => numbered 0 ["st", "clr", "ob"]
    | _ => []
  | .br => [("rel", 0), ("abs", 1)]
  | .ss => if op = 4 ∨ op = 5 then [("all", 1)] else []
  | .sy | .ln => []

/-- Whether an operation takes a scope (R84). -/
def takesScope (c : UnitCls) (op : Nat) : Bool :=
  match c with
  | .ls => op == 4 || op == 5 || decide (0x10 ≤ op)
  | .sy => decide (4 ≤ op ∧ op ≤ 6)
  | .ss => op == 6
  | _ => false

/-! ### Modifiers (R91, R134, R145) -/

/-- The modifiers of a trigger. -/
structure Mods where
  rnd : Option Nat := none
  satur : Option Nat := none
  scope : Option Nat := none
  scale : Option Nat := none
  cond : Option Nat := none
  deriving DecidableEq, Repr

/-- A field of the modifiers given once. DESIGN CHOICE (log 16): R91 does not say what a second modifier of one field does; it
is refused. -/
def once (old new : Option Nat) : Option (Option Nat) := if old.isSome then none else some new

/-- The modifiers with one more. -/
def addMod (m : Mods) (x : Text) : Option Mods :=
  match lookup [("rz", 1), ("ru", 2), ("rd", 3)] x, lookup [("sat", 1)] x,
    lookup (numbered 0 ["lane", "group", "team", "cluster", "die", "pkg", "sys"]) x,
    lookup (numbered 0 ["x1", "x2", "x4", "x8", "x16", "x32", "x64", "x128"]) x,
    lookup (numbered 0 ["eq", "ne", "lt", "le", "gt", "ge", "un", "ord"]) x with
  | some v, _, _, _, _ => (once m.rnd v).map (fun z => { m with rnd := z })
  | _, some v, _, _, _ => (once m.satur v).map (fun z => { m with satur := z })
  | _, _, some v, _, _ => (once m.scope v).map (fun z => { m with scope := z })
  | _, _, _, some v, _ => (once m.scale v).map (fun z => { m with scale := z })
  | _, _, _, _, some v => (once m.cond v).map (fun z => { m with cond := z })
  | _, _, _, _, _ => none

/-- Bits [5:3] of a trigger: scope, scale or condition, or RND and SAT; none for a set of modifiers that the operation does
not take. -/
def modBits (c : UnitCls) (op : Nat) (m : Mods) : Option Nat :=
  let plain := m.rnd.isNone && m.satur.isNone
  let lea := c == .ia && op == 0x0C
  let fcmp := c == .fv && op == 0x0A
  if (m.scale.isSome && !lea) || (m.cond.isSome && !fcmp) || (m.scope.isSome && !takesScope c op) then none
  else if takesScope c op then (if plain then m.scope else none)
  else if lea then (if plain then some (m.scale.getD 0) else none)
  else if fcmp then (if plain then some (m.cond.getD 0) else none)
  else some (2 * m.rnd.getD 0 + m.satur.getD 0)

/-! ### Moves (R87 to R91) -/

/-- Where a label stands: in the code section or not, and its offset from the start of the image. -/
structure AsmLabel where
  name : Text
  code : Bool
  off : Nat
  deriving DecidableEq, Repr

/-- The label of a name. -/
def findLabel (ls : List AsmLabel) (x : Text) : Except AsmError AsmLabel :=
  match ls.find? (fun l => l.name == x) with | some l => .ok l | none => .error .label

/-- The bundle that a code label names. DESIGN CHOICE (log 16): R90 does not say what #label does with a label of the data
section; it is refused. -/
def labelBundle (ls : List AsmLabel) (x : Text) : Except AsmError Nat :=
  match findLabel ls x with
  | .ok l => if l.code then .ok (l.off / 32) else .error .label
  | .error e => .error e

/-- The 32-bit word that an immediate stands for (R89). DESIGN CHOICE (log 16): R89 does not say whether a value outside -2^31 to
2^32 - 1, the value of v<<8 among them, stands for its low 32 bits; it is refused, as is #v*4 with v outside -128 to 255. -/
def immValue (x : Text) : Except AsmError (BitVec 32) :=
  let n := x.length
  if x.drop (n - 3) = ['<', '<', '8'] then
    match number (x.take (n - 3)) with
    | some v => if -(2 ^ 31) ≤ v * 256 ∧ v * 256 < 2 ^ 32 then .ok (BitVec.ofInt 32 (v * 256)) else .error .immediate
    | none => .error .number
  else if x.drop (n - 2) = ['*', '4'] then
    (numberIn (-128) 255 (x.take (n - 2))).map (fun v => BitVec.ofInt 32 (v % 256 * 0x01010101))
  else (numberIn (-(2 ^ 31)) (2 ^ 32 - 1) x).map (BitVec.ofInt 32)

/-- The selector of an immediate in an extension mode (R65, R69). -/
def immSel (w : BitVec 32) (mode : Nat) : BitVec 10 :=
  (if mode = 2 then w.extractLsb' 8 8 else w.extractLsb' 0 8) ++ BitVec.ofNat 2 mode

/-- The selector that steman encodes: the first mode that reproduces the word (R89). -/
def encodeImm (w : BitVec 32) : Except AsmError (BitVec 10) :=
  match ((List.range 4).map (immSel w)).find? (fun x => immWord x == w) with
  | some x => .ok x
  | none => .error .immediate

/-- An immediate source of the bundle with an index (R89, R90). -/
def immSource (ls : List AsmLabel) (idx : Nat) (x : Text) : Except AsmError (BitVec 10) :=
  if isName x then
    match labelBundle ls x with
    | .ok b =>
      let d : Int := b - idx
      if -128 ≤ d ∧ d ≤ 127 then .ok (BitVec.ofInt 8 d ++ 1#2) else .error .offset
    | .error e => .error e
  else (immValue x).bind encodeImm

/-- A source: class, selector and PEEK (R88). -/
def parseSource (ls : List AsmLabel) (idx : Nat) (x : Text) : Except AsmError (BitVec 2 × BitVec 10 × Bool) :=
  match lookup laneNames x, register x with
  | some n, _ => .ok (3, BitVec.ofNat 10 n, false)
  | none, some (f, n) => if n < 256 then .ok (0, BitVec.ofNat 10 (f * 256 + n), false) else .error (.check 3)
  | none, none =>
    if x.head? = some '#' then (immSource ls idx x.tail).map (fun v => (2, v, false))
    else
      match pieces '.' x with
      | u :: p :: rest =>
        match lookup unitNames u, lookup (numbered 0 ["r", "a", "b", "aux"]) p with
        | some u, some p =>
          if rest = [] then .ok (1, BitVec.ofNat 10 (u * 32 + p * 8), false)
          else if rest = ["peek".toList] ∧ p = 0 then .ok (1, BitVec.ofNat 10 (u * 32), true)
          else .error .operand
        | _, _ => .error .operand
      | _ => .error .operand

/-- A guard: GINV and GQ (R87). -/
def parseGuard (x : Text) : Except AsmError (Bool × BitVec 4) :=
  let inv := x.take 2 == ['?', '!']
  if x.head? = some '?' then
    match register (x.drop (if inv then 2 else 1)) with
    | some (3, n) => if n < 16 then .ok (inv, BitVec.ofNat 4 n) else .error .operand
    | _ => .error .operand
  else .error .operand

/-- A trigger of a unit: the parts of its text after the unit; an order form belongs to the mnemonic (R84, R91). -/
def parseTrigger (src : Src) (u : Nat) (c : UnitCls) (ps : List Text) : Except AsmError Move40 :=
  let (op, rest) :=
    match lookup (opNames c) (ps.headD [] ++ '.' :: ps.tail.headD []) with
    | some op => (some op, ps.drop 2)
    | none => (lookup (opNames c) (ps.headD []), ps.tail)
  match op with
  | none => .error .operation
  | some op =>
    let (typ, ms) := match lookup (typeNames c op) (rest.headD []) with
      | some t => (some t, rest.tail)
      | none => (none, rest)
    if typ = none ∧ (c = .ia ∨ c = .fv) then .error .operation
    else
      match ms.foldl (fun (o : Option Mods) x => o.bind (fun m => addMod m x)) (some {}) with
      | none => .error .operation
      | some m =>
        match modBits c op m with
        | none => .error .operation
        | some b =>
          .ok { src := src, dunit := BitVec.ofNat 5 u, dport := 2, op := BitVec.ofNat 7 op
                typ := BitVec.ofNat 3 (typ.getD 0), mod := BitVec.ofNat 3 b, rsv := 0 }

/-- A destination (R91). -/
def parseDest (src : Src) (x : Text) : Except AsmError Move40 :=
  let plain (u : Nat) (d : BitVec 2) (op : BitVec 7) : Move40 :=
    { src := src, dunit := BitVec.ofNat 5 u, dport := d, op := op, typ := 0, mod := 0, rsv := 0 }
  match register x with
  | some (f, n) =>
    if n < 512 then .ok (plain f (BitVec.ofNat 2 (n / 128)) (BitVec.ofNat 7 n)) else .error (.check 3)
  | none =>
    if x = "null".toList then .ok (plain 31 0 0)
    else
      match pieces '.' x with
      | u :: p :: rest =>
        match lookup unitNames u with
        | none => .error .operand
        | some u =>
          match lookup [("a", 0), ("b", 1), ("aux", 3)] p, unitOfCode u with
          | some d, _ => if rest = [] then .ok (plain u (BitVec.ofNat 2 d) 0) else .error .operand
          | none, some (c, _) => parseTrigger src u c (p :: rest)
          | none, none => .error .operand
      | _ => .error .operand

/-- A move, `guard source -> destination`, of the bundle with an index (R87). -/
def parseMove (ls : List AsmLabel) (idx : Nat) (x : Text) : Except AsmError Move40 :=
  match cutArrow x with
  | none => .error .form
  | some (l, r) =>
    let go (g : Except AsmError (Bool × BitVec 4)) (s d : Text) : Except AsmError Move40 :=
      match g, parseSource ls idx s with
      | .ok (inv, q), .ok (scls, ssel, peek) => parseDest ⟨inv, q, scls, ssel, peek⟩ d
      | .error e, _ => .error e
      | _, .error e => .error e
    match wordsOf l, wordsOf r with
    | [s], [d] => go (.ok (false, 0)) s d
    | [g, s], [d] => go (parseGuard g) s d
    | _, _ => .error .form

/-! ### Bundles (R86, R92) -/

/-- The flags of a bundle: STOP, LCLOSE and HINT. -/
structure BundleFlags where
  stop : Bool := false
  close : Bool := false
  hint : Nat := 0
  deriving DecidableEq, Repr

/-- The flags with one more (R86). DESIGN CHOICE (log 16): R86 does not say whether a flag may stand twice; it may, and of two
%hint the last one stands. -/
def addFlag (f : BundleFlags) (x : Text) : Except AsmError BundleFlags :=
  match wordsOf x with
  | [w] =>
    if w = "stop".toList then .ok { f with stop := true }
    else if w = "close".toList then .ok { f with close := true }
    else .error .form
  | [w, n] => if w = "hint".toList then (natIn 0 7 n).map (fun n => { f with hint := n }) else .error .form
  | _ => .error .form

/-- The words of the moves, slot 0 lowest (R60). -/
def slotsNat : List Move40 → Nat
  | [] => 0
  | m :: ms => (wordOf m).toNat + 2 ^ 40 * slotsNat ms

/-- The bundle that holds moves and flags (R60, R86). -/
def bundleOf (ms : List Move40) (f : BundleFlags) : BitVec 256 :=
  BitVec.ofNat 256
    (ms.length * 2 ^ 253 + f.stop.toNat * 2 ^ 252 + f.close.toNat * 2 ^ 251 + f.hint * 2 ^ 248 + slotsNat ms)

/-- A part that offers every format (R32), as far as steman looks. -/
def anyPart : State := { pkg := { capmask := BitVec.allOnes 64 } }

/-- The first of checks 1, 3, 4 and 5 of R80 that a bundle fails whatever its group does (R92). -/
def textCheck (gregs vrows : Nat) (w : BitVec 256) : Option Nat :=
  let g : Group := { gcount := gregs, vrows := vrows, rotate := true }
  let b : Bundle := { addr := 0, word := w }
  let legal (i : Nat) : Bool := srcOk g (slotFields w i).src && dstOk g (slotFields w i)
  let known (i : Nat) : Bool :=
    match trigFieldsOf (slotFields w i) with
    | some (c, op, t) => (opOf c op t).isSome && opOk anyPart g {} 0 c op t
    | none => true
  if (checkBundleFields w).isSome then some 1
  else if !(usedSlots w).all legal then some 3
  else if !(usedSlots w).all known then some 4
  else if !(usedSlots w).all (checkConflict g b) then some 5
  else none

/-- A bundle line (R86, R92). -/
def parseBundle (ls : List AsmLabel) (gregs vrows idx : Nat) (x : Text) : Except AsmError (BitVec 256) :=
  let ps := pieces '%' x
  let body := trim (ps.headD [])
  let flags := ps.tail.foldl (fun (o : Except AsmError BundleFlags) f => o.bind (fun b => addFlag b f)) (.ok {})
  match if body = "nop".toList then .ok [] else allOk (parseMove ls idx) (pieces '|' body), flags with
  | .ok ms, .ok f =>
    if 6 < ms.length then .error (.check 1)
    else
      match textCheck gregs vrows (bundleOf ms f) with
      | some n => .error (.check n)
      | none => .ok (bundleOf ms f)
  | .error e, _ => .error e
  | _, .error e => .error e

/-! ### The image (R93, R94) -/

/-- A word of the constant table: a value, or a label by its offset from the start of the image. -/
inductive WordVal where
  | num (v : BitVec 32)
  | label (off : Nat)
  deriving DecidableEq, Repr

/-- The kernel descriptor (R93). -/
structure KernelDesc where
  name : Text := []
  /-- the entry, in bundles from the start of the code -/
  entry : Nat := 0
  groups : Nat := 1
  gregs : Nat := 8
  vrows : Nat := 0
  scratch : Nat := 0
  resA : Nat := 0
  resB : Nat := 0
  rotate : Bool := false
  skein : Option Nat := none
  constLen : Nat := 0
  preload : List (BitVec 16) := []
  deriving DecidableEq, Repr

/-- A kernel image before it is placed (R94). -/
structure AsmImage where
  code : List (BitVec 256) := []
  data : List Byte := []
  /-- labels in the data: offset in the data section, width in bytes, and the label's offset in the image -/
  fixes : List (Nat × Nat × Nat) := []
  consts : Tbl WordVal := []
  desc : KernelDesc := {}
  deriving DecidableEq, Repr

/-- The least multiple of n that is not below x. -/
def roundUpTo (x n : Nat) : Nat := (x + n - 1) / n * n

/-- Where the data section starts, after a number of bundles. -/
def dataStart (bundles : Nat) : Nat := roundUpTo (32 * bundles) 64

/-- Where the constant table starts. -/
def AsmImage.tableStart (i : AsmImage) : Nat := roundUpTo (dataStart i.code.length + i.data.length) 64

/-- What a label stands for as a value: bits [36:5] of its address (R93). -/
def labelWord (base off : Nat) : Nat := (base + off) / 32 % 2 ^ 32

/-- The data of an image placed at an address, with the labels filled in. -/
def AsmImage.dataAt (i : AsmImage) (base : Nat) : List Byte :=
  i.fixes.foldl (fun d f => d.take f.1 ++ leBytes f.2.1 (labelWord base f.2.2) ++ d.drop (f.1 + f.2.1)) i.data

/-- A word of the constant table at its place. -/
def WordVal.at (base : Nat) : WordVal → Nat
  | .num v => v.toNat
  | .label off => labelWord base off

/-- Where the loader places an image: at a multiple of 4,096, given by its number (R94). -/
def placeBase (page : Nat) : Nat := 4096 * page

/-- The bytes of an image placed at the page with a number (R94). -/
def AsmImage.bytesAt (i : AsmImage) (page : Nat) : List Byte :=
  let base := placeBase page
  let code := i.code.flatMap (fun w => leBytes 32 w.toNat)
  let gap (a b : Nat) : List Byte := List.replicate (b - a) 0
  code ++ gap code.length (dataStart i.code.length) ++ i.dataAt base ++
    gap (dataStart i.code.length + i.data.length) i.tableStart ++
    (List.range 128).flatMap (fun k => leBytes 4 ((tget (.num 0) i.consts k).at base))

/-- The launch record of an image placed at the page with a number: the fields of the descriptor, and those that the launcher writes,
from l (R93, R94, R307). -/
def AsmImage.record (i : AsmImage) (page : Nat) (l : LaunchRec) : List Byte :=
  let d := i.desc
  let base := placeBase page
  leBytes 8 (base + 32 * d.entry) ++ leBytes 4 l.teams ++ leBytes 1 d.groups ++ leBytes 1 l.w ++ leBytes 1 l.h ++
    leBytes 1 d.gregs ++ leBytes 1 d.vrows ++
    leBytes 1 (d.rotate.toNat + 2 * d.skein.isSome.toNat + 4 * (l.flags.getLsbD 2).toNat) ++ leBytes 1 l.cls ++
    leBytes 1 l.part ++ leBytes 4 d.scratch ++ leBytes 4 d.resA ++ leBytes 4 d.resB ++ leBytes 8 (base + i.tableStart) ++
    leBytes 1 d.constLen ++ leBytes 1 l.home ++ leBytes 1 l.hash ++ leBytes 5 0 ++ leBytes 8 (d.skein.getD 0) ++
    leBytes 8 l.counter ++ leBytes 8 l.incr.toNat ++ leBytes 8 l.target.toNat ++
    (List.range 16).flatMap (fun k => leBytes 2 ((d.preload.getD k 0).toNat)) ++ leBytes 144 0

/-! ### Lines and directives (R85, R93) -/

/-- Where the reading of a source stands. -/
inductive AsmStage where
  | before | code | data | closed | dataOnly
  deriving DecidableEq, Repr

/-- What has been read of a source. -/
structure Draft where
  stage : AsmStage := .before
  bundles : List Text := []
  /-- labels that wait for the item they name -/
  waiting : List Text := []
  labels : List AsmLabel := []
  data : List Byte := []
  /-- labels used in the data: name, offset in the data, width -/
  uses : List (Text × Nat × Nat) := []
  /-- the constants: a value, or the name of a label -/
  consts : Tbl (BitVec 32 ⊕ Text) := []
  entry : Option Text := none
  desc : KernelDesc := {}
  deriving DecidableEq, Repr

/-- The draft with the waiting labels placed at an item (R85). -/
def Draft.placed (d : Draft) : Draft :=
  let code := d.stage == .code
  let off := if code then 32 * d.bundles.length else dataStart d.bundles.length + d.data.length
  { d with labels := d.labels ++ d.waiting.map (fun n => ⟨n, code, off⟩), waiting := [] }

/-- The draft with one more label (R85). -/
def Draft.addLabel (d : Draft) (x : Text) : Except AsmError Draft :=
  if !freeName x then .error .name
  else if d.waiting.contains x || d.labels.any (fun l => l.name == x) then .error .label
  else .ok { d with waiting := d.waiting ++ [x] }

/-- The draft with bytes appended to the data section. -/
def Draft.addData (d : Draft) (bs : List Byte) : Draft := { d.placed with data := d.data ++ bs }

/-- The draft with one value of .byte or .word, of width w (R93). -/
def Draft.addValue (d : Draft) (w : Nat) (x : Text) : Except AsmError Draft :=
  if isName x then
    .ok { d with uses := d.uses ++ [(x, d.data.length, w)], data := d.data ++ leBytes w 0 }
  else
    (numberIn (-(2 ^ (8 * w - 1))) (2 ^ (8 * w) - 1) x).map (fun v =>
      { d with data := d.data ++ leBytes w (v % 2 ^ (8 * w)).toNat })

/-- A directive of the data section (R93). DESIGN CHOICE (log 16): R93 does not say what .byte, .word, .space or .align does
inside a kernel before .data; it is refused. R93 gives .space no limit either: a length above 2^32 - 1 is refused. -/
def Draft.dataDirective (d : Draft) (name : Text) (args : List Text) : Except AsmError Draft :=
  let inData := d.stage == .data || d.stage == .dataOnly
  if name = ".data".toList then
    if args ≠ [] then .error .directive
    else
      match d.stage with
      | .before => .ok { d with stage := .dataOnly }
      | .code => .ok { d with stage := .data }
      | .closed => .error .place
      | _ => .ok d
  else
    let d := if d.stage == .before then { d with stage := .dataOnly } else d
    if !(inData || d.stage == .dataOnly) then .error .place
    else
      match args with
      | [] => .error .directive
      | x :: xs =>
        if name = ".byte".toList ∨ name = ".word".toList then
          args.foldl (fun (o : Except AsmError Draft) v =>
            o.bind (fun d => d.addValue (if name = ".byte".toList then 1 else 4) v)) (.ok d.placed)
        else if xs ≠ [] then .error .directive
        else if name = ".align".toList then
          (natIn 1 4096 x).bind (fun n =>
            if 2 ^ Nat.log2 n = n then
              let here := dataStart d.bundles.length + d.data.length
              .ok { d with data := d.data ++ List.replicate (roundUpTo here n - here) 0 }
            else .error .directive)
        else (natIn 0 (2 ^ 32 - 1) x).map (fun n => d.addData (List.replicate n 0))

/-- A preload of .stream (R93, R307): valid, unit, set and first constant. -/
def streamPreload (args : List Text) : Except AsmError (BitVec 16) :=
  match args with
  | [u, s, k] =>
    match lookup unitNames u, natIn 0 7 s, register k with
    | some u, .ok s, some (2, i) =>
      if 13 ≤ u ∧ u ≤ 16 ∧ i ≤ 104 then .ok (BitVec.ofNat 16 (2 ^ 15 + (u - 13) * 2 ^ 13 + s * 2 ^ 10 + i))
      else .error .directive
    | _, _, _ => .error .directive
  | _ => .error .directive

/-- A directive with one number within limits. -/
def Draft.setNat (d : Draft) (lo hi : Nat) (args : List Text) (f : KernelDesc → Nat → KernelDesc) : Except AsmError Draft :=
  match args with
  | [x] => (natIn lo hi x).map (fun n => { d with desc := f d.desc n })
  | _ => .error .directive

/-- A directive of a kernel (R93). DESIGN CHOICE (log 16): a seventeenth .stream is refused, since a record preloads 16 sets (R307). -/
def Draft.kernelDirective (d : Draft) (name : Text) (args : List Text) : Except AsmError Draft :=
  if name = ".kend".toList then
    if args ≠ [] then .error .directive
    else if d.waiting ≠ [] then .error .label
    else .ok { d with stage := .closed }
  else if name = ".entry".toList then
    match args with | [x] => .ok { d with entry := some x } | _ => .error .directive
  else if name = ".groups".toList then d.setNat 1 16 args (fun k n => { k with groups := n })
  else if name = ".gregs".toList then
    match args with
    | [x] => (natIn 8 64 x).bind (fun n =>
        if n % 8 = 0 then .ok { d with desc := { d.desc with gregs := n } } else .error .directive)
    | _ => .error .directive
  else if name = ".vrows".toList then d.setNat 0 64 args (fun k n => { k with vrows := n })
  else if name = ".scratch".toList then d.setNat 0 524288 args (fun k n => { k with scratch := roundUpTo n 256 })
  else if name = ".reserve".toList then
    match args with
    | [['a'], x] => d.setNat 0 65536 [x] (fun k n => { k with resA := roundUpTo n 256 })
    | [['b'], x] => d.setNat 0 65536 [x] (fun k n => { k with resB := roundUpTo n 256 })
    | _ => .error .directive
  else if name = ".rotate".toList then
    if args ≠ [] then .error .directive else .ok { d with desc := { d.desc with rotate := true } }
  else if name = ".skein".toList then d.setNat 0 (2 ^ 32 - 1) args (fun k n => { k with skein := some n })
  else if name = ".const".toList then
    match args with
    | [i, v] =>
      match natIn 0 111 i with
      | .error e => .error e
      | .ok i =>
        if (tfind d.consts i).isSome then .error .directive
        else if isName v then .ok { d with consts := tput d.consts i (.inr v) }
        else (numberIn (-(2 ^ 31)) (2 ^ 32 - 1) v).map (fun v => { d with consts := tput d.consts i (.inl (BitVec.ofInt 32 v)) })
    | _ => .error .directive
  else if name = ".stream".toList then
    (streamPreload args).bind (fun p =>
      if d.desc.preload.length < 16 then .ok { d with desc := { d.desc with preload := d.desc.preload ++ [p] } }
      else .error .directive)
  else .error .directive

/-- The directives of a data section (R93). -/
def dataNames : List String := [".data", ".align", ".byte", ".word", ".space"]

/-- A directive line (R93). -/
def Draft.directive (d : Draft) (x : Text) : Except AsmError Draft :=
  let name := x.takeWhile (fun c => !blank c)
  let rest := trim (x.drop name.length)
  let args := if rest = [] then [] else (pieces ',' rest).map trim
  if dataNames.any (fun n => n.toList == name) then d.dataDirective name args
  else if name = ".kernel".toList then
    match args with
    | [n] =>
      if d.stage ≠ .before then .error .place
      else if freeName n then .ok { d with stage := .code, desc := { d.desc with name := n } }
      else .error .name
    | _ => .error .directive
  else if d.stage = .code ∨ d.stage = .data then d.kernelDirective name args
  else .error .place

/-- One line, without its comment (R85). DESIGN CHOICE (log 16): R93 does not say what a bundle after .data does; it is
refused. -/
def Draft.line (d : Draft) (x : Text) : Except AsmError Draft :=
  let lab := x.takeWhile (· != ':')
  let go (d : Draft) (x : Text) : Except AsmError Draft :=
    if x = [] then .ok d
    else if x.head? = some '.' then d.directive x
    else if d.stage = .code then
      let d := d.placed
      .ok { d with bundles := d.bundles ++ [x] }
    else .error .place
  if x.contains ':' then (d.addLabel (trim lab)).bind (fun d => go d (trim (x.drop (lab.length + 1)))) else go d x

/-- The lines of a source, without comments and empty lines, each with the lines that continue it (R85). DESIGN CHOICE (log 16):
R85 has a | line continue the bundle of the line before it, and does not say what it does after a line that holds nothing but
blanks or a comment; it continues the last line that holds something else. -/
def sourceLines (src : Text) : List Text :=
  (((pieces '\n' src).map (fun x => trim (cutComment x))).filter (· != [])).foldl
    (fun ls x =>
      if x.head? = some '|' ∧ ls ≠ [] then ls.dropLast ++ [ls.getLastD [] ++ ' ' :: x] else ls ++ [x]) []

/-- The image of what has been read. -/
def Draft.image (d : Draft) : Except AsmError AsmImage :=
  let off (x : Text) : Except AsmError Nat := (findLabel d.labels x).map (·.off)
  match allOk (fun (p : Text × Nat) => parseBundle d.labels d.desc.gregs d.desc.vrows p.2 p.1) d.bundles.zipIdx,
    allOk (fun (u : Text × Nat × Nat) => (off u.1).map (fun o => (u.2.1, u.2.2, o))) d.uses,
    allOk (fun (c : Nat × (BitVec 32 ⊕ Text)) =>
      (match c.2 with
        | .inl v => .ok (c.1, WordVal.num v)
        | .inr l => (off l).map (fun o => (c.1, WordVal.label o)) : Except AsmError (Nat × WordVal))) d.consts,
    (match d.entry with | none => (Except.ok 0 : Except AsmError Nat) | some x => labelBundle d.labels x) with
  | .ok code, .ok fixes, .ok consts, .ok entry =>
    .ok { code := code, data := d.data, fixes := fixes, consts := consts
          desc := { d.desc with entry := entry, constLen := d.consts.foldl (fun n c => max n (c.1 + 1)) 0 } }
  | .error e, _, _, _ => .error e
  | _, .error e, _, _ => .error e
  | _, _, .error e, _ => .error e
  | _, _, _, .error e => .error e

/-- steman: a source text to an image, or why it refuses the text (R85 to R94). -/
def assemble (src : Text) : Except AsmError AsmImage :=
  match (sourceLines src).foldl (fun (o : Except AsmError Draft) x => o.bind (fun d => d.line x)) (.ok {}) with
  | .error e => .error e
  | .ok d =>
    if d.stage = .code ∨ d.stage = .data then .error .place
    else if d.waiting ≠ [] then .error .label
    else d.image

end Sys2Proof.Machine
end

