-- ==== Sys2Proof/Machine/Xokefen.lean ====
section
/-! DEFINITION. Xokefen operation lists: the container, what the loader refuses, and the results that it promises (R95 to R98).
What the rules leave open of a list is fixed as log 16 says. -/

namespace Sys2Proof.Machine

/-! ### The container (R95, R96) -/

/-- Why the loader refuses a container or a list. -/
inductive LoadRefusal where
  /-- magic, version, lengths or offsets of the container (R95) -/
  | container
  /-- a reserved byte or field that is not zero (R95, R97) -/
  | reserved
  /-- a required FMT bit that CAPMASK clears (R98) -/
  | capability
  /-- a field outside its limits (R96) -/
  | field
  /-- an OP or TYPE that R80 would refuse on this part (R97, R98) -/
  | operation
  /-- an operand reference (R97) -/
  | reference
  /-- a stream with fewer elements than the trip count (R97) -/
  | short
  deriving DecidableEq, Repr

/-- A stream specification (R96). -/
structure XStream where
  base : Nat
  etype : Nat
  write : Bool
  /-- dimensions in use -/
  dims : Nat
  /-- the body operation whose result a write stream takes -/
  result : Nat
  extents : List Nat
  strides : List Int
  deriving DecidableEq, Repr

/-- A body operation (R96). -/
structure XOp where
  op : Nat
  cls : UnitCls
  typ : BitVec 3
  mod : BitVec 3
  a : BitVec 16
  b : BitVec 16
  t : BitVec 16
  deriving DecidableEq, Repr

/-- An operation list, with the index of the constant that gives its trip count. -/
structure XList where
  streams : List XStream
  body : List XOp
  groups : Nat
  trip : Nat
  deriving DecidableEq, Repr

/-- n bytes of a container, little-endian (R4). -/
def leAt (d : List Byte) (off n : Nat) : Nat := ((d.drop off).take n).foldr (fun b v => b.toNat + 256 * v) 0

/-- n bytes of a container as a signed number. -/
def leInt (d : List Byte) (off n : Nat) : Int := (BitVec.ofNat (8 * n) (leAt d off n)).toInt

/-- The class of a body operation. -/
def xClass (n : Nat) : UnitCls := match n with | 0 => .ia | 1 => .fv | 2 => .sf | _ => .xl

/-- The stream specification at an offset: reserved bytes and bits, limits, and the fields (R96). -/
def xStreamAt (d : List Byte) (ops off : Nat) : Except LoadRefusal XStream :=
  let f (o n : Nat) : Nat := leAt d (off + o) n
  let dims := f 3 1 % 4 + 1
  let ext := (List.range 4).map (fun k => f (8 + 4 * k) 4)
  let str := (List.range 4).map (fun k => leInt d (off + 24 + 4 * k) 4)
  let unused := (List.range 4).filter (fun k => decide (dims ≤ k))
  if 4 ≤ f 3 1 ∨ f 6 2 ≠ 0 ∨ f 40 8 ≠ 0 ∨ (f 2 1 = 0 ∧ f 4 2 ≠ 0) then .error .reserved
  else if 110 < f 0 1 ∨ 8 < f 1 1 ∨ 1 < f 2 1 ∨ (f 2 1 = 1 ∧ ops ≤ f 4 2) ∨ ext.any (fun x => x == 0 || decide (2 ^ 24 < x)) ∨
      unused.any (fun k => ext.getD k 0 != 1 || str.getD k 0 != 0) then .error .field
  else .ok { base := f 0 1, etype := f 1 1, write := f 2 1 == 1, dims := dims, result := f 4 2, extents := ext, strides := str }

/-- The body operation at an offset (R96). -/
def xOpAt (d : List Byte) (off : Nat) : Except LoadRefusal XOp :=
  let x := leAt d (off + 1) 1
  if 128 ≤ leAt d off 1 then .error .reserved
  else
    .ok { op := leAt d off 1, cls := xClass (x % 4), typ := BitVec.ofNat 3 (x / 4), mod := BitVec.ofNat 3 (x / 32)
          a := BitVec.ofNat 16 (leAt d (off + 2) 2), b := BitVec.ofNat 16 (leAt d (off + 4) 2)
          t := BitVec.ofNat 16 (leAt d (off + 6) 2) }

/-- The results of a function on a list, or the first refusal. -/
def loadAll {α β : Type} (f : α → Except LoadRefusal β) : List α → Except LoadRefusal (List β)
  | [] => .ok []
  | x :: xs =>
    match f x, loadAll f xs with
    | .ok y, .ok ys => .ok (y :: ys)
    | .error e, _ => .error e
    | _, .error e => .error e

/-- The list that a directory entry names: its offset, length and trip-count index (R95, R96). -/
def xListAt (d : List Byte) (entry : Nat) : Except LoadRefusal XList :=
  let off := leAt d entry 8
  let len := leAt d (entry + 8) 4
  let ns := leAt d off 2
  let no := leAt d (off + 2) 2
  if d.length < off + 16 ∨ d.length < off + len then .error .container
  else if leAt d (off + 6) 10 ≠ 0 then .error .reserved
  else if ns < 1 ∨ 16 < ns ∨ no < 1 ∨ 1024 < no ∨ leAt d (off + 4) 2 < 1 ∨ 16 < leAt d (off + 4) 2 ∨
      111 < leAt d (entry + 12) 4 ∨ len ≠ 16 + 48 * ns + 8 * no then .error .field
  else
    match loadAll (fun i => xStreamAt d no (off + 16 + 48 * i)) (List.range ns),
      loadAll (fun i => xOpAt d (off + 16 + 48 * ns + 8 * i)) (List.range no) with
    | .ok ss, .ok os => .ok { streams := ss, body := os, groups := leAt d (off + 4) 2, trip := leAt d (entry + 12) 4 }
    | .error e, _ => .error e
    | _, .error e => .error e

/-- The lists of a container, on a part: the container is refused as R95 and R98 say, and of its lists each one that R96 or R97
refuses, alone. DESIGN CHOICE (log 16): a wrong magic, list count, total length or directory offset refuses the whole container, as
the version and the reserved bytes do. -/
def readContainer (s : State) (d : List Byte) : Except LoadRefusal (List (Except LoadRefusal XList)) :=
  let n := leAt d 8 4
  let dir := leAt d 16 8
  if d.length < 64 ∨ leAt d 0 4 ≠ 0x4C4F4B58 ∨ leAt d 4 2 ≠ 1 ∨ n < 1 ∨ 4096 < n ∨ leAt d 12 4 ≠ d.length ∨
      d.length < dir + 16 * n then .error .container
  else if leAt d 6 2 ≠ 0 ∨ leAt d 25 7 ≠ 0 ∨ leAt d 32 32 ≠ 0 then .error .reserved
  else if (List.range 8).any (fun b => (leAt d 24 1).testBit b && !fmtBit s b) then .error .capability
  else .ok ((List.range n).map (fun i => xListAt d (dir + 16 * i)))

/-! ### The checks of the loader (R97) -/

/-- Which of a, b and T a body operation reads (R122, R142, R154, R161, R188). -/
def xReads (o : XOp) : Bool × Bool × Bool :=
  match o.cls with
  | .ia =>
    if o.op = 3 ∨ o.op = 4 ∨ o.op = 0x0E ∨ o.op = 0x14 ∨ (0x20 ≤ o.op ∧ o.op ≤ 0x23) then (false, false, true)
    else (true, o.op == 0x0B || o.op == 0x0C || o.op == 0x25 || o.op == 0x26, true)
  | .fv =>
    if 0x30 ≤ o.op then (false, o.typ == 7, true)
    else if o.op = 8 ∨ o.op = 9 ∨ o.op = 0x0B ∨ o.op = 0x1F ∨ o.op = 0x21 ∨ o.op = 0x23 then (false, false, true)
    else (true, [3, 4, 5, 0x13, 0x19, 0x1D, 0x1E, 0x22].contains o.op, true)
  | .sf => (o.op == 0x11, o.op == 0x12, true)
  | _ => (decide (o.op < 5), false, o.op != 0x0C)

/-- The trigger of a body operation. -/
def XOp.trig (o : XOp) : Trig := ⟨⟨false, 0, 0, 0, false⟩, 0, o.typ, o.mod⟩

/-- Whether the part accepts the OP and TYPE of a body operation (R80, R98). -/
def xOpOk (s : State) (o : XOp) : Bool := (opOf o.cls o.op o.trig).isSome && opOk s {} {} 0 o.cls o.op o.trig

/-- Whether a reference may stand for an operand of body operation n (R96, R97). -/
def xRefOk (l : XList) (n : Nat) (reads : Bool) (r : BitVec 16) : Bool :=
  let i := (r.extractLsb' 0 14).toNat
  if !reads then r == 0
  else
    match (r.extractLsb' 14 2).toNat with
    | 0 => false
    | 1 => (l.streams[i]?).any (fun x => !x.write)
    | 2 => decide (i < n)
    | _ => decide (i ≤ 111)

/-- The number of elements of a stream (R97, R228). -/
def XStream.count (x : XStream) : Nat := (x.extents.take x.dims).foldl (· * ·) 1

/-- The address of element j of a stream (R96, R97, R228), with the constants of a launch record. -/
def XStream.addr (x : XStream) (k : Nat → BitVec 32) (j : Nat) : Nat :=
  let base : Int := (k x.base).toNat + 2 ^ 32 * ((k (x.base + 1)).extractLsb' 0 20).toNat
  let (off, _) := (List.range x.dims).foldl
    (fun (p : Int × Nat) d =>
      let e := x.extents.getD d 1
      (p.1 + (p.2 % e : Nat) * x.strides.getD d 0, p.2 / e)) ((0 : Int), j)
  ((base + off) % 2 ^ 52).toNat

/-- The width of a stream's element in bits (R96). -/
def XStream.width (x : XStream) : Nat :=
  match x.etype with | 0 | 3 | 4 => 32 | 1 | 2 | 5 | 6 => 16 | _ => 8

/-- What the loader finds in a list, with the constants of a launch record: a refusal, or none (R97, R98). -/
def checkList (s : State) (k : Nat → BitVec 32) (l : XList) : Option LoadRefusal :=
  let refs (p : XOp × Nat) : Bool :=
    let (ra, rb, rt) := xReads p.1
    xRefOk l p.2 ra p.1.a && xRefOk l p.2 rb p.1.b && xRefOk l p.2 rt p.1.t
  if !l.body.all (xOpOk s) then some .operation
  else if !l.body.zipIdx.all refs then some .reference
  else if l.streams.any (fun x => decide (x.count < (k l.trip).toNat)) then some .short
  else none

/-! ### What a loaded list gives (R97, R98) -/

/-- A group that is about to perform one operation of a unit, with its operands. -/
def bench (u : Nat) (o : Opnd) : State :=
  let g : Group := {
    ports := [(u, { a := o.a, b := o.b, aux := o.aux })]
    bun := { now := some 0, en := [(0, o.en)], val := [(0, o.t)] } }
  { cores := [(0, { groups := [(0, g)] })], cur := some (0, 0) }

/-- One operation as its own description states it: the value of r in each lane, and the flags. -/
def performOp (o : XOp) (x : Opnd) : Row × BitVec 5 :=
  match opOf o.cls o.op o.trig with
  | none => (0, 0)
  | some i =>
    match exec i (bench o.cls.base x) with
    | .next s => ((group s 0 0).pipe.getLast?.map (fun f => (f.val, f.flags))).getD (0, 0)
    | _ => (0, 0)

/-- The value of a reference in lane L of strip m: iteration 32m + L; of an element, the bits of its width (R97). DESIGN CHOICE
(log 16): a lane at or beyond the trip count, which the rules only call disabled, holds the raw result of the operation there, or the
element at that index. -/
def operandAt (l : XList) (k : Nat → BitVec 32) (elem : Nat → Nat → Nat) (done : List (Row × BitVec 5)) (m : Nat)
    (r : BitVec 16) (L : Nat) : Slice :=
  let i := (r.extractLsb' 0 14).toNat
  match (r.extractLsb' 14 2).toNat with
  | 0 => 0
  | 1 => BitVec.ofNat 128 (elem i (32 * m + L) % 2 ^ ((l.streams[i]?).map XStream.width).getD 0)
  | 2 => lane (done.getD i (0, 0)).1 L
  | _ => lo32 (k i)

/-- The lanes of strip m that take part: iterations below the trip count (R97). -/
def stripMask (trip m : Nat) : Mask := mkMask (fun L => decide (32 * m + L < trip))

/-- The results of the body operations for strip m, in list order; elem gives element j of read stream i (R97, R98). -/
def stripResults (l : XList) (k : Nat → BitVec 32) (elem : Nat → Nat → Nat) (m : Nat) : List (Row × BitVec 5) :=
  l.body.foldl (fun done o =>
    let row (r : BitVec 16) : Row := mkRow (operandAt l k elem done m r)
    done ++ [performOp o { en := stripMask (k l.trip).toNat m, t := row o.t, a := row o.a, b := row o.b, aux := 0 }]) []

/-- What iteration j writes: for each write stream, the address, the width in bytes and the value (R97). -/
def iterationWrites (l : XList) (k : Nat → BitVec 32) (elem : Nat → Nat → Nat) (j : Nat) : List (Nat × Nat × Nat) :=
  let rs := stripResults l k elem (j / 32)
  (l.streams.filter XStream.write).map (fun x =>
    (x.addr k j, x.width / 8, (lane (rs.getD x.result (0, 0)).1 (j % 32)).toNat % 2 ^ x.width))

/-- The writes of a list, in iteration order. -/
def listWrites (l : XList) (k : Nat → BitVec 32) (elem : Nat → Nat → Nat) : List (Nat × Nat × Nat) :=
  (List.range (k l.trip).toNat).flatMap (iterationWrites l k elem)

/-- The OR of the flags over all slots (R98). -/
def listFlags (l : XList) (k : Nat → BitVec 32) (elem : Nat → Nat → Nat) : BitVec 5 :=
  (List.range (((k l.trip).toNat + 31) / 32)).foldl
    (fun fl m => (stripResults l k elem m).foldl (fun fl r => fl ||| r.2) fl) 0

/-- Element j of stream i as memory holds it: bits [w − 1:0], zero above (R97). -/
def elemIn (rd : Nat → Nat → Nat) (k : Nat → BitVec 32) (l : XList) (i j : Nat) : Nat :=
  match l.streams[i]? with
  | some x => rd (x.addr k j) (x.width / 8) % 2 ^ x.width
  | none => 0

end Sys2Proof.Machine
end

