-- ==== Sys2Proof/Tests/Slice0.lean ====
section
/-! SUPPORT. Words of the manual and what they decode to, ill-formed terms that the checks refuse, one step of some instructions,
and for every obligation a state and operands that meet its hypotheses. -/

set_option Elab.async false

namespace Sys2Proof.Tests

open Sys2Proof Sys2Proof.Machine

/-! ### Well-formedness -/

/-- An immediate source. -/
def imm : Src := ⟨false, 0, 2, 0, false⟩

/-- A trigger with an immediate source. -/
def trig : Trig := ⟨imm, 0, 0, 0⟩

theorem test_wf_port_source_bits : (Instr.move ⟨false, 0, 1, 0xA1, false⟩ .null).wf = false := by decide
theorem test_wf_no_third_ia : (Instr.iaAdd ⟨imm, 2, 0, 0⟩).wf = false := by decide
theorem test_wf_no_fourth_fv : (Instr.fvFadd ⟨imm, 3, 0, 0⟩).wf = false := by decide
theorem test_wf_no_second_sf : (Instr.sfRcp ⟨imm, 1, 0, 0⟩).wf = false := by decide
theorem test_wf_no_aux_of_ia : (Instr.portLatch imm 4 .aux).wf = false := by decide
theorem test_wf_no_b_of_br : (Instr.portLatch imm 19 .b).wf = false := by decide
theorem test_wf_no_port_of_null : (Instr.portLatch imm 31 .a).wf = false := by decide
theorem test_wf_good : (Instr.lsLd ⟨imm, 1, 6, 0⟩).wf = true := by decide

/-! ### Words that the manual prints beside the move that they stand for -/

/-- A g register as source. -/
def fromG (i : BitVec 10) : Src := ⟨false, 0, 0, i, false⟩

/-- A k register as source, under a guard. -/
def fromK (q : BitVec 4) (i : BitVec 10) : Src := ⟨false, q, 0, 0x200 + i, false⟩

/-- A v row as source, under a guard. -/
def fromV (q : BitVec 4) (i : BitVec 10) : Src := ⟨false, q, 0, 0x100 + i, false⟩

theorem test_decode_latch : decodeWord 0x0000900000 = .ok (.portLatch (fromG 1) 4 .a) := by decide
theorem test_decode_ia : decodeWord 0x0001120000 = .ok (.iaAdd ⟨fromG 2, 0, 0, 0⟩) := by decide
theorem test_decode_result : decodeWord 0x0250000600 = .ok (.move ⟨false, 0, 1, 0xA0, false⟩ (.g 3)) := by decide
theorem test_decode_lea : decodeWord 0x0002161858 = .ok (.iaLea ⟨fromG 4, 1, 1, 3⟩) := by decide
theorem test_decode_guarded : decodeWord 0x2904925B40 = .ok (.iaCmpge ⟨fromK 5 9, 0, 5, 0⟩) := by decide
theorem test_decode_cvt : decodeWord 0x00811A7400 = .ok (.fvCvtb8 ⟨fromV 0 2, 0, 0, 0⟩) := by decide
theorem test_decode_fv : decodeWord 0x0001A21410 = .ok (.fvFcmp ⟨fromG 3, 2, 0, 2⟩) := by decide
theorem test_decode_sf : decodeWord 0x2881A62000 = .ok (.sfRmax ⟨fromV 5 3, 0, 0, 0⟩) := by decide
theorem test_decode_xl : decodeWord 0x00012A2000 = .ok (.xlRmin ⟨fromG 2, 0, 0, 0⟩) := by decide
theorem test_decode_ls : decodeWord 0x00022E0000 = .ok (.lsLd ⟨fromG 4, 0, 0, 0⟩) := by decide
theorem test_decode_atomic : decodeWord 0x0001B24030 = .ok (.lsAaddAcq ⟨fromG 3, 1, 0, 6⟩) := by decide
theorem test_decode_sy : decodeWord 0x0400520C28 = .ok (.syRel ⟨imm, 0, 0, 5⟩) := by decide
theorem test_decode_ss : decodeWord 0x0002560A40 = .ok (.ssReplay ⟨fromG 4, 0, 1, 0⟩) := by decide
theorem test_decode_br : decodeWord 0x05FACE0200 = .ok (.brBra ⟨⟨false, 0, 2, 0x3F5, false⟩, 0, 0, 0⟩) := by decide
theorem test_decode_cp : decodeWord 0x0421460480 = .ok (.cpCpshape ⟨⟨false, 0, 2, 0x42, false⟩, 0, 2, 0⟩) := by decide
theorem test_decode_mx : decodeWord 0x0102CA0040 = .ok (.mxMxres ⟨fromK 0 5, 0, 1, 0⟩) := by decide
theorem test_decode_ln : decodeWord 0x0101DA0000 = .ok (.lnPush ⟨fromK 0 3, 0, 0, 0⟩) := by decide
theorem test_decode_peek : decodeWord 0x02E0000A04 = .ok (.move ⟨false, 0, 1, 0x1C0, true⟩ (.g 5)) := by decide
theorem test_decode_reserved_bits : decodeWord 0x0000900001 = .error .reservedBits := by decide
theorem test_decode_no_operation : decodeWord 0x000112FE00 = .error .noOperation := by decide

/-! ### Witnesses: states and operands that meet the hypotheses of the obligations -/

/-- Slot 0 of core 0 carries out slot 0 of a bundle of a group, in lane 0, with a value. -/
def carrying (g : Group) (v : Row := 0) (en : Mask := 1) : State :=
  { cores := [(0, { groups := [(0, { g with bun := { g.bun with now := some 0, en := [(0, en)], val := [(0, v)] } })] })]
    cur := some (0, 0), pkg := { capmask := capFull } }

/-- A core with one group in slot 0. -/
def standing (g : Group) : State := { cores := [(0, { groups := [(0, g)] })], pkg := { capmask := capFull } }

/-- The state with a core changed, and a selection. -/
def sel (s : State) (l : List Nat) : State := { s with sel := l }

theorem witness_EncodedInstructionDecodes : (Instr.iaLea ⟨fromG 4, 1, 7, 7⟩).wf = true := by decide

theorem witness_StepRunsDecodedInstruction :
    decodeWord (pickWord { agenda := [(encode .coreCycle, [0])] }).1 = .ok .coreCycle ∧
    (let s := { standing { bun := { plan := [0] } } with cur := some (0, 0) }
     s.cur = some (0, 0) ∧ (group s 0 0).bun.plan = [0]) := by decide +kernel

theorem witness_StepKeepsCanonicalMemory :
    memWf [(3, 7)] = true ∧
    (match step { mem := [(3, 7)], agenda := [(encode .yieldExpiry, [0, 0])] } with | .next _ => true | _ => false) = true := by
  decide +kernel

theorem witness_MovesWriteRegisters :
    Carried (carrying {}) 0 0 0 imm ∧ moveLanes (carrying {}) 0 0 0 ≠ 0 ∧ moveLanes (carrying {} 0 0) 0 0 0 = 0 ∧
    Carried (carrying {} 0 0) 0 0 0 imm ∧ physQ (group (carrying {}) 0 0) 0 = 0 ∧ physQ (group (carrying {}) 0 0) 15 ≠ 0 ∧
    rowLeased (carrying {}) 0 0 = false ∧
    (let s := modCore (carrying {}) 0 (fun k => { k with leases := [(5, 0)] })
     Carried s 0 0 0 imm ∧ rowLeased s 0 ((group s 0 0).vbase + 5) = true) := by decide +kernel

theorem witness_MovesWithoutEffect :
    (let s := modCore (carrying {}) 0 (fun k => { k with leases := [(5, 0)] })
     (∀ i ∈ [Instr.iaAdd ⟨fromV 0 5, 0, 0, 0⟩, .move (fromV 0 5) (.g 7), .portLatch (fromV 0 5) 4 .a], Claims.sourceOf i = some (fromV 0 5)) ∧
     s.cur = some (0, 0) ∧ (group s 0 0).bun.now = some 0 ∧ readsLeased s 0 0 0 (fromV 0 5) = true) ∧
    trigOf (.syBar trig) = some (.sy, 0, trig) ∧ Carried (carrying {} 0 0) 0 0 0 trig.src ∧
    moveLanes (carrying {} 0 0) 0 0 0 = 0 := by decide +kernel

theorem witness_FixedLatencyOperationStarts :
    trigOf (.iaMul trig) = some (.ia, 9, trig) ∧ Claims.latency .ia 9 = some 3 ∧ Carried (carrying {}) 0 0 0 trig.src ∧
    moveLanes (carrying {}) 0 0 0 ≠ 0 := by decide +kernel

theorem witness_IntegerWordValues :
    trigOf (.iaAdd trig) = some (.ia, 0, trig) ∧ trig.typ.toNat < 2 ∧ trig.mod = 0 ∧ trig.inst = 0 ∧
    (∀ a b z, Claims.iaWord 0 (trig.typ = 0) a b z = some (a + z)) ∧ Carried (carrying {}) 0 0 0 trig.src ∧
    moveLanes (carrying {}) 0 0 0 ≠ 0 ∧ trigOf (.iaAddsat ⟨imm, 0, 4, 0⟩) = some (.ia, 7, ⟨imm, 0, 4, 0⟩) ∧
    (∀ x y z : BitVec 8, (Claims.iaExact 7 8 true x y z).isSome = true) ∧
    (trigOf (.iaLea ⟨imm, 1, 1, 3⟩)).map (fun x => (x.1, x.2.2)) = some (.ia, ⟨imm, 1, 1, 3⟩) ∧ (1 : BitVec 3).toNat < 2 :=
  ⟨by decide, by decide, by decide, by decide, fun _ _ _ => rfl, by decide +kernel, by decide +kernel, by decide, fun _ _ _ => rfl,
    by decide, by decide⟩

theorem witness_CrossLaneValues :
    Carried (carrying {}) 0 0 0 trig.src ∧ moveLanes (carrying {}) 0 0 0 ≠ 0 ∧ trig.inst = 0 ∧ trig.typ.toNat < 3 ∧
    (moveLanes (carrying {}) 0 0 0).getLsbD 0 = true ∧ (decodeF f32 f32.qnan).isNan = true := by decide +kernel

/-- A cvt whose source format is given by the type, or by b under ext. -/
def cvtKinds (op typ b : Nat) : Option (FmtKind × FmtKind × Bool) :=
  (cvtSource typ b).map (fun f => (f.kind, (cvtDest op).kind, cvtPair f (cvtDest op)))

theorem witness_VectorValues :
    (let t : Trig := ⟨imm, 0, 3, 0⟩
     Carried (carrying {}) 0 0 0 trig.src ∧ moveLanes (carrying {}) 0 0 0 ≠ 0 ∧ trigOf (.fvFadd trig) = some (.fv, 0, trig) ∧
     trigOf (.fvVadd t) = some (.fv, 0x10, t) ∧ trigOf (.fvCvtbf16 trig) = some (.fv, 0x31, trig)) ∧
    (decodeF f32 0x3F800000 = .fin false (2 ^ 23) (-23) ∧ decodeF f32 f32.qnan = .nan false) ∧
    (∀ f ∈ [f32, f16, bf16], (decodeF f f.qnan).isNan = true ∧ (decodeF f 0).isNan = false ∧ f.qnan < 2 ^ f.width) ∧
    (∀ x ∈ [(false, 1, (0 : Int))], (0 : Int) ≤ x.2.2) ∧
    cvtKinds 0x31 0 0 = some (.real, .real, true) ∧ cvtKinds 0x3C 0 0 = some (.real, .complex, true) ∧
    cvtKinds 0x39 0 0 = some (.real, .block, true) ∧
    ((List.range 16).find? (fun b => cvtKinds 0x30 7 b == some (.block, .real, true))).isSome = true := by decide +kernel

theorem witness_VectorValues_floats :
    (decodeF f32 0x7F800000 = .inf false ∧ decodeF f32 0x7F800001 = .nan true ∧ f32 ∈ [f32, f16, bf16] ∧ 0x7F800001 < 2 ^ f32.width) ∧
    ((1 : ℝ) * 1 * 2 ^ (0 : Int) + 1 * 1 * 2 ^ (0 : Int) ≠ 0 ∧ ¬(1 : ℝ) * 1 * 2 ^ (0 : Int) + 1 * 1 * 2 ^ (0 : Int) < 0) ∧
    ((1 : ℝ) * 1 * 2 ^ (0 : Int) + -1 * 1 * 2 ^ (0 : Int) = 0 ∧ (1 : ℝ) * 1 + 1 ≠ 0 ∧ (1 : ℝ) * 1 + -1 = 0) ∧
    (Claims.unbounded f32 (2 ^ (128 : Int)) ∧ (2 : ℝ) ^ (f32.bias + 1) ≤ 2 ^ (128 : Int)) ∧
    (Claims.unbounded f32 0 ∧ (0 : ℝ) < 2 ^ (f32.bias + 1)) := by
  refine ⟨by decide +kernel, by norm_num, by norm_num, ⟨⟨1, 128, by decide, by decide, by norm_num⟩, le_of_eq ?_⟩,
    ⟨⟨0, 0, by decide, by decide, by norm_num⟩, zpow_pos (by norm_num) _⟩⟩
  norm_num [show f32.bias + 1 = 128 from rfl]

theorem witness_SpecialFunctionValues :
    (let t : Trig := ⟨imm, 0, 0, 0⟩
     trigOf (.sfRcp t) = some (.sf, 4, t) ∧ t.typ.toNat < 3 ∧ Carried (carrying {}) 0 0 0 t.src ∧ moveLanes (carrying {}) 0 0 0 ≠ 0) ∧
    Claims.listed 4 (decodeF f32 0) = some (0x7F800000, 2) ∧ Claims.listed 4 (decodeF f32 0x40000000) = none ∧
    decodeF f32 0x40000000 = .fin false (1 * 2 ^ 23) (1 - 23) ∧ Claims.exactAt 4 (.fin false 1 1) (false, 1, -1) :=
  ⟨by decide +kernel, by decide +kernel, by decide +kernel, by decide +kernel,
    .inr (.inr (.inr (.inl ⟨false, -1, rfl, by decide, by decide, rfl, rfl⟩)))⟩

theorem witness_SpecialFunctionLimits :
    (let t : Trig := ⟨imm, 0, 0, 0⟩
     trigOf (.sfExp2 t) = some (.sf, 0, t) ∧ t.typ.toNat < 3 ∧ Carried (carrying {}) 0 0 0 t.src ∧ moveLanes (carrying {}) 0 0 0 ≠ 0) ∧
    decodeF f32 0x3F800000 = .fin false (2 ^ 23) (-23) ∧
    (∀ ulp : ℝ → ℝ, Claims.exactValue 0 1 2 ∧ Claims.bound 0 1 2 ulp (ulp 2) ∧ Claims.bound 0 (-126) 2 ulp (ulp 2) ∧
      Claims.bound 0 (-150) 2 ulp (2 ^ (-149 : Int))) ∧
    (∀ ulp : ℝ → ℝ, ∀ op ∈ [1, 2, 3, 4, 5, 7, 8, 9, 10, 11], ∃ y b, Claims.exactValue op 1 y ∧ Claims.bound op 1 y ulp b) ∧
    (∀ ulp : ℝ → ℝ, ∃ y b, Claims.exactValue 2 2 y ∧ Claims.bound 2 2 y ulp b) := by
  refine ⟨by decide +kernel, by decide +kernel, fun ulp => ⟨by norm_num [Claims.exactValue], ?_, ?_, ?_⟩, fun ulp op h => ?_,
    fun ulp => ⟨_, _, rfl, by norm_num, .inr ⟨by norm_num, rfl⟩⟩⟩
  · exact .inl ⟨by norm_num, by norm_num, rfl⟩
  · exact .inl ⟨by norm_num, by norm_num, rfl⟩
  · exact .inr ⟨by norm_num, by norm_num, rfl⟩
  have large (m y : ℝ) (e : Int) : ∃ b, (2 ^ e ≤ |y| ∧ b = 2 * ulp y) ∨ (|y| < 2 ^ e ∧ b = m) :=
    (le_or_gt (2 ^ e) |y|).elim (fun h => ⟨_, .inl ⟨h, rfl⟩⟩) (fun h => ⟨_, .inr ⟨h, rfl⟩⟩)
  simp only [List.mem_cons, List.not_mem_nil, or_false] at h
  obtain rfl | rfl | rfl | rfl | rfl | rfl | rfl | rfl | rfl | rfl := h
  · exact ⟨_, _, rfl, .inl ⟨by norm_num, by norm_num, rfl⟩⟩
  · exact ⟨_, _, rfl, by norm_num, .inl ⟨by norm_num, rfl⟩⟩
  · exact ⟨_, _, rfl, by norm_num, .inl ⟨by norm_num, rfl⟩⟩
  · exact ⟨_, _, rfl, by norm_num, rfl⟩
  · exact ⟨_, _, rfl, by norm_num, rfl⟩
  all_goals exact ⟨_, _, rfl, (large _ _ _).choose_spec⟩

/-- A group with one operation in flight that is due. -/
def flying : State :=
  sel (standing { ended := true, pipe := [{ unit := 4, hand := false, due := 0, lanes := 1, val := 7 }] }) [0, 0]

theorem witness_FixedLatencyResultIsWritten :
    (nextResult (group flying 0 0)).isSome = true ∧ (nextResult (group flying 0 0)).map (·.flags) = some 0 ∧
    (nextResult (group flying 0 0)).map (·.bval) = some none ∧ (nextResult (group flying 0 0)).map (·.due) = some 0 ∧
    (nextResult (group flying 0 0)).map (outwritten (group flying 0 0)) = some false ∧
    issueOver flying 0 = true ∧ wrsysDue (group flying 0 0) 0 = false ∧
    (let s := modGroup flying 0 0 (fun g => { g with pipe := g.pipe.map (fun x => { x with flags := 0x12, bval := some 1 }) })
     (nextResult (group s 0 0)).map (fun x => (x.flags, x.bval, x.due)) = some (0x12, some 1, 0) ∧
     (0x12 : BitVec 5).getLsbD 1 = true ∧ (group s 0 0).ferec.getLsbD 63 = false ∧ issueOver s 0 = true ∧
     wrsysDue (group s 0 0) 0 = false) := by decide +kernel

theorem witness_BranchActions :
    (let s := carrying { ports := [(19, { a := splat 1 })] }
     Carried s 0 0 0 trig.src ∧ moveLanes s 0 0 0 ≠ 0 ∧
      (lane (port (group s 0 0) 19).a 0).setWidth 32 ≠ (0 : BitVec 32)) ∧
    (lane (port (group (carrying {}) 0 0) 19).a 0).setWidth 32 = (0 : BitVec 32) := by decide +kernel

/-! #### Memory -/

/-- Whether an access is ready. -/
def isReady : Decision → Bool | .ready _ => true | _ => false

/-- Whether an access parks. -/
def isPark : Decision → Bool | .park _ _ => true | _ => false

/-- Whether an access faults. -/
def isFault : Decision → Bool | .fault _ _ _ => true | _ => false

/-- An address in a team's own scratchpad: place 15 of the aperture. -/
def own (n : Nat) : Nat := apertureBase + 15 * 2 ^ 20 + n

/-- A move in lane 0 whose team has a scratchpad, with an address as its value. -/
def reaching (va : Nat) (g : Group := {}) : State :=
  { carrying g (splat (BitVec.ofNat 128 va)) with teams := [(0, { spad := (0, 4) })] }

theorem witness_MemoryOperationIssues :
    trigOf (.lsLd trig) = some (.ls, 0, trig) ∧
    (Claims.memAccess 0 trig (operands (reaching (own 4)) 0 0 0 11)).isSome = true ∧
    Carried (reaching (own 4)) 0 0 0 trig.src ∧
    (let d (va : Nat) : Decision := decideAccess (reaching va) 0 0
      { loadOf trig false false (operands (reaching va) 0 0 0 11) with lanes := 1 } false
     isReady (d (own 4)) = true ∧ isFault (d 1) = true ∧ d 4 = .walks) ∧
    (match exec (.lsLd trig) (reaching (own 4)) with | .next _ => true | _ => false) = true := by decide +kernel

/-- A move of a value to sp0.a, whose active stream writes one byte a lane from an address on. -/
def streaming (va : Nat) : State :=
  { carrying { streams := [(13, { active := true, words := [(0, BitVec.ofNat 32 va), (1, 0x00800000 + BitVec.ofNat 32 (va / 2 ^ 32))], lanes := 1 })] } with
    teams := [(0, { spad := (0, 4) })] }

theorem witness_PortLatchesEnabledLanes :
    Carried (carrying {}) 0 0 0 imm ∧ ¬(PortName.b = .a ∧ 13 ≤ (14 : BitVec 5).toNat) ∧
    (let st (va : Nat) : Stream := tget {} (group (streaming va) 0 0).streams 13
     let d (va : Nat) : Decision := decideAccess (streaming va) 0 0
       { kind := .streamWrite, lanes := 1, elems := streamElems (st va) 0 1 } false
     Carried (streaming 64) 0 0 0 imm ∧ (st 64).active = true ∧ streamDir (st 64) = true ∧ moveLanes (streaming 64) 0 0 0 ≠ 0 ∧
     d 64 = .walks ∧ isReady (d (own 0)) = true ∧ isFault (d (own 1024)) = true) := by decide +kernel


/-- A load or a store of the 4 bytes at an address in each of n lanes, ready in the ls0 queue of a group; a step that performs it leaves
some of its parts for later. -/
def waiting (k : AccKind) (pa : Nat) (later : List Nat := []) (n : Nat := 1) : State :=
  sel (standing { ports := [(11, { q := [{ pend := .mem { kind := k, lanes := 1, stat := .ready, data := splat 5
                                                          elems := (List.range n).map (fun i => { lane := i, off := 0, len := 4, va := pa, pa := pa }) } }] })] })
    ([0, 0, 11, 0, 0] ++ later)

theorem witness_AccessesArePerformed :
    (∀ k ∈ [AccKind.store, .load, .atomic], ∀ later ∈ [[], [0], [1]], let s := waiting k 64 later
      memWf s.mem = true ∧ (Machine.core s 0).landed = false ∧
      (match entryAt (group s 0 0) false 11 0 with
        | some { pend := .mem a, .. } => a.kind == k && !a.acq && a.stat == .ready && !a.held && !a.mc && orderOk s 0 0 a &&
            !unanswered s 0 a.sent (a.elems.map (·.pa)) && a.op == 0 &&
            decide (((storeParts s a).filter (leftLater (storeParts s a) (later.headD 0))).length = later.headD 0) &&
            compareAccess s 0 a.part a.elems == .pass && (badElem s 0 a).isNone &&
            a.elems.all (fun x => x.off == 0 && x.lane == 0 && x.len == 4 && (List.range 4).all (fun j => regionOf (x.pa + j) == 0) &&
              x.pa % 64 + x.len ≤ 64 && x.pa / 64 == 1 && (fabricLocal s x.pa).isNone)
        | _ => false) = true) ∧
    (let s := { waiting .atomic (windowBase 0) [] 2 with teams := [(0, { spad := (0, 4) })] }
     ∃ e a, entryAt (group s 0 0) false 11 0 = some e ∧ e.pend = .mem a ∧ e.val = 0 ∧ (a.elems.map (·.lane)).Nodup ∧ a.elems.length = 2 ∧
       compareAccess s 0 a.part a.elems = .pass ∧ orderOk s 0 0 a = true ∧ badElem s 0 a = none ∧
       unanswered s 0 a.sent (a.elems.map (·.pa)) = false ∧
       (∀ x ∈ a.elems, x.lane < 32 ∧ x.len = 4 ∧ x.pa % 4 = 0 ∧ regionOf x.pa ≠ 0 ∧ (windowOf x.pa).isSome = true ∧
         x.pa % 2 ^ 22 < 0x80000 ∧ ∀ j < 4, heldByTeam s (x.pa + j) = true)) := by
  refine ⟨by decide +kernel, _, _, rfl, rfl, ?_⟩
  decide +kernel

theorem witness_StreamOperations :
    (let s := carrying { streams := [(13, { active := true }), (14, { active := true, words := [(1, 0x00800000)] })] }
     Carried s 0 0 0 trig.src ∧ (tget {} (group s 0 0).streams 15).active = false ∧
     streamDir (tget {} (group s 0 0).streams 13) = false ∧ streamDir (tget {} (group s 0 0).streams 14) = true) ∧
    (let st : Stream := { active := true, words := copySet (stopStream (group (carrying {}) 0 0) 13) 13 0 }
     (tget 0 st.words 1).extractLsb' 27 5 = 0 ∧ ((tget 0 st.words 1).extractLsb' 20 3).toNat < 5 ∧ streamAligned st = true) := by
  decide +kernel

/-! #### Synchronisation, system and launch operations -/

theorem witness_SynchronisationOperationsStart :
    (let s := carrying {}
     Carried s 0 0 0 trig.src ∧ moveLanes s 0 0 0 ≠ 0 ∧ holdDone s 0 0 (placeOf s 0 0, false, 0) = true ∧
      holdDone s 0 0 (placeOf s 0 0, true, 0) = true ∧
      treadFault s 0 (group s 0 0) (ctrOf 0) = none ∧ twaitOk s 0 (group s 0 0) (ctrOf 0x20) = true) ∧
    holdDone (carrying {}) 0 0 (0, false, 5) = false ∧ holdDone (carrying {}) 0 0 (0, true, 5) = false ∧
    (chanOf (carrying {}) 0 0).own = none ∧
    (let s : State := { (carrying {} (splat 0x1000)) with
       pkg := { capmask := capFull }
       cores := [(0, { groups := [(0, { bun := { now := some 0, en := [(0, 1)], val := [(0, splat 0x1000)] } })]
                       tlb := [{ part := 0, vpage := 1, size := 12, ppage := 1, attr := {} }] })] }
     isReady (decideAccess s 0 0 { kind := .mwait, lanes := 1, elems := [{ lane := 0, off := 0, len := 8, va := 0x1000 }] } false) = true ∧
     isReady (decideAccess s 0 0 { kind := .wmwait, lanes := 1, elems := [{ lane := 0, off := 0, len := 1, va := 0x1000 }] } false) = true) := by
  decide +kernel

/-- A move whose ports of ss hold a value in a. -/
def system (a : Slice) (v : Slice) (w : Nat := 1) : State :=
  { carrying { ports := [(21, { a := splat a })] } (splat v) with
    grids := [(0, { lr := { w := w }, src := { rcd := 0, part := 0 } })] }

theorem witness_SystemOperationsStart :
    Carried (system 8 0) 0 0 0 trig.src ∧ perLaneReg 0 = false ∧ (0 : Slice) &&& sysReserved 0 = 0 ∧
    (uniform (operands (system 8 0) 0 0 0 21).en (operands (system 8 0) 0 0 0 21).a).toNat % 2 ^ 32 ≠ 0 ∧
    (uniform (operands (system 0 0) 0 0 0 21).en (operands (system 0 0) 0 0 0 21).a).toNat % 2 ^ 32 = 0 ∧
    (∃ reg < 256, perLaneReg reg = true) ∧
    (let r (s : State) := (grid s (team s (group s 0 0).team).grid).lr
     (r (system 0 0)).w * (r (system 0 0)).h = 1 ∧ (r (system 0 0 2)).w * (r (system 0 0 2)).h ≠ 1) ∧
    (match imagePlace (reaching (own 0)) 0 0 (own 0) with
      | .ok pa => headerBad (reaching (own 0)) 0 pa && !readFails (reaching (own 0)) pa Image.groupsAt
      | .error _ => false) = true := by
  decide +kernel

theorem witness_LaunchOperations :
    Carried (carrying {} (splat 0x100)) 0 0 0 trig.src ∧ lnTarget 0 (operands (carrying {}) 0 0 0 22) = some 0 ∧
    (moveValue (carrying {} (splat 0x100)) 0 0 0) = splat 0x100 ∧ 0x100 % 256 = 0 ∧ 0x101 % 256 ≠ 0 := by decide +kernel

/-! #### Copies and the matrix engine -/

/-- A cp move of team 0 on core 0; team 1 of its cluster stands beside it. -/
def copying (q : Chan) : State :=
  { carrying { team := 0 } with
    cores := [(0, { groups := [(0, { bun := { now := some 0, en := [(0, 1)] } })], chans := [(0, q)] })]
    teams := [(0, { core := 0, spad := (0, 16) }), (1, { core := 1, cx := 1, spad := (0, 16) })]
    grids := [(0, { lr := { w := 2 }, src := { rcd := 0, part := 0 } })]
    ingest := [(0, { enabled := true })] }

/-- A copy of one element from the scratchpad of team 1 to the own one. -/
def halo : Chan :=
  { own := some 0, csrc := BitVec.ofNat 52 (apertureBase + 2 ^ 20), cdst := BitVec.ofNat 52 (own 0), shape := [(1, 0)] }

theorem witness_CopyOperationsStart :
    Carried (copying halo) 0 0 0 trig.src ∧ (chanOf (copying {}) 0 0).own = none ∧
    ringBound halo = false ∧ copyFault halo.shape halo.csrc.toNat halo.cdst.toNat = none ∧
    (match guardKey (copying halo) 0 0 0 halo.cdst.toNat ((shapeSpan halo.shape).getD 0) with
      | .ok key => haloOk (copying halo) 0 halo.shape halo.csrc.toNat key
      | .error _ => false) = true ∧
    (tget {} (copying halo).ingest 0).enabled = true ∧ (chanOf (copying { own := some 1 }) 0 0).own = some 1 := by decide +kernel

theorem witness_CopyStatusOperations :
    (∀ st ∈ [ChState.idle, .landing, .armed], ∃ q : Chan, q.st = st ∧ (chanOf (copying q) 0 0).st = st) ∧
    (team (copying {}) 1).part = (group (copying {}) 0 0).part ∧
    (team (modTeam (copying {}) 1 (fun t => { t with part := 3 })) 1).part ≠ (group (copying {}) 0 0).part ∧
    (let q : Chan := { own := some 0, st := .landing, elemW := some 4 }
     (chanOf (copying q) 0 0).own = some 0 ∧ ringBound q = false ∧ stopped (copying q) 0 q = false ∧
     stopped (copying q) 0 { q with elemW := none } = true) :=
  ⟨by intro st _; exact ⟨{ st := st }, rfl, rfl⟩, by decide +kernel, by decide +kernel, by decide +kernel⟩

theorem witness_AcceptedCopyAnswersItsNumber :
    (∀ q : Chan, ({ q with st := .landing } : Chan).n = q.n) ∧ (∀ q : Chan, ({ q with st := .landing } : Chan).wait = q.wait) ∧
    (chanOf (copying {}) 0 0).owed = [] := ⟨fun _ => rfl, fun _ => rfl, by decide +kernel⟩

theorem witness_MatrixRegisterOperations :
    (let s : State := { carrying {} with teams := [(0, { oba := (0, 16) })] }
     Carried s 0 0 0 trig.src ∧ (15 * 2 ^ 20 + 0x80000 < 2 ^ 24) ∧ (aperture s 0 (apertureBase + (15 * 2 ^ 20 + 0x80000)) 16).isSome = true) := by
  decide +kernel

/-- An mx move of a team whose two records hold data and scales for a pass of depth 1. -/
def multiplying : State :=
  { carrying { vrows := 64, ports := [(18, { aux := 0 })] } (splat 0) with
    cores := [(0, { groups := [(0, { vrows := 64, bun := { now := some 0, en := [(0, 1)] } })], banks := [(0, { full := true, fmt := 0 })]
                    tlb := [{ part := 0, vpage := 0, size := 21, ppage := 0, attr := {} }] })]
    teams := [(0, { ob := [(0, newRecord 0 0 0x80000 0x40000 0)] })] }

theorem witness_MatrixOperationsIssue :
    (let r : BitVec 128 := newRecord 0 0 0x80000 0x40000 0
     Carried multiplying 0 0 0 trig.src ∧ leaderOf 0 = 0 ∧ tget 0 (team multiplying 0).ob 0 = r ∧ r.getLsbD 63 = true ∧
     1 ≤ (spanOf (nativeOf (recFmt r))).2 ∧ shortData r 128 1 = false ∧ shortData r 256 1 = false ∧
     shortScales r 128 1 = false ∧ shortScales r 256 1 = false ∧ othersBank multiplying 0 0 0 = false) ∧
    lastFmt multiplying 0 0 = some 0 ∧ cplxFmt 0 = false ∧ 0 + 1 * drainRpt 0 false ≤ (group multiplying 0 0).vrows ∧
    cplxFmt 4 = true ∧
    isReady (decideAccess multiplying 0 0 { kind := .mxload, elems := lineElems 0 (imageBytes false) } true) = true ∧
    isReady (decideAccess multiplying 0 0 { kind := .mxsave, elems := lineElems 0 (imageBytes false) } true) = true ∧
    leaderOf 1 ≠ 1 := by
  decide +kernel

/-- The same move behind an mxload of its bank that waits for its page: no page is mapped. -/
def loading : State :=
  modCore multiplying 0 (fun x => { x with
    tlb := [], mxops := [{ id := 0, kind := .load, slot := 0, team := 0, bank := 0, fmt := unknownFmt }] })

theorem witness_MatrixOperationsBehindALoad :
    Carried loading 0 0 0 trig.src ∧ lastFmt loading 0 0 = some unknownFmt ∧ othersBank loading 0 0 0 = false ∧
    (∀ k ∈ [AccKind.mxload, .mxsave],
      isPark (decideAccess loading 0 0 { kind := k, elems := lineElems 0 (imageBytes false) } true) = true) := by
  decide +kernel

/-! #### Issue, cycles, waits and faults -/

/-- A group at a bundle of no slot, or of a given word, in its fetch buffer, which the cycle's start found eligible. -/
def ready (w : BitVec 256 := 0) : State :=
  sel (modCore (standing { fetch := [(0, w.setWidth 512)] }) 0 (fun k => { k with ready := [0] })) [0, 0, 0]

theorem witness_BundleIssue :
    (mayIssue (ready) 0 = true ∧ chosen (ready) 0 = some 0 ∧ (nextBundle (group (ready) 0 0)).isSome = true ∧
      (nextBundle (group (ready) 0 0)).map (issueFault (ready) 0 0 (group (ready) 0 0)) = some none) ∧
    (let s : State := { ready (7 * 2 ^ 253) with parts := [(0, { tvec := 32 })] }
     chosen s 0 = some 0 ∧ (nextBundle (group s 0 0)).map (fun b => (issueFault s 0 0 (group s 0 0) b).isSome) = some true ∧
     (part s (group s 0 0).part).tvec ≠ 0) := by decide +kernel

theorem witness_CoreCycleAndEvents :
    coreRuns (standing {}) 0 = true ∧ issueOver (standing {}) 0 = true ∧ releaseDue (standing {}) 0 = false ∧
    dueNow (group (standing {}) 0 0) 0 = false ∧ fallsNow (standing {}) 0 0 = false ∧
    (let s := standing { ports := [(20, { q := [{ pend := .twait 0x20 0 }] })] }
     fallsNow s 0 0 = false ∧ (entryAt (group s 0 0) false 20 0).map (fun e => (e.pend, e.met)) = some (.twait 0x20 0, none) ∧
     (0 : BitVec 64).toNat ≤ (ctrValue s 0 (ctrOf 0x20)).toNat) ∧
    (let g := group (standing { yielding := true }) 0 0; g.yielding = true ∧ g.yieldLeft = 0) ∧
    (let h : Hidden := { die := 0, core := none, via := none, w := 0, cap := 0, cells := [(8, 1)] }
     (servedNow { hidden := [h] } none).find? (fun h => h.1.die == 0 && h.2) = some (h, true)) ∧
    regionOf 8 = 0 ∧ dramOk {} 8 = true ∧ failingAt { failing := [8] } 8 1 = true := by decide +kernel

theorem witness_InstructionFetch :
    (let s := modCore (ready) 0 (fun k => { k with tlb := [{ part := 0, vpage := 0, size := 12, ppage := 0, attr := { x := true } }] })
     (group? s 0 0).isSome = true ∧ (match fetchTranslate s 0 0 false 0 with | .ok pa _ => pa == 0 | .fault _ => false) = true ∧
     tfind (Machine.core s 0).icache 0 = none ∧ failingAt s 0 64 = false ∧ (group s 0 0).ended = false ∧
     furthest s 0 (group s 0 0) = true) ∧
    (let s : State := { standing {} with parts := [(0, { tvec := 32 })] }
     (match fetchTranslate s 0 0 false 0 with | .ok _ _ => false | .fault _ => true) = true ∧ atBoundary (group s 0 0) = true ∧
     tfind (group s 0 0).fetch 0 = none ∧ (part s 0).tvec ≠ 0) := by decide +kernel

/-- A group whose entry 0 of unit u's queue, in a bank, waits for something. -/
def pending (u : Nat) (h : Bool) (p : Pend) : State :=
  let q : Port := { q := [{ pend := p }] }
  sel (standing (if h then { hports := [(u, q)] } else { ports := [(u, q)] })) [0, 0, u, h.toNat, 0]

theorem witness_EntriesFill :
    (entryAt (group (pending 20 false (.timed 0)) 0 0) false 20 0).map (·.pend) = some (.timed 0) ∧
    rdsysReady (group (pending 21 false (.rdsys 0 1)) 0 0) 0 1 = true ∧
    (entryAt (group (pending 21 false (.wrsys 0 1 0)) 0 0) false 21 0).map (·.pend) = some (.wrsys 0 1 0) ∧
    staysArmed (group (pending 20 false (.barw 0 0xFFFFFFFF)) 0 0) 0 { pend := .barw 0 0xFFFFFFFF } = false ∧
    ((tget {} (team (pending 20 false (.barw 0 0xFFFFFFFF)) 0).nb 0).gen - 0xFFFFFFFF - 1).toNat < 2 ^ 31 ∧
    released (modGroup (pending 21 true (.iclock 0 true 0 64)) 0 0 (fun g => { g with pwt := 0 })) 0 0 0 true = false ∧
    released { pending 21 true (.iclock 0 true 0 64) with pkg := { gtime := [(0, 2)] } } 0 0 0 true = true ∧
    (entryAt (group (pending 21 true (.ctxload 0 0)) 0 0) true 21 0).map (·.pend) = some (.ctxload 0 0) := by decide +kernel

/-- An mwait, or a wmwait, of a ready word. -/
def wordAt (k : AccKind) (pa : Nat) : Access := { kind := k, lanes := 1, stat := .ready, elems := [{ lane := 0, off := 0, len := 8, va := pa, pa := pa }] }

theorem witness_WaitsAndArrivalsComplete :
    (let s := sel (pending 20 false (.twait 0x20 0)) [0, 0, 0]
     (entryAt (group s 0 0) false 20 0).map (·.pend) = some (.twait 0x20 0) ∧ (0 : BitVec 64).toNat ≤ (ctrValue s 0 (ctrOf 0x20)).toNat ∧
     (ctrOf 0x20).acquires = false ∧ (ctrOf 0x10).acquires = true ∧
     ∃ x : QEntry, x.pend = .twait 0x20 0 ∧ x.met = some (0, false) ∧ 0 ≤ cycleOf s 0) ∧
    (let s := sel (pending 20 false (.mwait (wordAt .mwait 64) 0 0)) [0, 0, 0]
     (entryAt (group s 0 0) false 20 0).map (·.pend) = some (.mwait (wordAt .mwait 64) 0 0) ∧ (wordAt .mwait 64).stat = .ready ∧
     regionOf 64 = 0 ∧ failingAt s 64 8 = false ∧ (0 : BitVec 64).toNat ≤ physRead s (some 0) 64 8) ∧
    (let s := sel (pending 20 false (.mwait (wordAt .mwait (2 ^ 48)) 1 0)) [0, 0, 0, 2 ^ 48, 1]
     (entryAt (group s 0 0) false 20 0).map (·.pend) = some (.mwait (wordAt .mwait (2 ^ 48)) 1 0) ∧
     (wordAt .mwait (2 ^ 48)).stat = .ready ∧ regionOf (2 ^ 48) = 1 ∧ (0 : BitVec 64).toNat ≤ (coreTime s 0).toNat ∧
     failingAt s (2 ^ 48) 8 = false ∧ physRead s (some 0) (2 ^ 48) 8 < (1 : BitVec 64).toNat ∧
     (1 : BitVec 64).toNat ≤ physRead (hostBytes s 3) (some 0) (2 ^ 48) 8) ∧
    (let s := sel (pending 20 false (.wmwait 0 (wordAt .wmwait 64))) [0, 0, 0]
     compare1 0 (chanOf s 0 0) { lane := 0, off := 0, len := 8, va := 64, pa := 64 } = .pass ∧
     (let r (q : Chan) : State := modCore s 0 (fun k => { k with chans := [(0, q)] })
      outsideRing (r { st := .landing, ring := some 0, rdst := 4096, gend := 8192 }) 0 0 (wordAt .wmwait 64) = true)) ∧
    (∀ gone : Bool, ∃ x : QEntry, x.met = some (0, gone) ∧ x.pend = .wmwait 0 (wordAt .wmwait 64)) ∧
    (0 : BitVec 64).toNat ≤ (coreTime (standing {}) 0).toNat ∧
    (let s := sel (standing { hold := some (0, true, 0), hhold := some (0, false, 0) }) [0, 0]
     (group s 0 0).hold = some (0, true, 0) ∧ holdDone s 0 0 (0, true, 0) = true ∧
     (group s 0 0).hhold = some (0, false, 0) ∧ holdDone s 0 0 (0, false, 0) = true) ∧
    (let s : State := { sel (standing { arrive := [(3, 0)] }) [0, 0] with teams := [(0, { groups := 2 })] }
     releaseDone s 0 0 0 false = true ∧ (liveGids (team s 0)).all (fun i => (1#16).getLsbD i) = false ∧
     (liveGids (modTeam s 0 (fun t => { t with groups := 1 }) |> (team · 0))).all (fun i => (1#16).getLsbD i) = true) ∧
    (let s : State := { sel (standing { arrive := [(16, 0)] }) [0, 0] with pkg := { gtime := [(0, 2)] } }
     (group s 0 0).cbarIn = false ∧ releaseDone s 0 0 0 true = true) := by
  refine ⟨⟨by decide +kernel, by decide +kernel, by decide +kernel, by decide +kernel, { pend := .twait 0x20 0, met := some (0, false) },
    rfl, rfl, by decide⟩, by decide +kernel, by decide +kernel, by decide +kernel, fun g => ⟨{ pend := .wmwait 0 (wordAt .wmwait 64), met := some (0, g) }, rfl, rfl⟩,
    by decide +kernel, by decide +kernel, by decide +kernel, by decide +kernel⟩

/-- A walk for the load that waits in ls0 of a group. -/
def walking (pa : Nat) (len : Nat) (held : Bool := false) (ch : Tbl Chan := []) : State :=
  let a : Access := { kind := .load, lanes := 1, stat := if held then .ready else .walking, held := held
                      elems := [{ lane := 0, off := 0, len := len, va := pa, pa := pa }] }
  { sel (standing { ports := [(11, { q := [{ pend := .mem a }] })] }) [0, 0] with
    cores := [(0, { groups := [(0, { ports := [(11, { q := [{ pend := .mem a }] })] })], chans := ch })]
    teams := [(0, { spad := (0, 4) })]
    dies := [(0, { walks := [{ id := 0, part := 0, core := 0, slot := 0, unit := 11, hand := false, seq := 0, bslot := 0 }] })] }

theorem witness_AccessesAreDecided :
    (let d (s : State) : Option Decision := (findAccess s 0 0 11 false 0).map (fun a => decideAccess s 0 0 a true)
     (d (walking (own 0) 4)).map isReady = some true ∧ (d (walking (own 1) 4)).map isFault = some true ∧
     (d (walking 4 4)).map (fun x => match x with | .park _ _ => true | _ => false) = some true) ∧
    (die (walking 4 4) 0).walks.map (·.id) = [0] ∧
    (Machine.core (walking 4 4 true) 0).landed = false ∧
    (findAccess (walking 4 4 true) 0 0 11 false 0).map (fun a => compareAccess (walking 4 4 true) 0 0 a.elems) = some .pass ∧
    (let s := walking 4 4 true [(0, { st := .abandoned, rdst := 0, gend := 64 })]
     (findAccess s 0 0 11 false 0).map (fun a => compareAccess s 0 0 a.elems) = some .abandoned) := by decide +kernel

theorem witness_DeferredFaultsTrap :
    (let e : FbEntry := { cause := 1, kind := 0, key := ⟨0, 0, 12⟩, part := 0, chan := 0, origin := 0, team := 0, gid := 0, count := 1, va := 0, gtime := 0 }
     let s : State := { standing {} with teams := [(0, { slots := [(0, 0)], groups := 1 })], dies := [(0, { fb := [e] })] }
     (die s 0).fb = [e] ∧ (die s 0).joined = [] ∧ modeOf s .fault 0 = 0 ∧ deliveryOf s e = .to 0 0) ∧
    (let f : LateFault := { bKind := true, cause := 0x11, fva := 0, stage := 0 }
     let s : State := { standing { late := [f] } with parts := [(0, { tvec := 32 })] }
     (group s 0 0).late = [f] ∧ (group s 0 0).ended = false ∧ (group s 0 0).busy = false ∧ (group s 0 0).hmode = false ∧
     (group s 0 0).redo = false ∧ (group s 0 0).saving = false ∧ (part s 0).tvec ≠ 0) := by decide +kernel

theorem witness_SlotFaultsTrap :
    (let f : SlotFault := { slot := 2, cause := 8 }
     let s : State := { standing { bun := { faults := [{ slot := 3, cause := 8 }, f] } } with parts := [(0, { tvec := 32 })] }
     worstFault (group s 0 0).bun.faults = some f ∧ (group s 0 0).bun.trap = none ∧ (group s 0 0).hmode = false ∧ (part s 0).tvec ≠ 0 ∧
     (part (standing {}) 0).tvec = 0) := by decide +kernel

theorem witness_TrapAndReturn :
    (let s : State := { standing { bun := { trap := some (1, 5) } } with parts := [(0, { tvec := 32 })] }
     (group s 0 0).bun.faults = [] ∧ (group s 0 0).bun.trap = some (1, 5) ∧ (part s 0).tvec ≠ 0) ∧
    (let s := standing { hmode := true, bun := { rti := true } }
     (group s 0 0).bun.trap = none ∧ (group s 0 0).bun.rti = true ∧ (group s 0 0).bun.word.getLsbD 252 = false) := by decide +kernel

/-- A group at the end of a bundle with a branch, a word and a loop count. -/
def ending (br : Option BrAct) (w : BitVec 256 := 0) (lcnt : BitVec 32 := 0) (rsd : Nat := 1) : Group :=
  { bun := { br := br, word := w }, rsd := rsd, lcnt := lcnt }

/-- A word whose slot 0 is a br move. -/
def callWord : BitVec 256 := 2 ^ 253 + (wordOf (trigFields .br 6 trig)).setWidth 256

theorem witness_BundleEndMovesProgramCounter :
    (∀ br ∈ [none, some (BrAct.goto 9), some (.call 9), some .ret, some (.loopi 3), some (.loopi 0), some (.loop 0 1 1),
        some (.loop 3 1 1), some (.yield 4)],
      let g := ending br
      g.bun.faults = [] ∧ g.bun.trap = none ∧ g.bun.rti = false ∧ g.bun.lstep = false ∧ g.bun.word.getLsbD 252 = false ∧
      g.bun.br ≠ some .halt ∧ g.rsd ≠ 8 ∧ g.rsd ≠ 0 ∧ g.bun.word.getLsbD 251 = false) ∧ (3 : BitVec 28) ≠ 0 ∧
    (∀ br ∈ [none, some (BrAct.goto 9), some (.call 9), some .ret, some (.yield 4)], ∀ n ∈ [1, 2, 0x80000001, 0x80000002],
      let g := ending br (1 <<< 251) n
      g.bun.faults = [] ∧ g.bun.trap = none ∧ g.bun.rti = false ∧ g.bun.lstep = false ∧ g.bun.word.getLsbD 252 = false ∧
      g.bun.br ≠ some .halt ∧ g.rsd ≠ 8 ∧ g.rsd ≠ 0 ∧ g.bun.word.getLsbD 251 = true ∧ holdsLoop g.bun.word = false ∧ g.hmode = false) ∧
    1 < remOf 2 ∧ remOf 1 ≤ 1 ∧ (2 : BitVec 32).getLsbD 31 = false ∧ (1 : BitVec 32).getLsbD 31 = false ∧
    remOf 0x80000001 = 1 ∧ (0x80000001 : BitVec 32).getLsbD 31 = true ∧ 1 < remOf 0x80000002 ∧
    (2 ^ 252 : BitVec 256).getLsbD 252 = true ∧
    holdsLoop (2 ^ 253 + 2 ^ 251 + (wordOf (trigFields .br 6 trig)).setWidth 256) = true ∧
    (∀ x ∈ [(BrAct.call 9, 8), (.ret, 0)],
      let s : State := { standing (ending (some x.1) callWord 0 x.2) with parts := [(0, { tvec := 32 })] }
      let g := group s 0 0
      g.bun.br = some x.1 ∧ g.rsd = x.2 ∧ g.bun.faults = [] ∧ g.bun.trap = none ∧ g.bun.rti = false ∧
      g.bun.word.getLsbD 252 = false ∧ g.hmode = false ∧ (part s 0).tvec ≠ 0 ∧ 0 < slotsUsed g.bun.word ∧
      isBr g.bun.word 0 = true) := by
  refine ⟨?_, ?_, ?_, ?_, ?_, ?_, ?_, ?_, ?_, ?_, ?_, ?_, ?_⟩ <;> decide +kernel

theorem witness_StreamVectors :
    (let a : Access := { kind := .streamRead, stat := .ready, elems := [{ lane := 0, off := 0, len := 4, va := 64, pa := 64 }] }
     let s := sel (standing { ports := [(13, { q := [{ pend := .mem a }] })] }) [0, 0, 0]
     (portOf (group s 0 0) false 13).q.findIdx? isPending = some 0 ∧ compareAccess s 0 0 a.elems = .pass ∧ orderOk s 0 0 a = true ∧
     badElem s 0 a = none ∧ unanswered s 0 a.sent (a.elems.map (·.pa)) = false ∧ (Machine.core s 0).landed = false ∧
     (∀ later ∈ [0, 1], (a.elems.zipIdx.filter (fun x => later.testBit x.2 == true)).length = later)) ∧
    (let a : Access := { kind := .streamRead, stat := .ready, priv := true, elems := [{ lane := 0, off := 0, len := 4, va := own 1, pa := 64 }] }
     let s : State := { sel (standing { ports := [(13, { q := [{ pend := .mem a }] })] }) [0, 0, 0] with teams := [(0, { spad := (0, 4) })] }
     (portOf (group s 0 0) false 13).q.findIdx? isPending = some 0 ∧ a.priv = true ∧ (group s 0 0).hmode = false ∧
     isFault (decideAccess s 0 0 { a with priv := false, stat := .walking } false) = true ∧
     (group (modGroup s 0 0 (fun g => { g with hmode := true })) 0 0).hmode = true) ∧
    (let a : Access := { kind := .streamWrite, stat := .ready, elems := [{ lane := 0, off := 0, len := 4, va := 64, pa := 64 }] }
     let s := sel (standing { streams := [(13, { active := true, unwritten := [a] })] }) [0, 0, 0]
     (tget {} (group s 0 0).streams 13).unwritten = [a] ∧ orderOk s 0 0 a = true ∧ a.mc = false ∧
     unanswered s 0 a.sent (a.elems.map (·.pa)) = false ∧ (Machine.core s 0).landed = false) := by decide +kernel

/-! #### Landing, the engine at work, and waits -/

/-- Core 0 with a channel in place 0, and a page of partition 0 at address 0 in its TLB, at tick 2. -/
def landing (q : Chan) : State :=
  { pkg := { capmask := capFull, gtime := [(0, 2)] }, sel := [0, 0]
    cores := [(0, { chans := [(0, q)], tlb := [{ part := 0, vpage := 0, size := 12, ppage := 0, attr := {} }] })] }

/-- A copy of one element of one byte from address 0 to address 64. -/
def oneByte : Chan := { st := .landing, own := some 0, rdst := 64, gend := 65, clen := 1 }

theorem witness_CopiesLand :
    (let s := landing oneByte
     let q := chanOf s 0 0
     let e (va : Nat) : Elem := { lane := 0, off := 0, len := shapeEs q.rshape, va := va }
     q.st = .landing ∧ q.ring = none ∧ selAt s 2 = 0 ∧ issueOver s 0 = true ∧ releaseDue s 0 = false ∧
     q.elemW = none ∧ startReady s 0 q.wait q.minT = true ∧ q.aborting = false ∧
     elemAsks s 0 q (fun pa => unanswered s 0 q.sent [pa]) = none ∧ tfind q.ahead q.pos = none ∧
     (match elemCheck s 0 (q.own.getD 0) (chanAccess q .copySrc 0) true (e 0),
            destCheck (sendOut s 0 false 0 1) 0 q 64 with
      | .ok pa _, .ok pd _ => pa == 0 && !readFails s pa 1 && (homePa s pd).1 == 64 &&
          !heldByEarlier s 0 q { e 64 with pa := pd } && !touchesLease s pd 1
      | _, _ => false) = true ∧
     q.pos + 0 < shapeN q.rshape ∧ (match readSource s 0 q 0 with | .ok v pa => v == 0 && !planeDown s pa | _ => false) = true) ∧
    tfind ({ oneByte with ahead := [(0, 7)] } : Chan).ahead 0 = some 7 ∧
    (let q : Chan := { oneByte with phys := some [(128, 64, 1)], fixed := [(64, false)] }
     (q.phys.getD []).find? (fun r => decide (r.2.1 ≤ 64) && decide (64 < r.2.1 + r.2.2)) = some (128, 64, 1) ∧
     tfind q.fixed 64 = some false ∧ oneByte.phys = none) ∧
    elemServed (landing { oneByte with elemW := some 4 }) 0 4 = true ∧
    (let s := landing { oneByte with rsrc := 4096 }
     (match elemCheck s 0 0 { kind := .copySrc } true { lane := 0, off := 0, len := 1, va := 4096 } with | .absent _ => true | _ => false) = true) ∧
    ((chanOf (landing { st := .done, owed := [(1, 2)] }) 0 0).owed = [(1, 2)] ∧
      (2 : BitVec 64).toNat ≤ (coreTime (landing { st := .done }) 0).toNat) ∧
    (chanOf (landing oneByte) 0 0).aborting = false ∧ (chanOf (landing oneByte) 0 0).halo = false := by decide +kernel

/-- An operation of the engine on bank 0. -/
def engine (k : MxKind) (o : MxOp → MxOp := id) : State :=
  { pkg := { capmask := capFull, gtime := [(0, 2)] }, sel := [0]
    cores := [(0, { groups := [(0, {})], mxops := [o { id := 0, kind := k, slot := 0, team := 0, bank := 0 }] })] }

/-- The access of an image whose first line lies at address 64. -/
def imageFrom (k : AccKind) : Access := { kind := k, stat := .ready, elems := [{ lane := 0, off := 0, len := 64, va := 64, pa := 64 }] }

/-- The access of a whole image at address 64. -/
def wholeImage : Access :=
  { kind := .mxsave, stat := .ready, elems := (lineElems 64 (imageBytes false)).map (fun e => { e with pa := e.va }) }

/-- A drain of one column's lines into row 0 of a group with n rows. -/
def draining (n : Nat) : State :=
  modGroup (engine .drain (fun o => { o with mode := 4 })) 0 0 (fun g => { g with vrows := n })

theorem witness_EngineStarts :
    (nextMx (engine .pass) 0 true).map (·.kind) = some .pass ∧ startReady (engine .pass) 0 (some (0, 0)) 0 = true ∧
    (∀ n ∈ [3, 4], (nextMx (draining n) 0 false).map (fun o => (o.kind, o.mode, o.row0 + (o.t.toNat / 2 ^ 7 % 128 + 1) * drainRpt o.mode (cplxFmt
      (if (bankAt (draining n) 0 o.bank).full then (bankAt (draining n) 0 o.bank).fmt else o.fmt)))) = some (.drain, 4, 4) ∧
      (group (draining n) 0 0).vbase + (group (draining n) 0 0).vrows = n) ∧
    (let s := engine .load (fun o => { o with access := some (imageFrom .mxload) })
     let t : State := { s with mem := [(65, 0x20)] }
     (nextMx s 0 true).map (fun o => (o.kind, o.access.map (·.stat))) = some (.load, some .ready) ∧
     startReady s 0 (some (0, 0)) 0 = true ∧ readFails s (imageAddr (imageFrom .mxload) 64) 64 = false ∧
     (imageFrom .mxload).elems.any (fun e => planeDown s e.pa) = false ∧
     readFails { s with failing := [64] } (imageAddr (imageFrom .mxload) 64) 64 = true ∧
     imageHead s 0 (imageFrom .mxload) = 0 ∧ cplxFmt 0 = false ∧ imageHead t 0 (imageFrom .mxload) / 2 ^ 13 ≠ 0) ∧
    (let s : State := { modCore (engine .load (fun o => { o with access := some (imageFrom .mxload) })) 0 (fun k => { k with
       tlb := [{ part := 0, vpage := 0, size := 21, ppage := 0, attr := {} }] }) with mem := [(64, 4)] }
     imageHead s 0 (imageFrom .mxload) = 4 ∧ cplxFmt 4 = true ∧
     isReady (decideAccess s 0 0 { imageFrom .mxload with stat := .walking, elems := lineElems 64 (imageBytes true) } true) = true) ∧
    ((Machine.core (engine .pass (fun o => { o with started := true })) 0).mxops.find? (fun o => o.kind == .pass && o.started)).isSome = true := by
  decide +kernel

theorem witness_EngineRetires :
    (∀ k ∈ [MxKind.pass, .load, .drain],
      (retiringMx (engine k (fun o => { o with started := true, rows := 1 })) 0 k).map (fun o => (o.bad, o.rows)) = some (false, 1)) ∧
    ((retiringMx (engine .pass (fun o => { o with started := true })) 0 .pass).map computePass).map (·.bad) = some false ∧
    (retiringMx (engine .drain (fun o => { o with started := true, rows := 1 })) 0 .drain).map
      (drainBad (engine .drain (fun o => { o with started := true, rows := 1 })) 0) = some false := by
  decide +kernel

theorem witness_BankImageIsSaved :
    (let s := engine .save (fun o => { o with access := some wholeImage })
     (∃ o, nextMx s 0 false = some o ∧ o.kind = .save ∧ o.access = some wholeImage) ∧ wholeImage.stat = .ready ∧
     orderOk s 0 0 wholeImage = true ∧ unanswered s 0 wholeImage.sent (wholeImage.elems.map (·.pa)) = false ∧
     bankBad s 0 0 0 32768 = false ∧ remoteAt s (2 ^ 20) = false ∧
     imageBytes (cplxFmt (bankAt s 0 0).fmt) / 64 ≤ wholeImage.elems.length) ∧
    (∀ e ∈ wholeImage.elems, ∀ j < 64, Claims.home (engine .save) (e.pa + j) ≠ Claims.home (engine .save) (2 ^ 20)) := by
  refine ⟨⟨⟨_, rfl, rfl, rfl⟩, rfl, by decide +kernel, by decide +kernel, by decide +kernel, by decide +kernel, ?_⟩, fun e he j hj => ?_⟩
  · simp only [wholeImage, lineElems, List.length_map, List.length_range]; exact Nat.le_refl _
  have home : ∀ a, Claims.home (engine .save) a = a := fun a => by unfold Claims.home fabricLocal; cases fabricOf a <;> rfl
  simp only [wholeImage, lineElems, List.mem_map, List.mem_range] at he
  obtain ⟨_, ⟨i, hi, rfl⟩, rfl⟩ := he
  have : i < 4097 := hi
  rw [home, home]; show 64 + 64 * i + j ≠ _; omega

/-- Group 0 of core 0 at tick 2, whose entry 0 of the ss queue of its handler bank waits for something. -/
def served2 (p : Pend) : State :=
  { sel (standing { hports := [(21, { q := [{ pend := p }] })] }) [0, 0, 0] with pkg := { capmask := capFull, gtime := [(0, 2)] } }

theorem witness_SystemWaitsComplete :
    (let s := served2 (.tlbinv 0 true 0 false [] [])
     ssWait s = some (.tlbinv 0 true 0 false [] []) ∧ released s 0 0 0 true = true) ∧
    (let s := served2 (.tlbinv 0 true 0 true [4] [(0, 0, 0)])
     ssWait s = some (.tlbinv 0 true 0 true [4] [(0, 0, 0)]) ∧
     (∀ x ∈ [4], x ∉ walksOf s (group s 0 0).part)) ∧
    (let s := served2 (.tlbinv 0 true 0 true [] [(0, 0, 0)])
     ssWait s = some (.tlbinv 0 true 0 true [] [(0, 0, 0)]) ∧
     (∀ a ∈ [((0 : Nat), (0 : Nat), (0 : Nat))], a ∉ (openAccesses s).map (fun x => (x.1, x.2.1, x.2.2.seq)))) ∧
    (let s := served2 (.replay 0 true 0 false [] 0 false)
     ssWait s = some (.replay 0 true 0 false [] 0 false) ∧ released s 0 0 0 true = true) ∧
    ssWait (served2 (.replay 0 true 0 true [3] 1 false)) = some (.replay 0 true 0 true [3] 1 false) ∧
    ssWait (served2 (.replay 0 true 0 true [] 1 false)) = some (.replay 0 true 0 true [] 1 false) ∧
    (let s := served2 (.pub 0 1 0 64)
     ssWait s = some (.pub 0 1 0 64) ∧ released s 0 0 0 false = true) := by decide +kernel

/-! #### Launch, placement, retirement and saved teams -/

/-- Group 0 of core 0 at tick 2, whose entry 0 of the ln queue waits for something. -/
def pushing (p : Pend) (k : Core → Core := id) : State :=
  { pkg := { capmask := capFull, gtime := [(0, 2)] }, sel := [0, 0, 0]
    cores := [(0, k { groups := [(0, { ports := [(22, { q := [{ pend := p }] })] })] })] }

/-- A record that core 0 has handed over, and an entry of its segments. -/
def handed : Handover := { core := 0, ticket := 0, rcd := 256, pcore := 0, pslot := 0, part := 0 }

/-- An entry of a segment. -/
def segEntry (place : Nat := 0) : SegEntry := { rcd := 256, ticket := 0, place := place }

/-- A hand-over to a die of which core 0 has the given segments. -/
def linking (l : List (List SegEntry)) : State := { dies := [(0, { hoq := [handed], segs := [(0, l)] })], sel := [0] }
/-- Memory that holds nothing reads 0 to every observer. -/
theorem empty_memory_reads (s : State) (a : Nat) (hm : s.mem = []) (hh : s.hidden = []) (ha : a + 16 ≤ 2 ^ 48) :
    latestRead s a 16 = 0 := by
  have byte : ∀ i ∈ List.range 16, physByte s none (a + i) = 0 := by
    intro i hi
    have : regionOf (a + i) = 0 := by have := List.mem_range.mp hi; unfold regionOf; omega
    unfold physByte; rw [this]
    simp [homeByte, servedNow, servedFrom, hh, hm, memByte]
  unfold latestRead
  rw [hh, List.map_congr_left (g := fun _ => 0) (fun i hi => by simpa using byte i hi)]
  decide

/-- The segment entry that memory of nothing holds is not cancelled, so that it can be refilled. -/
theorem refill_takes :
    ∃ e l, takeSeg ((segsOf (linking [[segEntry]]) 0).map (fun l => l.map (segEntryNow (linking [[segEntry]]) 0))) = (some e, l) := by
  have h : latestRead (linking [[segEntry]]) (segAddr 0 0) 16 = 0 := empty_memory_reads _ _ rfl rfl (by unfold segAddr; omega)
  refine ⟨{ segEntry with rcd := 0 }, [[]], ?_⟩
  show takeSeg [[segEntryNow (linking [[segEntry]]) 0 segEntry]] = _
  rw [show segEntryNow (linking [[segEntry]]) 0 segEntry = { segEntry with rcd := 0 } from by
    unfold segEntryNow; rw [show segEntry.place = 0 from rfl, h]; decide]
  decide

theorem witness_PushesAndSegments :
    (let s := pushing (.push 0 0 256)
     (entryAt (group s 0 0) false 22 0).map (·.pend) = some (.push 0 0 256) ∧ released s 0 0 0 true = true ∧ pushTurn s 0 0 0 = true ∧
     coreUp s 0 = true ∧ (Machine.core s 0).plq0.1 + (Machine.core s 0).pushed < 4 ∧ (Machine.core s 0).plq.length < 4 ∧
     (Machine.core s 0).plq0.2 = 0 ∧ handing s 0 = false) ∧
    (let s := pushing (.push 0 0 256) (fun k => { k with plq0 := (0, 1) })
     released s 0 0 0 true = true ∧ pushTurn s 0 0 0 = true ∧ (Machine.core s 0).plq0.2 ≠ 0 ∧ modeOf s .sched (dieOf 0) = 0) ∧
    (let s := pushing (.push 0 576 256)
     (entryAt (group s 0 0) false 22 0).map (·.pend) = some (.push 0 576 256) ∧ coreUp s 576 = false ∧ pushTurn s 0 0 576 = true) ∧
    (let h := List.replicate 64 handed
     let s : State := { pushing (.push 0 0 256) (fun k => { k with plq0 := (4, 0) }) with
       pkg := { capmask := capFull, gtime := [(0, 2)], taken := [(0, 0xFF)] }, dies := [(0, { hoq := h })] }
     released s 0 0 0 true = true ∧ pushTurn s 0 0 0 = true ∧ coreUp s 0 = true ∧ ¬(Machine.core s 0).plq0.1 + (Machine.core s 0).pushed < 4 ∧
     modeOf s .sched (dieOf 0) ≠ 0 ∧ 64 ≤ (die s (dieOf 0)).hoq.length) ∧
    (∀ x ∈ [(0, 0), (576, 3)],
     let s := pushing (.accepted x.1 x.2 0)
     coreRuns s 0 = true ∧ issueOver s 0 = true ∧ releaseDue s 0 = false ∧
     (∀ p ∈ (Machine.core s 0).groups, dueNow p.2 (Machine.core s 0).cycle = false ∧ fallsNow s 0 p.1 = false) ∧
     (entryAt (group s 0 0) false 22 0).map (·.pend) = some (.accepted x.1 x.2 0) ∧ coreUp s x.1 = (x.1 == 0)) ∧
    ((die (linking []) 0).hoq = [handed] ∧ modeOf (linking []) .sched 0 = 0 ∧ segPlace (linking [[segEntry]]) 0 = some 1 ∧
     segPlace (linking ((List.range 256).map (fun i => List.replicate 64 (segEntry (64 * i))))) 0 = none ∧
     (Machine.core (linking [[segEntry]]) 0).plq.length < 4) := by decide +kernel

/-- Stacked DRAM with tables of partition 0 that map its first 2 MiB onto themselves, and a launch record of one team of one
group at address 4096; the record's address waits for the dispatcher of D0. -/
def recorded : State :=
  { mem := [(4104, 1), (4108, 1), (4111, 8), (4137, 255), (0x10000, 1), (0x10002, 2), (0x20000, 1), (0x20001, 0x10), (0x20002, 2),
            (0x21000, 3), (0x21006, 0x20)]
    pkg := { capmask := capFull }
    parts := [(0, { ptroot := 0x10000, pquota := BitVec.allOnes 64, pobq := BitVec.allOnes 32 })]
    dies := [(0, { ready := [{ rcd := 4096, part := 0 }] })], sel := [0] }

/-- The record of `recorded` as the dispatcher reads it. -/
def recordRead (s : State) : Option Nat :=
  (readRecord s 0 0 4096).map (fun x => refusal s { rcd := 4096, part := 0 } x.1 x.2)

theorem witness_DispatcherTakesRecord :
    (∀ core ∈ [none, some 0],
      let r : Ready := { rcd := 4096, part := 0, core := core }
      let s : State := { recorded with dies := [(0, { ready := [r] })] }
      (die s 0).held = [] ∧ (die s 0).ready.find? (fun r => !behindQueue s 0 r) = some r ∧ dieUp s 0 = true ∧
      r.stamp ≤ cycleOf s (readyClock 0 r) ∧ s.pkg.fdue = false ∧ (∀ c, core = some c → coreRuns s c = true) ∧ r.skein = false) ∧
    gridKnown recorded 0 4096 = false ∧ recordRead recorded = some 0 ∧ (readRecord recorded 0 0 4096).map (·.1.flags) = some 0 ∧
    recordRead { recorded with parts := [(0, { ptroot := 0x10000 })] } = some 1 ∧
    readRecord { recorded with parts := [] } 0 0 4096 = none ∧
    (let g : Grid := { lr := {}, src := { rcd := 4096, part := 0 } }
     let s : State := { recorded with grids := [(gridKey 0 4096, g)] }
     gridKnown s 0 4096 = true ∧ suspended s (gridKey 0 4096) = false ∧
     suspended { s with grids := [(gridKey 0 4096, { g with preempt := true })] } (gridKey 0 4096) = true) ∧
    (let s : State := { recorded with
       mem := recorded.mem.filter (fun c => decide (c.1 < 4112)) ++ [(4113, 2)] ++ recorded.mem.filter (fun c => decide (4112 < c.1))
       parts := [(0, { part recorded 0 with sken := true })] }
     recordRead s = some 0 ∧ (readRecord s 0 0 4096).map (·.1.flags) = some 2) ∧
    (let s : State := { recorded with pkg := { capmask := capFull, fdue := true, skein := [{ rcd := 8, part := 0, src := { rcd := 8, part := 0 }, rf := 0, df := 1, st := 1, die := 0, lr := {} }] } }
     s.pkg.fdue = true ∧ deadlineOpen s.pkg ≠ [] ∧ isTimed s 0 { rcd := 4096, part := 0 } = false) := by decide +kernel

/-- The dispatcher of D0 places a grid of one team of one group, with a quota of partition 0; its candidate is core 0. -/
def holding (w : WaitKind) (quota : BitVec 64 := BitVec.allOnes 64) (c : Core := {}) : State :=
  let p : Placing := { rcd := 4096, src := { rcd := 4096, part := 0 }, wait := w }
  { pkg := { capmask := capFull }, sel := [0], dies := [(0, { held := [p] })], cores := [(0, c)]
    parts := [(0, { pquota := quota, pobq := BitVec.allOnes 32 })]
    grids := [(gridKey 0 4096, { lr := { teams := 1, groups := 1 }, src := p.src })] }

/-- The first core that takes the cluster of `holding`. -/
def firstCore (s : State) : Option (List Nat) :=
  let g := grid s (gridKey 0 4096)
  (firstFitting s g.lr (candidates s 0 (homeOf s g.lr g.src g.placed) g.lr.w g.lr.h)).map (fun l => l.map (·.1))

theorem witness_DispatcherPlacesCluster :
    restoreChoice (holding .none) 0 0 = none ∧ stillWaits { rcd := 0, src := { rcd := 0, part := 0 } } = false ∧
    stillWaits { rcd := 0, src := { rcd := 0, part := 0 }, wait := .quota } = true ∧ firstCore (holding .none) = some [0] ∧
    firstCore (holding .none 0) = none ∧ 
    candidateUp (holding .fragmentation) (grid (holding .fragmentation) (gridKey 0 4096)).lr 0 = true ∧
    (let s : State := { holding .fragmentation with pkg := { capmask := capTadpole } }
     candidateUp s (grid s (gridKey 0 4096)).lr 8 = false) ∧
    (match fitAll (holding .fragmentation) (clusterNeeds (grid (holding .fragmentation) (gridKey 0 4096)).lr 0) with
      | .fits _ => true | _ => false) = true ∧
    (let s := holding .fragmentation (quota := 0) (c := { cycle := 16384 })
     0 + 16384 ≤ cycleOf s 0 ∧
     (match fitAll s (clusterNeeds (grid s (gridKey 0 4096)).lr 0) with | .fits _ => true | _ => false) = false) ∧
    (∀ x ∈ [(0, BitVec.allOnes 64, some 1, some 1), (71, BitVec.allOnes 64, none, some 0), (0, 0, none, none)],
      let s0 := holding .fragmentation (quota := x.2.1)
      let s : State := { setPlacing s0 0 (fun p => { p with cand := x.1 }) with
        pkg := { capmask := capTadpole }, cores := [(x.1, { cycle := 16384, freed := [{ part := 1, slots := List.range 16 }] })] }
      let lr := (grid s (gridKey 0 4096)).lr
      let os := (candidates s 0 0 lr.w lr.h).filter (waitsOrFits s lr)
      0 + 16384 ≤ cycleOf s x.1 ∧ (match fitAll s (clusterNeeds lr x.1) with | .fits _ => true | _ => false) = false ∧
      os.find? (fun o => decide (candidateRank 0 x.1 < candidateRank 0 o)) = x.2.2.1 ∧ os.head? = x.2.2.2) ∧
    (let f : Freed := { part := 0, slots := [3] }
     let s := holding .resource (c := { freed := [f] })
     f ∈ (Machine.core s 0).freed ∧ 3 ∈ f.slots ∧
     ((allocOn s 0 (needOf (grid s (gridKey 0 4096)).lr)).map (fun a => a.slots.length)) = some 1) := by decide +kernel

theorem witness_WorkRetires :
    (let s := sel (standing { ended := true }) [0, 0]
     (group? s 0 0).map (fun g => (g.ended, opsDone s 0 0 g)) = some (true, true)) ∧
    (let g : Grid := { lr := {}, src := { rcd := 256, part := 0 }, ending := some 0 }
     let s : State := { grids := [(gridKey 0 256, g)], pkg := { gtime := [(0, 2)] }, sel := [0, 256] }
     tfind s.grids (gridKey 0 256) = some g ∧ g.ending = some 0 ∧ (g.lastW + 2).toNat ≤ (gtime s g.die).toNat) := by decide +kernel

/-- Team 0 stands on core 0 with one group, at tick 2048; its slice is one of 1024 ticks. -/
def sliced (g : Group) (t : Team → Team := id) (p : List Placing := []) : State :=
  { standing g with
    pkg := { capmask := capFull, gtime := [(0, 2048)] }, parts := [(0, { pquota := 1 })]
    grids := [(0, { lr := {}, src := { rcd := 0, part := 0 } })], dies := [(0, { held := p })]
    teams := [(0, t { slots := [(0, 0)], groups := 1, quantum := 1024 })], sel := [0] }

/-- Team 0 stands saved; its group waits until the counter at address 64 has the value 0. -/
def imaged (why : Nat) (listed : Bool) : State :=
  let g : Group := { ports := [(20, { q := [{ pend := .mwait (wordAt .mwait 64) 0 0 }] })] }
  { recorded with
    images := [{ team := { slots := [(0, 0)], groups := 1 }, tid := 0, groups := [(0, g)], cause := why, listed := listed }]
    grids := [(0, { lr := {}, src := { rcd := 0, part := 0 } })], dies := [(0, { restore := [0] })] }

/-- A parent whose group waits at its bundle, which reads sy.r, for the counter of a child grid. -/
def swapping : State :=
  let w : BitVec 256 := 2 ^ 253 + (BitVec.ofNat 40 (encode (.move ⟨false, 0, 1, 0x280, false⟩ .null))).setWidth 256
  let p : Placing := { rcd := 0, src := { rcd := 0, part := 0, parent := some 0 }, wait := .fragmentation }
  { sliced { fetch := [(0, w.setWidth 512)], ports := [(20, { q := [{ pend := .mwait (wordAt .mwait 64) 1 0 }] })] } id [p] with
    grids := [(0, { lr := {}, src := { rcd := 0, part := 0 } }),
              (gridKey 0 256, { lr := { counter := 64 }, src := { rcd := 256, part := 0, parent := some 0 } })] }

theorem witness_TeamsAreSavedAndRestored :
    (let p : Placing := { rcd := 0, src := { rcd := 0, part := 0, parent := some 0 }, wait := .fragmentation }
     let s := sliced {} id [p]
     (team s 0).quantum = 1024 ∧ modeOf s .sched 0 = 0 ∧ (0 : BitVec 64).toNat + (team s 0).quantum ≤ (coreTime s 0).toNat ∧
     s.dies.any (fun d => d.2.held.any (waitsForCore s (team s 0))) = true ∧
     (sliced {}).dies.any (fun d => d.2.held.any (waitsForCore (sliced {}) (team (sliced {}) 0))) = false ∧
     s.dies.any (fun d => d.2.held.any (fun p => waitsOnDie s (dieOf (team s 0).core) p && p.src.parent == some 0)) = true) ∧
    (let s := sliced { saving := true } (fun t => { t with saveFor := 1 })
     (clusterTeams s 0 0).map (·.1) = [0] ∧ (team s 0).retired = false ∧ teamSaves s 0 (team s 0) = true) ∧
    (swapEligible swapping 0 = true ∧ (team swapping 0).saveFor = 0 ∧ (team swapping 0).retry = 0) ∧
    (let s := imaged 3 false
     (s.images.find? (fun x => x.tid == 0)).map (fun im => (im.cause, im.listed, (clusterImages s im).any (parentReady s))) =
       some (3, false, true)) ∧
    (let s := imaged 1 true
     (refuseImages s 0).images.length = 1 ∧ ((restoreChoice (refuseImages s 0) 0 0).map (fun l => l.map (fun x => x.2.1))) = some [0]) := by
  decide +kernel

/-! #### The host, the fabric and ingest -/

/-- A queue of partition 0 with a command at its head whose opcode is given. -/
def commanding (op : Byte) (flags : Byte := 0) : State :=
  { recorded with hcqs := [(0, { base := 2 ^ 20, pi := 1, enabled := true })], sel := [0, 0]
                  mem := recorded.mem ++ (if op = 0 then [] else [(2 ^ 20, op)]) ++ (if flags = 0 then [] else [(2 ^ 20 + 1, flags)]) }

theorem witness_HostCommandsRun :
    (∀ op < 6, commandReady (commanding (BitVec.ofNat 8 op)) 0 0 = true ∧
      cmdOp (command (commanding (BitVec.ofNat 8 op)) (hcq (commanding (BitVec.ofNat 8 op)) 0 0)) = op ∧
      cmdBad (command (commanding (BitVec.ofNat 8 op)) (hcq (commanding (BitVec.ofNat 8 op)) 0 0)) = decide (op = 5)) ∧
    modeOf (commanding 4) .sched (serving (commanding 4) 0) = 0 ∧
    (let s1 := takeCommand (commanding 3) 0 0
     (devAdd s1 (serving s1 0) 0 0 0).isSome = true ∧
     (devAdd (takeCommand { commanding 3 with parts := [] } 0 0) 0 0 0 0).isSome = false ∧
     commandReady { commanding 3 with parts := [] } 0 0 = true) ∧
    addWaits (commanding 3) (serving (commanding 3) 0) 0 (cmdWord0 (command (commanding 3) (hcq (commanding 3) 0 0))) = false ∧
    (let s : State := { commanding 3 with hidden := [{ die := 0, core := none, via := none, w := 9, cap := 0, cells := [(0, 1)] }] }
     commandReady s 0 0 = true ∧ addWaits s (serving s 0) 0 (cmdWord0 (command s (hcq s 0 0))) = true) ∧
    preemptWaits (commanding 4) 0 (cmdWord0 (command (commanding 4) (hcq (commanding 4) 0 0))) = false ∧
    (let s : State := { commanding 4 with pkg := { capmask := capFull, fdue := true }, dies := [(0, { ready := [{ rcd := 0, part := 0 }] })] }
     commandReady s 0 0 = true ∧ preemptWaits s 0 (cmdWord0 (command s (hcq s 0 0))) = true) := by decide +kernel

theorem witness_CommandQueuesMove :
    (let s : State := { hcqs := [(0, { pi := 5, ci := 4, enabled := true })], sel := [0, 0, 20] }
     (hcq s 0 0).enabled = true ∧ (hcq s 0 0).pi.toNat ≤ 20 ∧ 20 ≤ (hcq s 0 0).ci.toNat + (hcq s 0 0).n ∧
     (hcq s 0 0).ci.toNat + (hcq s 0 0).n < 21 ∧ 4 < (hcq s 0 0).pi.toNat) ∧
    (let s : State := { rings := [(0, { base := some 0, pi := 4 })] }
     (tget {} s.rings (ringKey 0 0)).base.isSome = true ∧ (tget {} s.rings (ringKey 0 0)).ci.toNat ≤ 4 ∧
     4 ≤ (tget {} s.rings (ringKey 0 0)).pi.toNat) ∧
    (let s : State := { recorded with hcqs := [(0, { waitctr := some (8, 0) })], sel := [0, 0] }
     (hcq s 0 0).waitctr = some (8, 0) ∧ devRead s (serving s 0) 0 8 8 = some 0 ∧ modeOf s .sched (serving s 0) ≠ 2) := by decide +kernel

theorem witness_HostReachesMemory :
    linkUp recorded 1 = true ∧ bar2Ok recorded 64 8 = true ∧ bar2Ok recorded (2 ^ 39) 1 = false ∧ failingAt recorded 64 8 = false ∧
    hiddenIn recorded 64 8 = false ∧ linkUp State.reset 0 = true := by
  refine ⟨by decide +kernel, by decide +kernel, by decide +kernel, by decide +kernel, by decide +kernel, rfl⟩

theorem witness_PartitionRegistersAreWritten :
    mgBusy {} = false ∧ quotasOpen {} = true ∧ pquotaOk 0x8000000000000000 = true ∧ pobqOk 0x100 = true ∧
    (BitVec.ofNat 64 0x10000).extractLsb' 52 12 = 0 ∧ (BitVec.ofNat 64 0x10000).extractLsb' 0 16 = 0 ∧
    (BitVec.ofNat 64 0x10000).extractLsb' 0 5 = 0 ∧ (BitVec.ofNat 64 0x200000).extractLsb' 52 12 = 0 ∧
    (BitVec.ofNat 64 0x200000).extractLsb' 16 5 = 0 := by decide +kernel

theorem witness_RegistersAndMonitors :
    mgBusy {} = false ∧ mgBusy { recorded with pkg := { recorded.pkg with molt := { step := 5, func := 1 } } } = true ∧
    (List.replicate 48 (0 : Nat)).length = 48 ∧ 4 ≤ 6 ∧ 6 ≤ 16 ∧ 64 = 2 ^ 6 ∧ (∀ e ≤ 16, 65 ≠ 2 ^ e) ∧
    (let s : State := { pkg := { gtime := [(8, 3600000000000)], qreq := true }, sel := [0] }
     s.pkg.agemonAt.toNat + 3600000000000 ≤ (gtime s x0).toNat ∧ s.pkg.qreq = true ∧ mgBusy s = false) := by decide +kernel

/-- The Newts of D0 and of the fabric have taken up a mode table. -/
def moded (v : BitVec 8) : State := { recorded with pkg := { recorded.pkg with taken := [(0, v), (8, v), (9, v)] } }

theorem witness_HostAssistedService :
    (modeOf (moded 0x08) .fault 0 ≠ 0 ∧
      (let e : FbEntry := { cause := 1, kind := 0, key := ⟨0, 0, 12⟩, part := 0, chan := 0, origin := 0, team := 0, gid := 0, count := 1, va := 0, gtime := 0 }
       let s (b : Bool) : State := { moded 0x08 with
         cores := [(0, { groups := [(0, { hmode := !b })] })]
         teams := [(0, { slots := [(0, 0)], groups := 1 })], dies := [(0, { fb := [e] })] }
       (die (s true) 0).joined = [] ∧ deliveryOf (s true) e = .to 0 0 ∧ deliveryOf (s false) e = .waits ∧ (die (s true) 0).fb = [e] ∧ (die (s true) 0).fbTodo = [])) ∧
    hostSched (moded 0x02) 0 = true ∧ recordPart (moded 0x02) 0 (4096 % 2 ^ 52) = some 0 ∧
    hostSched (moded 0x02) (serving (moded 0x02) 0) = true ∧
    (let s : State := { moded 0x02 with parts := [(0, { part recorded 0 with pquota := BitVec.allOnes 64 - 0x200000 })] }
     serving s 0 = 1 ∧ hostSched s 0 = true ∧ recordPart s 0 (4096 % 2 ^ 52) = some 0 ∧ hostSched s (serving s 0) = false) ∧
    (let g : Grid := { lr := {}, src := { rcd := 256, part := 0 } }
     let h : Handover := { core := 0, ticket := 7, rcd := 256, pcore := 0, pslot := 0, part := 0 }
     let s : State := { moded 0x02 with
       grids := [(gridKey 0 256, g)], dies := [(0, { hoq := [h], taken := [(0, { rcd := 256, ticket := 7 })] })] }
     (List.range 8).find? (fun p => recordKnown s p (256 % 2 ^ 52)) = some 0 ∧ preemptWaits s 0 (256 % 2 ^ 52) = false ∧
     (die s 0).hoq.find? (fun h => h.core == 7 * 2 ^ 32 % 2 ^ 10 && h.ticket.toNat == 7 * 2 ^ 32 / 2 ^ 32 % 2 ^ 32) = some h ∧
     (Machine.core s 0).plq.length < 4 ∧ dieOf (0 % 2 ^ 10) = 0 ∧
     ((die s 0).taken.find? (fun x => x.2.rcd == (5 * 2 ^ 56 + 256) % 2 ^ 52)).isSome = true ∧ (5 * 2 ^ 56 + 256) / 2 ^ 56 = 5) := by
  decide +kernel

theorem witness_FabricEvents :
    (modeOf (moded 0x20) .fabric 0 = 2 ∧ (moded 0x20).pkg.fabid = none ∧ portsUp (moded 0x20) = true ∧ modeOf (moded 0) .fabric 0 = 0) ∧
    (∀ p < 18, planeField 0 p < 18) ∧ portsUp { pkg := { capmask := capTadpole } } = false ∧
    (let s : State := { recorded with pkg := { recorded.pkg with seen := [(3, 4, 0, 0)] } }
     s.pkg.seen.find? (fun r => r.1 == 3 && r.2.1 == 4) = some (3, 4, 0, 0) ∧
     s.pkg.seen.find? (fun r => r.1 == 3 && r.2.1 == 5) = none ∧ dramOk s 64 = true ∧ dramOk s 79 = true ∧ failingAt s 64 16 = false) ∧
    (let s : State := { waiting .load (2 * 2 ^ 48 + 2 ^ 39) with pkg := { capmask := capFull, fabid := some 0, gtime := [(0, 2 ^ 24)] } }
     (findAccess s 0 0 11 false 0).map (fun a => (a.stat, a.held, a.kind, timedOut s 0 a.sent (a.elems.map (·.pa)))) =
       some (.ready, false, .load, true)) := by
  decide +kernel

theorem witness_IngestEvents :
    (let bs : List Byte := List.replicate 60 0
     let s : State := { recorded with eth := [(1, { rules := [(2, 0x8000000000000000)] })] }
     portsUp s = true ∧ 60 ≤ bs.length ∧ macControl bs = false ∧ matchRule (eth s 0) bs = none ∧ matchRule (eth s 1) bs = some 2) ∧
    (let f : Frame := { bytes := [], port := 0, rule := 0, ring := 0, arrival := 0, landed := some (64, 0) }
     let s : State := { recorded with eth := [(0, { frames := [f] })], ingest := [(0, { enabled := true })]
                                      pkg := { capmask := capFull, gtime := [(8, 20000)] } }
     (eth s 0).frames = [f] ∧ (iring s f.ring).enabled = true ∧ (0 : BitVec 64).toNat ≤ (gtime s (homeDie (iring s f.ring).rb)).toNat ∧
     (tget 0 (eth s 0).xoff 0).toNat + 20000 ≤ (portTime s 0).toNat) ∧
    mgBusy recorded = false ∧ ringCfgOk recorded 0 524288 262144 0 0 0 0 = true ∧ ruleOk recorded 0 0 = true ∧
    (let s : State := { recorded with ingest := [(0, { enabled := true, paused := true, prio := 3 })] }
     let v : BitVec 64 := 0x800000000000A000
     pausing s 0 3 = true ∧ pausing s 0 5 = false ∧ ruleOk s 0 v = true ∧
     pausing { s with eth := [(0, { rules := [(2, v)] })] } 0 5 = true) := by decide +kernel

/-! #### Time, power and the Newts -/

theorem witness_TimeAdvances :
    (({} : State).pkg.notices = [] ∧ ({} : State).pkg.finishes = [] ∧ ({} : State).ingest = [] ∧ ({} : State).pkg.fdue = false ∧ tickOwes {} = false ∧
      tget 0 ({} : State).pkg.gheld 0 = 0 ∧
      ∀ j < 10, (tget 0 ({} : State).pkg.gtime j).toNat + 2 ≤ (tget 0 ({} : State).pkg.gtime 0).toNat + 2) ∧
    (let e : SkeinEntry := { rcd := 256, part := 0, src := { rcd := 256, part := 0 }, rf := 1, df := 9, st := 0, die := 0, lr := {} }
     let s : State := { pkg := { fdue := true, skein := [e] } }
     s.pkg.fdue = true ∧ deadlineOpen s.pkg = [] ∧ tickOwes s = true ∧ e ∈ s.pkg.skein ∧ releases (s.pkg.frame + 1) e = true) := by
  decide +kernel

theorem witness_PowerEvents :
    (let s : State := { pkg := { climit := 1300, gtime := [(8, 1000000000)] } }
     modeOf s .thermal 0 = 0 ∧ mgBusy s = false ∧ s.pkg.climit < 1450 ∧ s.pkg.power < 6000 ∧ s.pkg.temp < 105 ∧
     s.pkg.coolAt.toNat + 10 ^ 9 ≤ (gtime s x0).toNat) ∧
    modeOf (moded 0x80) .thermal 0 = 2 ∧ dieUp recorded 0 = true ∧ tableOk recorded.pkg (pairsOf []) = true ∧
    tableOk recorded.pkg (pairsOf [1, 2]) = true := by decide +kernel

theorem witness_NewtsAndModes :
    (newtRuns recorded 0 = true ∧ (newt recorded 0).failed = false ∧ recorded.pkg.molt.step = 0 ∧ timeoutDue recorded 0 = false) ∧
    (let s : State := { recorded with pkg := { recorded.pkg with newts := [(0, { failed := true, committed := true })], molt := { step := 5, func := 1 } } }
     newtRuns s 0 = true ∧ (newt s 0).committed = true ∧ moltNewt s.pkg.molt ≠ 0 ∧ timeoutDue s 0 = false) ∧
    (let s : State := { pkg := { capmask := capFull, gtime := [(0, 2 ^ 25 + 1)] } }
     newtRuns s 0 = true ∧ (newt s 0).committed = true ∧ (newt s 0).failed = false ∧ timeoutDue s 0 = true ∧ s.pkg.molt.step < 3 ∧
     (tmax (newt s 0).nhbt (newt s 0).since).toNat + 2 ^ 25 < (gtime s 0).toNat) ∧
    modetabOk (BitVec.ofNat 64 0xAA) = true ∧ modesHeld recorded = false ∧
    modesHeld { recorded with pkg := { recorded.pkg with molt := { step := 5 } } } = true := by decide +kernel

/-- A Molt of the management Newt's image in a step. -/
def molting (k : Nat) (r : Option StateRecord := none) : State :=
  { recorded with pkg := { recorded.pkg with molt := { step := k, func := 1, record := r } } }

theorem witness_MoltSteps :
    (5 / 4 % 4 = 1 ∧ 5 % 4 = 1 ∧ recorded.pkg.moltaddr.toNat % 256 = 0 ∧ moltActive recorded = false ∧ tadpole recorded.pkg = false) ∧
    (0x304 / 4 % 4 = 1 ∧ 0x304 % 4 = 0 ∧ lowestOf (BitVec.ofNat 8 (0x304 / 2 ^ 8)) = some 0 ∧ 0x304 / 16 % 16 = 0) ∧
    (∀ k < 12, (molting k).pkg.molt.step = k ∧ moltNewt (molting k).pkg.molt < 10) ∧
    (newtRuns (molting 9) (moltNewt (molting 9).pkg.molt) = true ∧ (newt (molting 9) (moltNewt (molting 9).pkg.molt)).failed = false ∧
      watchOver (molting 9) = false ∧ (molting 9).pkg.molt.func ≠ 0) ∧
    (watchOver { molting 9 with pkg := { (molting 9).pkg with gtime := [(8, 2 ^ 25 + 1)] } } = true ∧
      lowestOf ({ step := 10, func := 0, dies := 4 } : Molt).dies = some 2) ∧
    (field (molting 4).pkg.molt.image 14 2 ≤ recordSchema (molting 4).pkg.molt ∧
      recordSchema (molting 4).pkg.molt ≤ field (molting 4).pkg.molt.image 16 2) ∧
    (∀ r, (molting 5).pkg.molt.record = some r → r.digest ≠ Sha.hash384 r.body) ∧
    (∃ r : StateRecord, (molting 5 (some r)).pkg.molt.record = some r ∧ r.digest = Sha.hash384 r.body) :=
  ⟨by decide +kernel, by decide, by decide +kernel, by decide +kernel, by decide +kernel, by decide +kernel, fun _ h => (by cases h),
    ⟨1, 255, 0, [], Sha.hash384 []⟩, rfl, (by dsimp only)⟩

theorem witness_RepairBringupAndReset :
    ((2 ^ 8 + 8) / 4 % 4 = 2 ∧ ctlBad (2 ^ 8 + 8) = false ∧ lowestOf (BitVec.ofNat 8 ((2 ^ 8 + 8) / 2 ^ 8)) = some 0 ∧
      withoutDie (BitVec.ofNat 8 ((2 ^ 8 + 8) / 2 ^ 8)) 0 = 0 ∧ tadpole recorded.pkg = false ∧ diesUp recorded ≠ [0] ∧
      moltActive recorded = false ∧ recorded.teams.filter (fun t => dieOf t.2.core == 0 && !t.2.retired) = []) ∧
    (let s : State := { pkg := { molt := { repairing := some 0 } } }
     s.pkg.molt.repairing = some 0 ∧ s.teams.any (fun t => dieOf t.2.core == 0) = false) ∧
    (12 / 4 % 4 = 3 ∧ ctlBad 12 = false ∧ tadpole State.reset.pkg = true ∧ moltActive State.reset = false) :=
  ⟨by decide +kernel, by decide +kernel, by decide, by decide, rfl, rfl⟩

/-! #### The form of a bundle, and the service on offer -/

theorem witness_BundleFormIsChecked :
    (7 * 2 ^ 253 : BitVec 256).extractLsb' 253 3 = 7 ∧ (2 ^ 240 : BitVec 256).extractLsb' 240 8 ≠ 0 ∧ slotWord (2 ^ 40) 1 ≠ 0 ∧
    ((2 ^ 40 : BitVec 256).extractLsb' 253 3).toNat ≤ 1 ∧ (∀ i < 6, slotWord (0 : BitVec 256) i = 0) ∧
    (group (standing { bun := { word := 2 ^ 252 } }) 0 0).bun.word.getLsbD 252 = true ∧
    (group (standing { bun := { word := 2 ^ 252 } }) 0 0).bun.word.extractLsb' 253 3 = 0 := by decide +kernel

theorem witness_CapabilityMask : recorded.pkg.capmask = capFull ∧ State.reset.pkg.capmask = capTadpole := ⟨rfl, rfl⟩

/-! ### The assembler and the operation lists -/

/-- The kernel that the manual assembles (chapter 4). -/
def scale3 : Text :=
  (".kernel scale3\n.groups 2\n.gregs 8\n.const 0, 3\n.entry start\n" ++
    "start:  $lane -> ia0.a | k0 -> ia0.mul.i32\n        nop\n        nop\n        ia0.r -> g1 %stop\n.kend").toList

theorem test_asm_scale3 :
    ((assemble scale3).toOption.map (fun i => [i.code.length, i.desc.entry, i.desc.groups, i.desc.gregs, i.desc.constLen])) =
      some [4, 0, 2, 8, 1] := by decide +kernel

theorem test_asm_bundle :
    (parseBundle [] 8 0 0 "?!q3 #-3 -> g5 | $lane -> ia1.a | k9 -> ia1.mul.i32".toList).toOption =
      some 0x6000000000000000000000000000000000010496120006001400009DFA800A00#256 := by decide +kernel

/-- A container with one list: it adds constant 2 to each i32 element of a stream at k0 and writes it at k4. -/
def addList : List Byte :=
  leBytes 4 0x4C4F4B58 ++ leBytes 4 1 ++ leBytes 4 1 ++ leBytes 4 200 ++ leBytes 8 64 ++ leBytes 8 4 ++ leBytes 32 0 ++
    leBytes 8 80 ++ leBytes 4 120 ++ leBytes 4 3 ++
    leBytes 2 2 ++ leBytes 2 1 ++ leBytes 2 1 ++ leBytes 10 0 ++
    leBytes 8 0x300 ++ leBytes 4 64 ++ leBytes 4 1 ++ leBytes 8 0x100000001 ++ leBytes 4 4 ++ leBytes 20 0 ++
    leBytes 8 0x10304 ++ leBytes 4 64 ++ leBytes 4 1 ++ leBytes 8 0x100000001 ++ leBytes 4 4 ++ leBytes 20 0 ++
    leBytes 8 (0x4000 * 2 ^ 16 + 0xC002 * 2 ^ 48)

/-- Its constants: the bases 0x1000 and 0x2000, 2, and a trip count of 2. -/
def addConsts (i : Nat) : BitVec 32 := tget 0 [(0, 0x1000), (2, 2), (3, 2), (4, 0x2000)] i

theorem test_list_results :
    (((readContainer { pkg := { capmask := capFull } } addList).toOption.bind (fun ls => ls.head?.bind (·.toOption))).map (fun l =>
      (checkList { pkg := { capmask := capFull } } addConsts l, listWrites l addConsts (fun _ j => 40 + j)))) =
      some (none, [(0x2000, 4, 42), (0x2004, 4, 43)]) := by decide +kernel

theorem test_list_short :
    ((readContainer { pkg := { capmask := capFull } } addList).toOption.map (fun ls => ls.map (fun l => l.toOption.map
      (checkList { pkg := { capmask := capFull } } (fun i => if i = 3 then 65 else addConsts i))))) =
      some [some (some .short)] := by decide +kernel

end Sys2Proof.Tests
end

section
/-! The cores in service under each value of CAPMASK that R32 gives. -/

namespace Sys2Proof.Machine

/-! ### The DIES field and the TADPOLE bit -/

theorem dieOf_lt_eight {c : Nat} (hc : c < 576) : dieOf c < 8 := Nat.div_lt_of_lt_mul hc

theorem dieUp_of_capFull {s : State} {d : Nat} (hs : s.pkg.capmask = capFull) (hd : d < 8) : dieUp s d = true := by
  have bits : ∀ d < 8, capFull.getLsbD (8 + d) = true := by decide
  simpa only [dieUp, hs] using bits d hd

theorem dieUp_of_capTadpole {s : State} {d : Nat} (hs : s.pkg.capmask = capTadpole) (hd : d < 8) :
    dieUp s d = decide (d = 0) := by
  have bits : ∀ d < 8, capTadpole.getLsbD (8 + d) = decide (d = 0) := by decide
  simpa only [dieUp, hs] using bits d hd

theorem capFull_tadpole : capFull.getLsbD 39 = false := by decide

theorem capTadpole_tadpole : capTadpole.getLsbD 39 = true := by decide

/-! ### The cores in service -/

/-- Full service has every core of the package. -/
theorem coreUp_of_capFull {s : State} (c : Nat) (hs : s.pkg.capmask = capFull) : coreUp s c = decide (c < 576) := by
  unfold coreUp
  by_cases hc : c < 576
  · rw [dieUp_of_capFull hs (dieOf_lt_eight hc), hs, capFull_tadpole]
    simp
  · simp [hc]

/-- The cores of Tadpole service: rows 0 to 2 and columns 0 to 5 of die 0 (R32). -/
def tadpoleCore (c : Nat) : Bool := decide (c < 72 ∧ c / 12 ≤ 2 ∧ c % 12 ≤ 5)

/-- Core c of the package is core c % 72 of its die, and only die 0 is in service, so there c % 72 is c itself. -/
theorem coreUp_of_capTadpole {s : State} (c : Nat) (hs : s.pkg.capmask = capTadpole) : coreUp s c = tadpoleCore c := by
  unfold coreUp tadpoleCore
  by_cases hc : c < 576
  · rw [dieUp_of_capTadpole hs (dieOf_lt_eight hc), hs, capTadpole_tadpole, Bool.eq_iff_iff]
    simp only [dieOf, Nat.div_eq_zero_iff_lt, Nat.zero_lt_succ, Bool.not_true, Bool.false_or, Bool.and_eq_true, decide_eq_true_eq]
    omega
  · have beyond : ¬ c < 72 := by omega
    simp [hc, beyond]

/-- 18 cores are the NCORE of Tadpole service (R32). -/
theorem length_tadpoleCores : ((List.range 576).filter tadpoleCore).length = 18 := by decide +kernel

/-- The rows 0 to 2 hold whole pairs, three in each row. -/
theorem length_tadpolePairs :
    ((List.range 576).filter (fun c => tadpoleCore c && leaderOf c == c && tadpoleCore (c + 1))).length = 9 := by decide +kernel

end Sys2Proof.Machine

open Sys2Proof.Machine

/-- Settles O59: the fields are read off the two words; the cores follow from the DIES field and the TADPOLE bit. -/
theorem capabilityMask : Obligations.CapabilityMask := by
  unfold Obligations.CapabilityMask
  refine ⟨by decide, by decide, fun s c hs => coreUp_of_capFull c hs, fun s hs => ?_⟩
  simp only [coreUp_of_capTadpole _ hs]
  exact ⟨fun c => decide_eq_true_iff, length_tadpoleCores, length_tadpolePairs⟩
end

section
/-! The form of a bundle: what check 1 of R80 refuses, and how the end of a bundle with STOP ends its group (R61). -/

namespace Sys2Proof.Machine

/-! ### The slots that MCNT names -/

/-- MCNT has 3 bits, so every value but 7 counts slots of the bundle. -/
theorem slotsUsed_eq_mcnt {w : BitVec 256} (h : w.extractLsb' 253 3 ≠ 7) : slotsUsed w = (w.extractLsb' 253 3).toNat := by
  unfold slotsUsed
  bv_omega

theorem openSlots_of_done_nil {b : Bundle} (h : b.done = []) : openSlots b = List.range (slotsUsed b.word) := by
  simp [openSlots, usedSlots, h]

theorem openSlots_of_slotsUsed_zero {b : Bundle} (h : slotsUsed b.word = 0) : openSlots b = [] := by
  simp [openSlots, usedSlots, h]

/-! ### Check 1 of R80 -/

theorem checkBundleFields_of_whole {w : BitVec 256} (h : w.extractLsb' 253 3 = 7 ∨ w.extractLsb' 240 8 ≠ 0) :
    checkBundleFields w = some 0 := if_pos h

theorem checkBundleFields_of_unused {w : BitVec 256} {i : Nat} (hi : i < 6) (hu : slotsUsed w ≤ i) (hn : slotWord w i ≠ 0) :
    ∃ j, checkBundleFields w = some j := by
  rw [← Option.isSome_iff_exists]
  unfold checkBundleFields
  split
  · rfl
  · exact List.find?_isSome.2 ⟨i, List.mem_range.2 hi, by simpa [hu] using hn⟩

/-- Every bundle that R61 calls illegal fails check 1. -/
theorem checkBundleFields_of_illegal {w : BitVec 256}
    (h : w.extractLsb' 253 3 = 7 ∨ w.extractLsb' 240 8 ≠ 0 ∨
      ∃ i < 6, (w.extractLsb' 253 3).toNat ≤ i ∧ slotWord w i ≠ 0) : ∃ j, checkBundleFields w = some j := by
  obtain hm | hz | ⟨i, hi, hu, hn⟩ := h
  · exact ⟨0, checkBundleFields_of_whole (.inl hm)⟩
  · exact ⟨0, checkBundleFields_of_whole (.inr hz)⟩
  · exact checkBundleFields_of_unused hi ((Nat.min_le_right _ _).trans hu) hn

theorem checkBundleFields_of_empty {w : BitVec 256} (hm : w.extractLsb' 253 3 = 0) (hz : w.extractLsb' 240 8 = 0)
    (hs : ∀ i < 6, slotWord w i = 0) : checkBundleFields w = none := by
  have used : slotsUsed w = 0 := by simp [slotsUsed, hm]
  unfold checkBundleFields
  rw [if_neg (by simp [hm, hz]), List.find?_eq_none]
  intro i hi
  simp [used, hs i (List.mem_range.1 hi)]

/-- Check 1 comes before every other check: what fails it is reported, with cause 0x01. -/
theorem issueFault_of_checkBundleFields {s : State} {c sl : Nat} {g : Group} {b : Bundle} {i : Nat}
    (h : checkBundleFields b.word = some i) : issueFault s c sl g b = some { slot := i, cause := 0x01 } := by
  simp only [issueFault, h]

/-- The checks after the first look at the open slots alone. -/
theorem issueFault_of_openSlots_nil {s : State} {c sl : Nat} {g : Group} {b : Bundle} (h : checkBundleFields b.word = none)
    (ho : openSlots b = []) : issueFault s c sl g b = none := by
  simp only [issueFault, h, ho, List.find?_nil, Option.map_none]

/-! ### What leaves the ended groups ended -/

/-- What no step of a fold changes, the fold does not change. -/
theorem foldl_same {α β γ : Type} (v : β → γ) {f : β → α → β} (hf : ∀ b a, v (f b a) = v b) (l : List α) (b : β) :
    v (l.foldl f b) = v b :=
  List.foldlRecOn l f (motive := fun b' => v b' = v b) rfl (fun b' same a _ => (hf b' a).trans same)

@[simp] theorem setPort_ended (g : Group) (hand : Bool) (u : Nat) (p : Port) : (setPort g hand u p).ended = g.ended := by
  cases hand <;> rfl

@[simp] theorem fillEntry_ended (g : Group) (cyc : Nat) (hand : Bool) (u i : Nat) (v : Row) :
    (fillEntry g cyc hand u i v).ended = g.ended := by
  unfold fillEntry
  split
  · rfl
  · exact setPort_ended ..

@[simp] theorem fillBars_ended (g : Group) (cyc b : Nat) (gen : BitVec 32) : (fillBars g cyc b gen).ended = g.ended := by
  refine foldl_same Group.ended (fun g x => ?_) _ _
  split
  · split <;> simp
  · split <;> simp
  · rfl

@[simp] theorem streamFill_ended (g : Group) (u : Nat) : (streamFill g u).ended = g.ended := by
  unfold streamFill
  extract_lets st
  split
  · exact setPort_ended ..
  · rfl

@[simp] theorem refetchStreams_ended (g : Group) : (refetchStreams g).ended = g.ended := by
  refine foldl_same Group.ended (fun g p => ?_) _ _
  split <;> simp

/-- A change of one group that leaves its ended flag leaves that of every group. -/
theorem ended_modGroup {f : Group → Group} (hf : ∀ g, (f g).ended = g.ended) (s : State) (c sl d y : Nat) :
    (group (modGroup s c sl f) d y).ended = (group s d y).ended := by
  rw [group_modGroup]
  split
  · rename_i h
    rw [hf, h.1, h.2]
  · rfl

/-- A change of a core that leaves its groups leaves every group. -/
theorem group_modCore_of_groups {f : Core → Core} (hf : ∀ k, (f k).groups = k.groups) (s : State) (c d y : Nat) :
    group (modCore s c f) d y = group s d y := by
  rw [group_modCore, hf]
  split
  · rename_i h
    rw [h, group]
  · rfl

@[simp] theorem acquire_ended (s : State) (c sl : Nat) (wide : Bool) (d y : Nat) :
    (group (acquire s c sl wide) d y).ended = (group s d y).ended := by
  unfold acquire
  extract_lets t s'
  have floor : group s' d y = group s d y := by
    simp only [s']
    split
    · exact group_modCore_of_groups (fun _ => by rfl) ..
    · rfl
  rw [ended_modGroup (fun g => ?_), floor]
  cases wide <;> exact refetchStreams_ended _

/-- The phase of a team's barrier fills entries and acquires, and ends no group. -/
@[simp] theorem phaseCheck_ended (s : State) (t b d y : Nat) :
    (group (phaseCheck s t b) d y).ended = (group s d y).ended := by
  unfold phaseCheck
  extract_lets tm nb gen s1
  split
  · refine foldl_same (fun s => (group s d y).ended) (fun s p => ?_) _ _
    extract_lets joined s2
    have filled : (group s2 d y).ended = (group s d y).ended := ended_modGroup (fun g => fillBars_ended ..) ..
    split
    · rw [acquire_ended, filled]
    · exact filled
  · rfl

@[simp] theorem group_bumpCluster (s : State) (g cid d y : Nat) : group (bumpCluster s g cid) d y = group s d y := by
  unfold bumpCluster
  split <;> rfl

@[simp] theorem group_releaseHalos (s : State) (tid : Nat) (t : Team) (d y : Nat) :
    group (releaseHalos s tid t) d y = group s d y := group_modCore_of_groups (fun _ => by rfl) ..

@[simp] theorem fillCbar_ended (s : State) (c sl : Nat) (gen : BitVec 32) (d y : Nat) :
    (group (fillCbar s c sl gen) d y).ended = (group s d y).ended := by
  unfold fillCbar
  extract_lets g
  split
  · rw [acquire_ended, ended_modGroup (fun g => ?_)]
    refine foldl_same Group.ended (fun g x => ?_) _ _
    split <;> simp
  · rfl

/-- The phase of a cluster's barrier fills entries, acquires and releases halos, and ends no group. -/
@[simp] theorem clusterCheck_ended (s : State) (tid d y : Nat) :
    (group (clusterCheck s tid) d y).ended = (group s d y).ended := by
  unfold clusterCheck
  extract_lets t ts any s1 gen s2
  split
  · have filled : (group s2 d y).ended = (group s1 d y).ended :=
      foldl_same (fun s => (group s d y).ended)
        (fun s p => foldl_same (fun s => (group s d y).ended) (fun s q => fillCbar_ended ..) _ s) _ _
    rw [foldl_same (fun s => group s d y) (fun s p => group_releaseHalos ..), filled, group_bumpCluster]
  · rfl

/-- The barriers that the end of a group completes do not undo it. -/
@[simp] theorem endGroup_ended (s : State) (c sl : Nat) : (group (endGroup s c sl) c sl).ended = true := by
  unfold endGroup
  extract_lets g s1 s2
  rw [clusterCheck_ended, foldl_same (fun s => (group s c sl).ended) (fun s b => phaseCheck_ended s g.team b c sl)]
  rw [group_modTeam, group_modGroup_self]

/-! ### The end of a bundle with STOP -/

/-- A bundle with STOP that has no fault, trap or return ends its group (R177). -/
theorem finishBundle_of_stop {s : State} {c sl : Nat} (hf : (group s c sl).bun.faults = []) (ht : (group s c sl).bun.trap = none)
    (hr : (group s c sl).bun.rti = false) (hs : (group s c sl).bun.word.getLsbD 252 = true) :
    ∃ s', finishBundle s c sl = endGroup s' c sl := by
  unfold finishBundle
  extract_lets g b s' looped stop
  have sound : worstFault b.faults = none := congrArg worstFault hf
  have untrapped : b.trap = none := ht
  have stays : b.rti = false := hr
  have last : stop = true := hs
  exact ⟨s', by simp only [sound, untrapped, stays, last, Bool.true_or, Bool.false_eq_true, if_true, if_false]⟩

end Sys2Proof.Machine

open Sys2Proof.Machine

/-- Settles O24: check 1 sees the whole form of a bundle and comes first; with no move nothing is left to check or to perform. -/
theorem bundleFormIsChecked : Obligations.BundleFormIsChecked := by
  unfold Obligations.BundleFormIsChecked
  refine ⟨fun s c sl g b => ⟨fun illegal => ?_, fun hm hz hs => ?_, fun hd hm => ?_⟩,
    fun s c sl hf ht hr _ _ hstop => ?_, by decide⟩
  · obtain ⟨j, hj⟩ := checkBundleFields_of_illegal illegal
    rw [issueFault_of_checkBundleFields hj, Option.map_some]
  · have idle : openSlots b = [] := openSlots_of_slotsUsed_zero (by simp [slotsUsed, hm])
    exact ⟨issueFault_of_openSlots_nil (checkBundleFields_of_empty hm hz hs) idle, idle⟩
  · rw [openSlots_of_done_nil hd, slotsUsed_eq_mcnt hm]
  · obtain ⟨s', hs'⟩ := finishBundle_of_stop hf ht hr hstop
    rw [hs', endGroup_ended]
end

section
/-! The mx operations on the records, COP and MXSTAT: what each computes from its operands and adds as an entry (R258 to R261, R276). -/

namespace Sys2Proof.Machine

/-! ### The trigger's unit -/

/-- The package has one mx unit to a core, so its instance 0 is unit 18 (R17, R70). -/
theorem unitCode_mx {t : Trig} (h : t.inst = 0) : unitCode .mx t = 18 := by
  simp [unitCode, UnitCls.base, h]

/-- An mx trigger that is being carried out with a lane enabled runs with the operands of unit 18. -/
theorem runTrig_mx_carried {i : Instr} {op : Nat} {t : Trig} {s : State} {c sl k : Nat}
    {f : State → Nat → Nat → Nat → Opnd → State} (hi : trigOf i = some (.mx, op, t)) (h : Carried s c sl k t.src)
    (hen : moveLanes s c sl k ≠ 0) (hu : t.inst = 0) :
    runTrig i .mx t s f = f s c sl k (operands s c sl k 18) := by
  rw [runTrig_carried hi h hen, unitCode_mx hu]

/-! ### mxres -/

/-- A pass that copied record i of team tm no longer marks it (R260): its number becomes 16, which names no record. -/
def forgetRecord (tm i : Nat) (p : MxOp) : MxOp :=
  if p.team = tm then { p with ia := if p.ia = i then 16 else p.ia, ib := if p.ib = i then 16 else p.ib } else p

/-- mxres with operands that pass the three checks of R260 writes the record and answers it. -/
theorem runMxres_of_checks {fmt : Nat} {s : State} {c sl k : Nat} {o : Opnd} {T A B len soff : Nat}
    (hT : (uniform o.en o.t).toNat % 2 ^ 32 = T) (hA : (uniform o.en o.a).toNat % 2 ^ 32 = A)
    (hB : (uniform o.en o.b).toNat % 2 ^ 32 = B) (hlen : A % 2 ^ 20 = len) (hsoff : B % 2 ^ 20 = soff)
    (legal : ¬ (2 ^ 24 ≤ T ∨ 2 ^ 20 ≤ A ∨ 2 ^ 21 ≤ B ∨ len = 0 ∨ len < soff))
    (aligned : ¬ (T % 16 ≠ 0 ∨ len % 16 ≠ 0 ∨ soff % 16 ≠ 0))
    (inside : (aperture s (group s c sl).team (apertureBase + T) len).isSome = true) :
    let r := newRecord fmt T len soff (B / 2 ^ 20)
    runMxres fmt s c sl k o =
      mxSimple (modCore (setRec s (group s c sl).team (recNo o) r) (leaderOf c) (fun x => { x with
        mxops := x.mxops.map (forgetRecord (group s c sl).team (recNo o)) })) c sl k o r := by
  have mapped : ¬ (aperture s (group s c sl).team (apertureBase + T) len).isNone = true := by
    simpa [Option.isSome_iff_ne_none] using inside
  subst hT hA hB hlen hsoff
  unfold runMxres
  extract_lets tv av bv len soff i tm r
  rw [if_neg legal, if_neg aligned, if_neg mapped]
  rfl

/-! ### The operations as a bundle carries them out -/

section Carried
variable {s : State} {c sl k : Nat} {t : Trig} (h : Carried s c sl k t.src) (hen : moveLanes s c sl k ≠ 0) (hu : t.inst = 0)
include h hen hu

theorem exec_mxMxres_carried :
    exec (.mxMxres t) s = .next (runMxres t.typ.toNat s c sl k (operands s c sl k 18)) :=
  congrArg Host.Outcome.next (runTrig_mx_carried rfl h hen hu)

/-- mxrel clears VALID, bit 63 of the record, and answers 0 (R261). -/
theorem exec_mxMxrel_carried :
    let o := operands s c sl k 18
    exec (.mxMxrel t) s = .next (mxSimple (setRec s (group s c sl).team (recNo o)
      (recAt s c sl (recNo o) &&& ~~~(1#128 <<< 63))) c sl k o 0) :=
  congrArg Host.Outcome.next (runTrig_mx_carried rfl h hen hu)

/-- mxcop writes the uniform T to COP and answers 0 (R255, R261). -/
theorem exec_mxMxcop_carried :
    let o := operands s c sl k 18
    exec (.mxMxcop t) s = .next (mxSimple (modTeam s (group s c sl).team (fun x => { x with cop := uniform o.en o.t }))
      c sl k o 0) :=
  congrArg Host.Outcome.next (runTrig_mx_carried rfl h hen hu)

/-- mxstat.ob answers the record and changes nothing else (R276). -/
theorem exec_mxMxstat_ob_carried (htyp : t.typ = 2) :
    let o := operands s c sl k 18
    exec (.mxMxstat t) s = .next (mxSimple s c sl k o (recAt s c sl (recNo o))) :=
  congrArg Host.Outcome.next ((runTrig_mx_carried rfl h hen hu).trans (if_pos htyp))

/-- mxstat.st and mxstat.clr answer the leader's MXSTAT as it stands before the flags are cleared (R276). -/
theorem exec_mxMxstat_flags_carried (htyp : t.typ ≠ 2) :
    exec (.mxMxstat t) s = .next (mxSimple
      (if t.typ = 1 then modCore s (leaderOf c) (fun x => { x with mxflags := x.mxflags &&& 0x60 }) else s)
      c sl k (operands s c sl k 18) (BitVec.ofNat 128 (mxstat s (leaderOf c)))) :=
  congrArg Host.Outcome.next ((runTrig_mx_carried rfl h hen hu).trans (if_neg htyp))

end Carried

end Sys2Proof.Machine

open Sys2Proof.Machine

/-- Settles O22: a carried mx operation is its run on the operands of unit 18; mxstat splits by its TYPE, and the operands of mxres
pass the three checks of R260. -/
theorem matrixRegisterOperations : Obligations.MatrixRegisterOperations := by
  unfold Obligations.MatrixRegisterOperations
  intro s c sl k t h hen hu
  refine ⟨exec_mxMxrel_carried h hen hu, exec_mxMxcop_carried h hen hu, exec_mxMxstat_ob_carried h hen hu, fun hst => ?_,
    fun hclr => ?_, ?_⟩
  · rw [exec_mxMxstat_flags_carried h hen hu (by simp [hst]), if_neg (by simp [hst])]
    rfl
  · rw [exec_mxMxstat_flags_carried h hen hu (by simp [hclr]), if_pos hclr]
    rfl
  · intro T A B len soff r hT hA hB hlen hsoff alignT alignLen alignSoff inside
    have legal : ¬ (2 ^ 24 ≤ T ∨ 2 ^ 20 ≤ A ∨ 2 ^ 21 ≤ B ∨ len = 0 ∨ len < soff) := by omega
    have aligned : ¬ (T % 16 ≠ 0 ∨ len % 16 ≠ 0 ∨ soff % 16 ≠ 0) := by omega
    rw [exec_mxMxres_carried h hen hu, runMxres_of_checks (o := operands s c sl k 18) rfl rfl rfl rfl rfl legal aligned inside]
    rfl
end
